-- ==== Sys2Proof/Word.lean ====
section
/-! DEFINITION. Word.lean: the word types of the NX-8 (R7: bits are numbered from the least significant one, and a
byte is 8 bits). -/

namespace Sys2Proof

/-- One byte of memory. -/
abbrev Byte := BitVec 8
/-- A register or bus word of 8 bytes. -/
abbrev Word := BitVec 64
/-- A status code (R14): 4 bits of class and 12 bits of number. -/
abbrev Status := BitVec 16

end Sys2Proof
end

