-- ==== Sys2Proof/Syntax.lean ====
section
/-! DEFINITION. Syntax.lean: the commands of the block, one constructor for each row of the opcode table, and the types
of their operands. A command of a stream carries its logical tile and its command word (R209) without the OPCODE and
ENGINE fields, which the constructor names. A hamper carries its port and slot (R286): its header and body stand in
slot memory. A packet row carries the packet as it arrives (R315). -/

namespace Sys2Proof

/-- The two host ports (R281). -/
inductive Port where
  | a | b
  deriving DecidableEq, Repr

/-- The engines of a tile by Table 1.2's ids: sequencer 0, ME 1, DE 2, VE 3, RU 4, DSU 5, SE 6, UE 7, TM 8. -/
inductive Engine where
  | sq | me | de | ve | ru | dsu | se | ue | tm
  deriving DecidableEq, Repr

/-- An operand slot of a command word (R211 Table 8.3). -/
structure OpSlot where
  aidx : BitVec 4
  didx : BitVec 12
  off : BitVec 32
  deriving DecidableEq, Repr

/-- A command word without OPCODE and ENGINE (R209 Table 8.1). -/
structure CmdWord where
  pen : Bool
  pinv : Bool
  psel : BitVec 3
  flags : BitVec 5
  dsel : BitVec 8
  slot0 : OpSlot
  slot1 : OpSlot
  slot2 : OpSlot
  slot3 : OpSlot
  imm16 : BitVec 16
  tag : BitVec 16
  deriving DecidableEq, Repr

/-- The commands that a stream can hold (Tables 2.5, 8.6 and the engine chapters), one for each such row. -/
inductive Op where
  | nop
  | endStream
  | seti
  | mov
  | aluAdd
  | aluSub
  | aluMul
  | aluAnd
  | aluOr
  | aluXor
  | aluShl
  | aluShr
  | aluSar
  | aluMin
  | aluMax
  | aluMinu
  | aluMaxu
  | cmp
  | pstat
  | wait
  | lds
  | sts
  | cfgr
  | cfgw
  | xct
  | loop
  | endloop
  | stepEnd
  | stepGet
  | mm
  | mmS24
  | mmBs
  | mmCasc
  | mmJoin
  | dmm
  | dmmCasc
  | dmmJoin
  | dsDiv
  | dsSqrt
  | dsRsqrt
  | dsRcp
  | seFact
  | seSolve
  | seBand
  | seResume
  | seJoin
  | veAdd
  | veSub
  | veMul
  | veFma
  | veMax
  | veMin
  | veAbs
  | veCvt
  | veCmp
  | veQadd
  | veQsub
  | veQmulr
  | veQshr
  | veEpi
  | ruSum
  | ruDot
  | ruSsq
  | ruMax
  | ruMin
  | ruAmax
  | ruHist
  | ueRun
  | handoff
  | tmCopy
  | tmGather
  | tmScatter
  | tmFill
  | tmPrefetch
  | tmClean
  | fbLoad
  | fbStore
  | fbAtomicAdd
  | fbAtomicAnd
  | fbAtomicOr
  | fbAtomicXor
  | fbAtomicMin
  | fbAtomicMax
  | fbAtomicMinu
  | fbAtomicMaxu
  | fbAtomicSwap
  | fbAtomicCas
  | fadd
  | fxadd
  | fbTrigger
  | fbFence
  | fbSend
  | fbRecv
  | fbWait
  | storeStream
  | fbCtrset
  | collGroup
  | sumAll
  | collWait
  deriving DecidableEq, Repr

/-- A fabric packet as a porch receives it (R315 Table 11.2): header fields, payload bytes and trailer. -/
structure Packet where
  typ : BitVec 8
  pflags : BitVec 8
  dst : BitVec 16
  src : BitVec 16
  path : BitVec 8
  subop : BitVec 8
  jtag : BitVec 32
  seq : BitVec 32
  ackbase : BitVec 32
  length : BitVec 16
  handle : BitVec 16
  offset : BitVec 48
  stile : BitVec 8
  rsvd : BitVec 8
  payload : List Byte
  trailer : BitVec 32
  deriving DecidableEq, Repr

/-- The setup record of a collective (R366), as its packets carry it. The layout of its 64 parameter bytes is not in
the spec, so the record is held as fields (log 22). In a `COLL_SETUP_RSP` the chunk entries hold the anchors. -/
structure SetupRecord where
  step : BitVec 64
  count : Nat
  srcFmt : BitVec 5
  dstFmt : BitVec 5
  exact : Bool
  fixed : Bool
  slotLog2 : Nat
  abort : Bool
  stepDiffers : Bool
  paramsDiffer : Bool
  chunks : List (Int × BitVec 4)
  deriving DecidableEq, Repr

/-- A TIME packet (R431): its sequence, its two time words, and its keyed check over the packet. -/
structure TimePacket where
  packet : Packet
  arrival : BitVec 64
  deriving DecidableEq, Repr

/-- One chunk of a loader image: the stream and descriptor table of one tile (R208). The container format of the image
is gqload's and not in the spec, so the image comes as its content (log 15). -/
structure TileImage where
  tile : Nat
  streamBase : Nat
  descBase : Nat
  words : List (BitVec 256)
  descs : List (List Byte)
  data : List (Nat × List Byte)
  stageBase : BitVec 64
  stageStride : BitVec 64
  deriving DecidableEq, Repr

/-- A loader image (R243): the tiles it names, in ascending order. -/
structure LoaderImage where
  tiles : List TileImage
  deriving DecidableEq, Repr

/-- A block frame or a commit frame of a mirror delta on the gallery lanes (R386, R387): the sink's context, the boundary,
the virtual address of the 64 KiB block, its bytes and the CRC-64 of each of its 4 KiB blocks without the address term
(log 26), and the block count of a commit frame. -/
structure GalleryFrame where
  ctx : Nat
  boundary : BitVec 64
  blockVa : Nat
  data : List Byte
  checks : List (BitVec 64)
  count : Nat
  deriving DecidableEq, Repr

/-- One side of a mirror as its package announces it: its own context, the context on this package, whether it is the
sink side, the regions of the source side, the log and copy bytes of the sink side, whether it has accepted the side that
this package announced (R383), and the boundary of the delta on its way (R388). -/
structure MirrorSide where
  twinCtx : Nat
  ourCtx : Nat
  sink : Bool
  regions : List (Nat × Nat)
  logBytes : Nat
  copyBytes : Nat
  agreed : Bool
  sending : Option (BitVec 64)
  deriving DecidableEq, Repr

/-- What a twin's heartbeat says (R380, R381): its pair state, whether it announces a power state below Ready, each
context's step counter and committed boundary, and what its Skeka tells over the gallery of its mirrors and of the
contexts that stand stopped or halted, its endpoint number, the contexts of this package that a handover moved to it, and
those whose mirror it released (R350, R383, R393, R394, log 24). -/
structure TwinHeartbeat where
  pairState : Nat
  endpoint : Option Nat
  lowPower : Bool
  failed : Bool
  steps : List (Nat × BitVec 64)
  committed : List (Nat × BitVec 64)
  sides : List MirrorSide
  stopped : List Nat
  halted : List Nat
  taken : List Nat
  released : List Nat
  deriving DecidableEq, Repr

/-- What a scrub read finds in an ECC word (R267): of an address, or of the pantry cache line that holds its block. -/
inductive ScrubOutcome where
  | clean
  | corrected
  | uncorrectable
  deriving DecidableEq, Repr

/-- The wake events of Table 15.8: work for a tile, a seal on a port, a signal detected on a fabric or gallery lane. -/
inductive WakeCause where
  | work
  | sealWrite (port : Port)
  | signal
  deriving DecidableEq, Repr

/-- Why a port is reset (R283). -/
inductive PortResetCause where
  | perst | hotReset | linkDown
  deriving DecidableEq, Repr

/-- The clock islands of Table 15.1 that a landing joins: a tile by its logical id, a pantry die, a spine die, a porch, a
hearth. -/
inductive Island where
  | tile (t : Nat)
  | pantry (n : Nat)
  | spine (n : Nat)
  | porch (n : Nat)
  | hearth (n : Nat)
  deriving DecidableEq, Repr

/-- IDE key management of a selective stream (R463). -/
inductive IdeKm where
  | query (stream : Nat)
  | keyProg (stream : Nat) (key : List Byte)
  | setGo (stream : Nat)
  | setStop (stream : Nat)
  deriving DecidableEq, Repr

/-- The register a `REGISTER_WRITE` names (R9): of a tile's page, of the pantry regions, or of BAR2, where the write is of 4 or
8 bytes and comes on an IDE stream or on none; or of a port's configuration space: its command register, the control register
of its Resizable BAR (R284), the limits of the address association of an IDE stream (R463). -/
inductive RegTarget where
  | page (t : Nat) (e : Engine) (off : Nat)
  | bar2 (port : Port) (off : Nat) (half : Bool) (stream : Option Nat)
  | pantry (die region : Nat)
  | pantryGen (die : Nat)
  | command (port : Port)
  | barSize (port : Port)
  | ideBase (port : Port) (stream : Nat)
  | ideLimit (port : Port) (stream : Nat)
  deriving DecidableEq, Repr

/-- What a pairing frame of the twin says: the public key of its identity, and whether the twin has checked the key that this
package showed it (R379, log 126). -/
structure PairingFrame where
  pub : List Byte
  checked : Bool
  deriving DecidableEq, Repr

/-- The seal word of a slot, or of the boot buffer, with the IDE stream that the write comes on, none where it comes on none
(R291, R449, R463). -/
structure SealWord where
  word : BitVec 64
  stream : Option Nat := none
  deriving DecidableEq, Repr

/-- The commands of the block: one constructor for each row of the opcode table, in the table's order. -/
inductive Instr where
  /-- `NOP` (R217). -/
  | nop (t : Nat) (w : CmdWord)
  /-- `END` (R220). -/
  | endStream (t : Nat) (w : CmdWord)
  /-- `SETI` (R217). -/
  | seti (t : Nat) (w : CmdWord)
  /-- `MOV` (R217). -/
  | mov (t : Nat) (w : CmdWord)
  /-- `ALU_ADD` (R218). -/
  | aluAdd (t : Nat) (w : CmdWord)
  /-- `ALU_SUB` (R218). -/
  | aluSub (t : Nat) (w : CmdWord)
  /-- `ALU_MUL` (R218). -/
  | aluMul (t : Nat) (w : CmdWord)
  /-- `ALU_AND` (R218). -/
  | aluAnd (t : Nat) (w : CmdWord)
  /-- `ALU_OR` (R218). -/
  | aluOr (t : Nat) (w : CmdWord)
  /-- `ALU_XOR` (R218). -/
  | aluXor (t : Nat) (w : CmdWord)
  /-- `ALU_SHL` (R218). -/
  | aluShl (t : Nat) (w : CmdWord)
  /-- `ALU_SHR` (R218). -/
  | aluShr (t : Nat) (w : CmdWord)
  /-- `ALU_SAR` (R218). -/
  | aluSar (t : Nat) (w : CmdWord)
  /-- `ALU_MIN` (R218). -/
  | aluMin (t : Nat) (w : CmdWord)
  /-- `ALU_MAX` (R218). -/
  | aluMax (t : Nat) (w : CmdWord)
  /-- `ALU_MINU` (R218). -/
  | aluMinu (t : Nat) (w : CmdWord)
  /-- `ALU_MAXU` (R218). -/
  | aluMaxu (t : Nat) (w : CmdWord)
  /-- `CMP` (R218). -/
  | cmp (t : Nat) (w : CmdWord)
  /-- `PSTAT` (R229). -/
  | pstat (t : Nat) (w : CmdWord)
  /-- `WAIT` (R222). -/
  | wait (t : Nat) (w : CmdWord)
  /-- `LDS` (R219). -/
  | lds (t : Nat) (w : CmdWord)
  /-- `STS` (R219). -/
  | sts (t : Nat) (w : CmdWord)
  /-- `CFGR` (R217). -/
  | cfgr (t : Nat) (w : CmdWord)
  /-- `CFGW` (R239). -/
  | cfgw (t : Nat) (w : CmdWord)
  /-- `XCT` (R220). -/
  | xct (t : Nat) (w : CmdWord)
  /-- `LOOP` (R225). -/
  | loop (t : Nat) (w : CmdWord)
  /-- `ENDLOOP` (R225). -/
  | endloop (t : Nat) (w : CmdWord)
  /-- `STEP_END` (R39). -/
  | stepEnd (t : Nat) (w : CmdWord)
  /-- `STEP_GET` (R36). -/
  | stepGet (t : Nat) (w : CmdWord)
  /-- `TILE_ARRIVE` (R39). -/
  | tileArrive (t : Nat)
  /-- `STEP_BOUNDARY` (R40). -/
  | stepBoundary (j : Nat)
  /-- `MM` (R120). -/
  | mm (t : Nat) (w : CmdWord)
  /-- `MM_S24` (R131). -/
  | mmS24 (t : Nat) (w : CmdWord)
  /-- `MM_BS` (R133). -/
  | mmBs (t : Nat) (w : CmdWord)
  /-- `MM_CASC` (R137). -/
  | mmCasc (t : Nat) (w : CmdWord)
  /-- `MM_JOIN` (R136). -/
  | mmJoin (t : Nat) (w : CmdWord)
  /-- `CASCADE_START` (R136). -/
  | cascadeStart (cls : Engine) (die cid : Nat)
  /-- `QUEUE_RESUME` (R129). -/
  | queueResume (t : Nat)
  /-- `DMM` (R146). -/
  | dmm (t : Nat) (w : CmdWord)
  /-- `DMM_CASC` (R148). -/
  | dmmCasc (t : Nat) (w : CmdWord)
  /-- `DMM_JOIN` (R148). -/
  | dmmJoin (t : Nat) (w : CmdWord)
  /-- `DS_DIV` (R151). -/
  | dsDiv (t : Nat) (w : CmdWord)
  /-- `DS_SQRT` (R151). -/
  | dsSqrt (t : Nat) (w : CmdWord)
  /-- `DS_RSQRT` (R151). -/
  | dsRsqrt (t : Nat) (w : CmdWord)
  /-- `DS_RCP` (R151). -/
  | dsRcp (t : Nat) (w : CmdWord)
  /-- `FORWARD_RESUME` (R153). -/
  | forwardResume (t : Nat)
  /-- `SE_FACT` (R157). -/
  | seFact (t : Nat) (w : CmdWord)
  /-- `SE_SOLVE` (R164). -/
  | seSolve (t : Nat) (w : CmdWord)
  /-- `SE_BAND` (R171). -/
  | seBand (t : Nat) (w : CmdWord)
  /-- `SE_RESUME` (R170). -/
  | seResume (t : Nat) (w : CmdWord)
  /-- `SE_JOIN` (R174). -/
  | seJoin (t : Nat) (w : CmdWord)
  /-- `VE_ADD` (R181). -/
  | veAdd (t : Nat) (w : CmdWord)
  /-- `VE_SUB` (R181). -/
  | veSub (t : Nat) (w : CmdWord)
  /-- `VE_MUL` (R181). -/
  | veMul (t : Nat) (w : CmdWord)
  /-- `VE_FMA` (R181). -/
  | veFma (t : Nat) (w : CmdWord)
  /-- `VE_MAX` (R182). -/
  | veMax (t : Nat) (w : CmdWord)
  /-- `VE_MIN` (R182). -/
  | veMin (t : Nat) (w : CmdWord)
  /-- `VE_ABS` (R182). -/
  | veAbs (t : Nat) (w : CmdWord)
  /-- `VE_CVT` (R181). -/
  | veCvt (t : Nat) (w : CmdWord)
  /-- `VE_CMP` (R182). -/
  | veCmp (t : Nat) (w : CmdWord)
  /-- `VE_QADD` (R188). -/
  | veQadd (t : Nat) (w : CmdWord)
  /-- `VE_QSUB` (R188). -/
  | veQsub (t : Nat) (w : CmdWord)
  /-- `VE_QMULR` (R188). -/
  | veQmulr (t : Nat) (w : CmdWord)
  /-- `VE_QSHR` (R188). -/
  | veQshr (t : Nat) (w : CmdWord)
  /-- `VE_EPI` (R190). -/
  | veEpi (t : Nat) (w : CmdWord)
  /-- `EPI_TILE` (R190). -/
  | epiTile (t : Nat)
  /-- `RU_SUM` (R192). -/
  | ruSum (t : Nat) (w : CmdWord)
  /-- `RU_DOT` (R192). -/
  | ruDot (t : Nat) (w : CmdWord)
  /-- `RU_SSQ` (R192). -/
  | ruSsq (t : Nat) (w : CmdWord)
  /-- `RU_MAX` (R193). -/
  | ruMax (t : Nat) (w : CmdWord)
  /-- `RU_MIN` (R193). -/
  | ruMin (t : Nat) (w : CmdWord)
  /-- `RU_AMAX` (R193). -/
  | ruAmax (t : Nat) (w : CmdWord)
  /-- `RU_HIST` (R195). -/
  | ruHist (t : Nat) (w : CmdWord)
  /-- `UE_RUN` (R196). -/
  | ueRun (t : Nat) (w : CmdWord)
  /-- `HANDOFF` (R53). -/
  | handoff (t : Nat) (w : CmdWord)
  /-- `TM_COPY` (R272). -/
  | tmCopy (t : Nat) (w : CmdWord)
  /-- `TM_GATHER` (R275). -/
  | tmGather (t : Nat) (w : CmdWord)
  /-- `TM_SCATTER` (R276). -/
  | tmScatter (t : Nat) (w : CmdWord)
  /-- `TM_FILL` (R272). -/
  | tmFill (t : Nat) (w : CmdWord)
  /-- `TM_PREFETCH` (R277). -/
  | tmPrefetch (t : Nat) (w : CmdWord)
  /-- `TM_CLEAN` (R277). -/
  | tmClean (t : Nat) (w : CmdWord)
  /-- `FB_LOAD` (R322). -/
  | fbLoad (t : Nat) (w : CmdWord)
  /-- `FB_STORE` (R322). -/
  | fbStore (t : Nat) (w : CmdWord)
  /-- `FB_ATOMIC_ADD` (R323). -/
  | fbAtomicAdd (t : Nat) (w : CmdWord)
  /-- `FB_ATOMIC_AND` (R323). -/
  | fbAtomicAnd (t : Nat) (w : CmdWord)
  /-- `FB_ATOMIC_OR` (R323). -/
  | fbAtomicOr (t : Nat) (w : CmdWord)
  /-- `FB_ATOMIC_XOR` (R323). -/
  | fbAtomicXor (t : Nat) (w : CmdWord)
  /-- `FB_ATOMIC_MIN` (R323). -/
  | fbAtomicMin (t : Nat) (w : CmdWord)
  /-- `FB_ATOMIC_MAX` (R323). -/
  | fbAtomicMax (t : Nat) (w : CmdWord)
  /-- `FB_ATOMIC_MINU` (R323). -/
  | fbAtomicMinu (t : Nat) (w : CmdWord)
  /-- `FB_ATOMIC_MAXU` (R323). -/
  | fbAtomicMaxu (t : Nat) (w : CmdWord)
  /-- `FB_ATOMIC_SWAP` (R323). -/
  | fbAtomicSwap (t : Nat) (w : CmdWord)
  /-- `FB_ATOMIC_CAS` (R323). -/
  | fbAtomicCas (t : Nat) (w : CmdWord)
  /-- `FADD` (R325). -/
  | fadd (t : Nat) (w : CmdWord)
  /-- `FXADD` (R324). -/
  | fxadd (t : Nat) (w : CmdWord)
  /-- `FB_TRIGGER` (R326). -/
  | fbTrigger (t : Nat) (w : CmdWord)
  /-- `FB_FENCE` (R340). -/
  | fbFence (t : Nat) (w : CmdWord)
  /-- `FB_SEND` (R328). -/
  | fbSend (t : Nat) (w : CmdWord)
  /-- `FB_RECV` (R328). -/
  | fbRecv (t : Nat) (w : CmdWord)
  /-- `FB_WAIT` (R329). -/
  | fbWait (t : Nat) (w : CmdWord)
  /-- `STORE_STREAM` (R330). -/
  | storeStream (t : Nat) (w : CmdWord)
  /-- `FB_CTRSET` (R329). -/
  | fbCtrset (t : Nat) (w : CmdWord)
  /-- `WAIT_DEADLINE_PASSED` (R329). -/
  | waitDeadlinePassed (t : Nat)
  /-- `COLL_GROUP` (R349). -/
  | collGroup (t : Nat) (w : CmdWord)
  /-- `SUM_ALL` (R354). -/
  | sumAll (t : Nat) (w : CmdWord)
  /-- `COLL_WAIT` (R374). -/
  | collWait (t : Nat) (w : CmdWord)
  /-- `COLL_START` (R369). -/
  | collStart (j : Nat)
  /-- `COLL_SETUP` (R366). -/
  | collSetup (p : Packet) (stage input : Nat) (r : SetupRecord)
  /-- `COLL_SETUP_RSP` (R367). -/
  | collSetupRsp (p : Packet) (r : SetupRecord)
  /-- `COLL_UP` (R360). -/
  | collUp (p : Packet) (stage input : Nat)
  /-- `COLL_DOWN` (R356). -/
  | collDown (p : Packet)
  /-- `COLL_END` (R370). -/
  | collEnd (p : Packet)
  /-- `COLL_TIMEOUT` (R370). -/
  | collTimeout (j gid seq : Nat)
  /-- `COLL_RETRANSMIT` (R358). -/
  | collRetransmit (j gid seq chunk : Nat)
  /-- `LOAD` (R322). -/
  | load (p : Packet)
  /-- `LOAD_RSP` (R336). -/
  | loadRsp (p : Packet)
  /-- `STORE` (R322). -/
  | store (p : Packet)
  /-- `ATOMIC` (R323). -/
  | atomic (p : Packet)
  /-- `ATOMIC_RSP` (R336). -/
  | atomicRsp (p : Packet)
  /-- `TRIGGER` (R326). -/
  | trigger (p : Packet)
  /-- `SEND` (R328). -/
  | send (p : Packet)
  /-- `ACK` (R336). -/
  | ack (p : Packet)
  /-- `NACK` (R336). -/
  | nack (p : Packet)
  /-- `HELD_TRIGGER_RUN` (R49). -/
  | heldTriggerRun (j : Nat)
  /-- `LIST_COMPLETE` (R326). -/
  | listComplete (j id : Nat)
  /-- `RETRANSMIT` (R338). -/
  | retransmit (j dst seq : Nat)
  /-- `MARK_UNREACHABLE` (R345). -/
  | markUnreachable (j dst : Nat)
  /-- `BUSY_RETRY` (R339). -/
  | busyRetry (j dst seq : Nat)
  /-- `FENCE_TIMEOUT` (R341). -/
  | fenceTimeout (t : Nat)
  /-- `MGMT` (R313). -/
  | mgmt (p : Packet) (endpoint : BitVec 16) (paths downPaths : Nat) (checkOk : Bool)
  /-- `SYNC` (R431). -/
  | sync (p : TimePacket)
  /-- `FOLLOW_UP` (R431). -/
  | followUp (p : TimePacket)
  /-- `DELAY_RSP` (R432). -/
  | delayRsp (p : TimePacket)
  /-- `TB_PPS_EDGE` (R430). -/
  | tbPpsEdge
  /-- `TB_LOCK_LOST` (R432). -/
  | tbLockLost
  /-- `LINK_FRAME` (R310). -/
  | linkFrame (gallery : Bool) (lane corrected : Nat) (crcOk : Bool)
  /-- `LANE_DOWN` (R312). -/
  | laneDown (gallery : Bool) (lane : Nat)
  /-- `EYE_RECENTRE` (R311). -/
  | eyeRecentre (gallery : Bool) (lane : Nat)
  /-- `SEAL_WRITE` (R291). -/
  | sealWrite (port : Port) (slot : Nat) (hdr body : List Byte) (word : SealWord)
  /-- `ECHO` (R299). -/
  | echo (port : Port) (slot : Nat)
  /-- `SESSION_OPEN` (R454). -/
  | sessionOpen (port : Port) (slot : Nat)
  /-- `JOB_SETUP` (R299). -/
  | jobSetup (port : Port) (slot : Nat)
  /-- `JOB_LOAD` (R243). -/
  | jobLoad (port : Port) (slot : Nat) (img : LoaderImage)
  /-- `JOB_START` (R299). -/
  | jobStart (port : Port) (slot : Nat)
  /-- `MAP` (R248). -/
  | map (port : Port) (slot : Nat)
  /-- `UNMAP` (R250). -/
  | unmap (port : Port) (slot : Nat)
  /-- `REG_READ` (R299). -/
  | regRead (port : Port) (slot : Nat)
  /-- `REG_WRITE` (R299). -/
  | regWrite (port : Port) (slot : Nat)
  /-- `TILE_RESUME` (R237). -/
  | tileResume (port : Port) (slot : Nat)
  /-- `STOP_AT_STEP` (R46). -/
  | stopAtStep (port : Port) (slot : Nat)
  /-- `STEP_RESUME` (R50). -/
  | stepResume (port : Port) (slot : Nat)
  /-- `TEARDOWN` (R301). -/
  | teardown (port : Port) (slot : Nat)
  /-- `CHECKPOINT` (R403). -/
  | checkpoint (port : Port) (slot : Nat)
  /-- `PAIR` (R379). -/
  | pair (port : Port) (slot : Nat)
  /-- `PAIR_WAIT_EXPIRY` (R379). -/
  | pairWaitExpiry
  /-- `TAKEOVER` (R391). -/
  | takeover (port : Port) (slot : Nat)
  /-- `HANDOVER` (R393). -/
  | handover (port : Port) (slot : Nat)
  /-- `RELEASE_MIRROR` (R394). -/
  | releaseMirror (port : Port) (slot : Nat)
  /-- `RESYNC` (R394). -/
  | resync (port : Port) (slot : Nat)
  /-- `DETACH` (R382). -/
  | detach (port : Port) (slot : Nat)
  /-- `MIRROR_SETUP` (R383). -/
  | mirrorSetup (port : Port) (slot : Nat)
  /-- `MIRROR_SETUP_EXPIRY` (R383). -/
  | mirrorSetupExpiry (j : Nat)
  /-- `TAG_ASSIGN` (R342). -/
  | tagAssign (port : Port) (slot : Nat)
  /-- `TAG_TEARDOWN` (R344). -/
  | tagTeardown (port : Port) (slot : Nat)
  /-- `QUARANTINE_EXPIRY` (R346). -/
  | quarantineExpiry (jtag : Nat)
  /-- `POWER_LIMIT` (R435). -/
  | powerLimit (port : Port) (slot : Nat)
  /-- `FW_UPDATE` (R458). -/
  | fwUpdate (port : Port) (slot : Nat)
  /-- `OWNER_PROGRAM` (R457). -/
  | ownerProgram (port : Port) (slot : Nat)
  /-- `FW_REVOKE` (R457). -/
  | fwRevoke (port : Port) (slot : Nat)
  /-- `OWNER_REVOKE` (R457). -/
  | ownerRevoke (port : Port) (slot : Nat)
  /-- `SVN_ADVANCE` (R457). -/
  | svnAdvance (port : Port) (slot : Nat)
  /-- `FMK_SET` (R457). -/
  | fmkSet (port : Port) (slot : Nat)
  /-- `IDE_LOCK` (R463). -/
  | ideLock (port : Port) (slot : Nat)
  /-- `LIFECYCLE` (R460). -/
  | lifecycle (port : Port) (slot : Nat)
  /-- `DEBUG_UNLOCK` (R462). -/
  | debugUnlock (port : Port) (slot : Nat)
  /-- `RECOVERY_SEAL` (R449). -/
  | recoverySeal (hearth : Nat) (word : SealWord)
  /-- `BAR4_READ` (R266). -/
  | bar4Read (port : Port) (addr len : Nat) (stream : Option Nat)
  /-- `BAR4_WRITE` (R262). -/
  | bar4Write (port : Port) (addr : Nat) (data : List Byte) (stream : Option Nat)
  /-- `ENG_FLAGS_WRITE` (R112). -/
  | engFlagsWrite (t : Nat) (e : Engine) (v : BitVec 64) (racing : Bool)
  /-- `ENG_GEN_WRITE` (R11). -/
  | engGenWrite (t : Nat) (e : Engine) (v : BitVec 64)
  /-- `RWS_WRITE` (R10). -/
  | rwsWrite (t : Nat) (e : Engine) (off : Nat) (v : BitVec 64)
  /-- `RWC_WRITE` (R11). -/
  | rwcWrite (t : Nat) (e : Engine) (off : Nat) (v : BitVec 64)
  /-- `REGISTER_WRITE` (R9). -/
  | registerWrite (target : RegTarget) (v : BitVec 64)
  /-- `PENDING_START` (R222). -/
  | pendingStart (t : Nat) (e : Engine)
  /-- `DISPATCH_RESUME` (R221). -/
  | dispatchResume (t : Nat)
  /-- `COMMAND_RETIRE` (R111). -/
  | commandRetire (t : Nat) (e : Engine)
  /-- `CHUNK_END` (R231). -/
  | chunkEnd (t : Nat) (e : Engine)
  /-- `STRAGGLER_PASS` (R103). -/
  | stragglerPass (t : Nat) (e : Engine)
  /-- `BREAK_HIT` (R236). -/
  | breakHit (t : Nat)
  /-- `TRANSLATION_FAULT` (R249). -/
  | translationFault (t : Nat) (e : Engine)
  /-- `FAULT_RESTART` (R186). -/
  | faultRestart (t : Nat) (e : Engine)
  /-- `GUARD_SAVE` (R413). -/
  | guardSave (block : Nat)
  /-- `GUARD_SLOT_FREE` (R414). -/
  | guardSlotFree
  /-- `CAPTURE_END` (R415). -/
  | captureEnd (j : Nat)
  /-- `MIRROR_DELTA_BLOCK` (R386). -/
  | mirrorDeltaBlock (j : Nat)
  /-- `DELTA_RECEIVE` (R387). -/
  | deltaReceive (f : GalleryFrame)
  /-- `DELTA_COMMIT` (R387). -/
  | deltaCommit (f : GalleryFrame)
  /-- `MIRROR_ACK` (R387). -/
  | mirrorAck (j : Nat) (n : BitVec 64)
  /-- `LOG_APPLY` (R387). -/
  | logApply (j : Nat)
  /-- `CKPT_BLOCK_COPY` (R405). -/
  | ckptBlockCopy (j : Nat)
  /-- `REPLICA_DECIDE_TIMEOUT` (R408). -/
  | replicaDecideTimeout (j k : Nat)
  /-- `MANIFEST_SEND` (R409). -/
  | manifestSend (j : Nat)
  /-- `CKPT_DONE` (R409). -/
  | ckptDone (j : Nat)
  /-- `HEARTH_HEARTBEAT` (R303). -/
  | hearthHeartbeat (missed : Bool)
  /-- `HEARTH_FAILOVER` (R303). -/
  | hearthFailover
  /-- `STANDBY_LOST` (R305). -/
  | standbyLost
  /-- `PAIR_HEARTBEAT` (R380). -/
  | pairHeartbeat (missed : Bool)
  /-- `PAIR_HEARTBEAT_RECEIVE` (R381). -/
  | pairHeartbeatReceive (h : TwinHeartbeat)
  /-- `TWIN_SUSPECT` (R380). -/
  | twinSuspect
  /-- `FAILURE_NOTICE` (R380). -/
  | failureNotice
  /-- `PACKAGE_FAILED` (R396). -/
  | packageFailed (cause : Status)
  /-- `TILE_FAULT` (R397). -/
  | tileFault (t : Nat)
  /-- `PLANE_FAILOVER` (R19). -/
  | planeFailover (plane : Nat)
  /-- `PORCH_FAULT` (R312). -/
  | porchFault (p : Nat)
  /-- `PORCH_REMIRROR` (R396). -/
  | porchRemirror (p : Nat)
  /-- `PC_MAPOUT` (R257). -/
  | pcMapout (pc : Nat)
  /-- `AGING_REPORT` (R398). -/
  | agingReport (t : Nat) (below : Bool)
  /-- `SCRUB` (R267). -/
  | scrub (addr : Nat) (line : Bool) (outcome : ScrubOutcome)
  /-- `REFRESH` (R256). -/
  | refresh (pc bank : Nat)
  /-- `REFRESH_MANAGEMENT` (R256). -/
  | refreshManagement (pc bank : Nat)
  /-- `HOUSEKEEPING_SLICE` (R440). -/
  | housekeepingSlice
  /-- `SAT_LEVEL` (R270): the nanoseconds of a 1 ms window in which a level was saturated, and the delivered shares of the
  levels above and below it in percent. -/
  | satLevel (level ns above below : Nat)
  /-- `CKPT_ADVISORY` (R401). -/
  | ckptAdvisory (bit : Nat)
  /-- `ADVISORY_CLEAR` (R401). -/
  | advisoryClear (bit : Nat)
  /-- `TEMP_SAMPLE` (R441). -/
  | tempSample (temps : List (BitVec 16))
  /-- `GOVERNOR_TICK` (R433). -/
  | governorTick (power tilePower : Nat)
  /-- `CLOCK_STRETCH` (R428). -/
  | clockStretch (t : Nat) (mhz : Nat)
  /-- `LANDING_RESYNC` (R425). -/
  | landingResync (island : Island) (planned : Bool)
  /-- `LANDING_TIMEOUT` (R425). -/
  | landingTimeout (island : Island)
  /-- `ENTER_READY` (R437). -/
  | enterReady
  /-- `WAKE` (R439). -/
  | wake (cause : WakeCause)
  /-- `THERMTRIP` (R477). -/
  | thermtrip
  /-- `SUPPLY_FAULT` (R475). -/
  | supplyFault (rail : Nat)
  /-- `DEVICE_RESET` (R473). -/
  | deviceReset
  /-- `BOOT_IMAGE_ACCEPT` (R448). -/
  | bootImageAccept (hearth : Nat) (readError : Bool)
  /-- `HEARTH_ROLE_SELECT` (R450). -/
  | hearthRoleSelect
  /-- `BOOT_READY` (R446). -/
  | bootReady (availTiles : List Nat) (spares : List Nat)
  /-- `PORT_RESET` (R283). -/
  | portReset (port : Port) (cause : PortResetCause)
  /-- `FUNCTION_LEVEL_RESET` (R283). -/
  | functionLevelReset (port : Port)
  /-- `PAIR_SENSE_CHANGE` (R476). -/
  | pairSenseChange (level : Bool)
  /-- `IDE_INTEGRITY_FAIL` (R463). -/
  | ideIntegrityFail (port : Port) (stream : Nat)
  /-- `BMC_OFFSET_WRITE` (R479). -/
  | bmcOffsetWrite (off : BitVec 16)
  /-- `BMC_ADDRESS_ASSIGN` (R479). -/
  | bmcAddressAssign (addr : BitVec 7)
  /-- `DOE_DISCOVERY` (R452). -/
  | doeDiscovery (port : Port) (index : Nat)
  /-- `GET_VERSION` (R452). -/
  | getVersion (port : Port)
  /-- `GET_CAPABILITIES` (R452). -/
  | getCapabilities (port : Port) (version : Nat)
  /-- `NEGOTIATE_ALGORITHMS` (R452). -/
  | negotiateAlgorithms (port : Port) (offersAsym offersHash offersDhe offersAead : Bool)
  /-- `GET_DIGESTS` (R452). -/
  | getDigests (port : Port)
  /-- `GET_CERTIFICATE` (R452). -/
  | getCertificate (port : Port) (slot off len : Nat)
  /-- `CHALLENGE` (R452). -/
  | challenge (port : Port) (slot : Nat) (nonce : List Byte)
  /-- `GET_MEASUREMENTS` (R452). -/
  | getMeasurements (port : Port) (index : Nat) (nonce : List Byte)
  /-- `KEY_EXCHANGE` (R452). -/
  | keyExchange (port : Port) (slot : Nat) (hostKey : List Byte)
  /-- `FINISH` (R452). -/
  | finish (port : Port) (verify : List Byte)
  /-- `HEARTBEAT` (R452). -/
  | heartbeat (port : Port)
  /-- `KEY_UPDATE` (R452). -/
  | keyUpdate (port : Port) (both : Bool)
  /-- `END_SESSION` (R452). -/
  | endSession (port : Port)
  /-- `IDE_KM` (R463). -/
  | ideKm (port : Port) (op : IdeKm)
  /-- `SYS_RST_N_LOW` (R473). -/
  | sysRstNLow (ns : Nat)
  /-- `VAUX_LOSS` (R471). -/
  | vauxLoss
  /-- `PORT_LINK_UP` (R308). -/
  | portLinkUp (port : Port)
  /-- `STANDBY_BOOT` (R438). -/
  | standbyBoot
  /-- `PAIRING_FRAME` (R379). -/
  | pairingFrame (frame : PairingFrame)
  /-- `UNASSIGNED_OPCODE` (R298). -/
  | unassignedOpcode (port : Port) (slot : Nat)
  deriving DecidableEq, Repr

end Sys2Proof
end

