-- ==== Sys2Proof/WellFormed.lean ====
section
/-! DEFINITION. WellFormed.lean: what makes a command well formed: for a command of a stream the static legality of its
word (check 1 of Table 8.15: reserved bits, codes, `DSEL`, `PEN`, register numbers), for the others their numbers
within the device's. -/

namespace Sys2Proof

/-- The owner of a command (R210 Table 8.2). -/
def Op.engine : Op → Engine
  | .mm | .mmS24 | .mmBs | .mmCasc | .mmJoin => .me
  | .dmm | .dmmCasc | .dmmJoin => .de
  | .dsDiv | .dsSqrt | .dsRsqrt | .dsRcp => .dsu
  | .seFact | .seSolve | .seBand | .seResume | .seJoin => .se
  | .veAdd | .veSub | .veMul | .veFma | .veMax | .veMin | .veAbs | .veCvt | .veCmp | .veQadd | .veQsub | .veQmulr
  | .veQshr | .veEpi => .ve
  | .ruSum | .ruDot | .ruSsq | .ruMax | .ruMin | .ruAmax | .ruHist => .ru
  | .ueRun => .ue
  | .handoff | .tmCopy | .tmGather | .tmScatter | .tmFill | .tmPrefetch | .tmClean | .fbLoad | .fbStore
  | .fbAtomicAdd | .fbAtomicAnd | .fbAtomicOr | .fbAtomicXor | .fbAtomicMin | .fbAtomicMax | .fbAtomicMinu
  | .fbAtomicMaxu | .fbAtomicSwap | .fbAtomicCas | .fadd | .fxadd | .fbTrigger | .fbFence | .fbSend | .fbRecv
  | .fbWait | .storeStream | .fbCtrset | .collGroup | .sumAll | .collWait => .tm
  | .nop | .endStream | .seti | .mov | .aluAdd | .aluSub | .aluMul | .aluAnd | .aluOr | .aluXor | .aluShl | .aluShr
  | .aluSar | .aluMin | .aluMax | .aluMinu | .aluMaxu | .cmp | .pstat | .wait | .lds | .sts | .cfgr | .cfgw | .xct
  | .loop | .endloop | .stepEnd | .stepGet => .sq

/-- The opcode of a command (R36, R120, R146, R150, R156, R182, R191, R196, R217, R271, R319, R352). -/
def Op.code : Op → Nat
  | .nop => 0x000 | .endStream => 0x001 | .seti => 0x002 | .mov => 0x003
  | .aluAdd | .aluSub | .aluMul | .aluAnd | .aluOr | .aluXor | .aluShl | .aluShr | .aluSar | .aluMin | .aluMax
  | .aluMinu | .aluMaxu => 0x004
  | .cmp => 0x005 | .pstat => 0x006 | .wait => 0x007 | .stepEnd => 0x008 | .stepGet => 0x009
  | .lds => 0x00A | .sts => 0x00B | .cfgr => 0x00C | .cfgw => 0x00D | .xct => 0x00E | .loop => 0x010 | .endloop => 0x011
  | .mm => 0x040 | .mmS24 => 0x041 | .mmBs => 0x042 | .mmCasc => 0x048 | .mmJoin => 0x049
  | .dmm => 0x060 | .dmmCasc => 0x068 | .dmmJoin => 0x069
  | .dsDiv => 0x080 | .dsSqrt => 0x081 | .dsRsqrt => 0x082 | .dsRcp => 0x083
  | .seFact => 0x0A0 | .seSolve => 0x0A1 | .seBand => 0x0A4 | .seResume => 0x0A8 | .seJoin => 0x0A9
  | .handoff => 0x0C0 | .tmCopy => 0x0C1 | .tmGather => 0x0C2 | .tmScatter => 0x0C3 | .tmFill => 0x0C4
  | .tmPrefetch => 0x0C8 | .tmClean => 0x0C9
  | .veAdd => 0x100 | .veSub => 0x101 | .veMul => 0x102 | .veFma => 0x103 | .veMax => 0x104 | .veMin => 0x105
  | .veAbs => 0x106 | .veCvt => 0x107 | .veCmp => 0x108 | .veQadd => 0x10C | .veQsub => 0x10D | .veQmulr => 0x10E
  | .veQshr => 0x10F | .veEpi => 0x110
  | .ruSum => 0x140 | .ruDot => 0x141 | .ruSsq => 0x142 | .ruMax => 0x143 | .ruMin => 0x144 | .ruAmax => 0x145
  | .ruHist => 0x148 | .ueRun => 0x180
  | .fbLoad => 0x1C0 | .fbStore => 0x1C1
  | .fbAtomicAdd | .fbAtomicAnd | .fbAtomicOr | .fbAtomicXor | .fbAtomicMin | .fbAtomicMax | .fbAtomicMinu
  | .fbAtomicMaxu | .fbAtomicSwap | .fbAtomicCas | .fadd | .fxadd => 0x1C2
  | .fbTrigger => 0x1C3 | .fbFence => 0x1C4 | .fbSend => 0x1C5 | .fbRecv => 0x1C6 | .fbWait => 0x1C7
  | .storeStream => 0x1C8 | .fbCtrset => 0x1C9 | .collGroup => 0x1E0 | .sumAll => 0x1E1 | .collWait => 0x1E2

/-- The operation code of an `ALU` command (R218). -/
def Op.aluCode : Op → Option Nat
  | .aluAdd => some 0 | .aluSub => some 1 | .aluMul => some 2 | .aluAnd => some 3 | .aluOr => some 4
  | .aluXor => some 5 | .aluShl => some 6 | .aluShr => some 7 | .aluSar => some 8 | .aluMin => some 9
  | .aluMax => some 10 | .aluMinu => some 11 | .aluMaxu => some 12 | _ => none

/-- The `AOP` of an atomic (Table 11.7). -/
def Op.aop : Op → Option Nat
  | .fbAtomicAdd => some 0x00 | .fbAtomicAnd => some 0x01 | .fbAtomicOr => some 0x02 | .fbAtomicXor => some 0x03
  | .fbAtomicMin => some 0x04 | .fbAtomicMax => some 0x05 | .fbAtomicMinu => some 0x06 | .fbAtomicMaxu => some 0x07
  | .fbAtomicSwap => some 0x08 | .fbAtomicCas => some 0x09 | .fadd => some 0x10 | .fxadd => some 0x20 | _ => none

/-! ## Operand slots -/

/-- The four uses of an operand slot (R211), an immediate with the mask of its bits that have a meaning, and the
operands that may be a tensor or a scalar (R180). -/
inductive SlotUse where
  | reserved
  | tensor
  | address
  | imm (mask : Nat)
  | operand
  | scalar
  | ignored
  deriving DecidableEq, Repr

/-- A slot is legal for its use (R211, R180). -/
def OpSlot.legal (x : OpSlot) : SlotUse → Bool
  | .reserved => x.aidx = 0#4 && x.didx = 0#12 && x.off = 0#32
  | .tensor => true
  | .address => x.didx = 0#12
  | .imm m => x.aidx = 0#4 && x.didx = 0#12 && (x.off &&& ~~~(BitVec.ofNat 32 m)) = 0#32
  | .operand => x.didx ≠ 0xFFF#12 || (x.aidx = 0#4 && decide (x.off.toNat < 32))
  | .scalar => x.didx = 0xFFF#12 && x.aidx = 0#4 && decide (x.off.toNat < 32)
  | .ignored => true

/-- A slot that must name a descriptor in a vector command (R180: descriptor 4,095 cannot be named). -/
def OpSlot.named (x : OpSlot) : Bool := x.didx ≠ 0xFFF#12

/-- The field `[lo + len - 1 : lo]` of `IMM16`. -/
def CmdWord.imm (w : CmdWord) (lo len : Nat) : Nat := w.imm16.toNat / 2 ^ lo % 2 ^ len
/-- The bits of `IMM16` outside a mask are 0. -/
def CmdWord.immOnly (w : CmdWord) (mask : BitVec 16) : Bool := (w.imm16 &&& ~~~mask) = 0#16
/-- The bits of `FLAGS` outside a mask are 0. -/
def CmdWord.flagsOnly (w : CmdWord) (mask : BitVec 5) : Bool := (w.flags &&& ~~~mask) = 0#5
/-- The rounding code of `FLAGS`[2:0]. -/
def CmdWord.mode (w : CmdWord) : Nat := w.flags.toNat % 8
/-- Bit n of `FLAGS`. -/
def CmdWord.flag (w : CmdWord) (n : Nat) : Bool := w.flags.toNat.testBit n
/-- A field of a slot's `OFF`. -/
def OpSlot.field (x : OpSlot) (lo len : Nat) : Nat := x.off.toNat / 2 ^ lo % 2 ^ len

/-- The vector operations that take a b operand (Table 7.2). -/
def veTakesB : Op → Bool
  | .veAdd | .veSub | .veMul | .veFma | .veMax | .veMin | .veCmp | .veQadd | .veQsub | .veQmulr => true
  | _ => false

/-- The operation an `EOP` names (R190). -/
def epiOp : Nat → Op
  | 0 => .veAdd | 1 => .veSub | 2 => .veMul | 3 => .veFma | 4 => .veMax | 5 => .veMin | 6 => .veAbs | _ => .veCvt

/-- How a command uses its four slots. -/
def slotUses (op : Op) (w : CmdWord) : SlotUse × SlotUse × SlotUse × SlotUse :=
  match op with
  | .seti => (.imm 0xFFFFFFFF, .imm 0xFFFFFFFF, .reserved, .reserved)
  | .mov => (.imm 0xFF, .reserved, .reserved, .reserved)
  | .aluAdd | .aluSub | .aluMul | .aluAnd | .aluOr | .aluXor | .aluShl | .aluShr | .aluSar | .aluMin | .aluMax
  | .aluMinu | .aluMaxu =>
    (.imm 0xFF, .imm (if w.imm 12 1 = 1 then 0xFFFFFFFF else 0xFF), .reserved, .reserved)
  | .cmp => (.imm 0xFF, .imm (if w.imm 7 1 = 1 then 0xFFFFFFFF else 0xFF), .reserved, .reserved)
  | .pstat => (.imm 0xFFFF, .imm 0xFFFF, .reserved, .reserved)
  | .lds | .sts | .xct => (.address, .reserved, .reserved, .reserved)
  | .cfgr | .cfgw => (.imm 0xFFF, .reserved, .reserved, .reserved)
  | .nop | .endStream | .wait | .loop | .endloop | .stepEnd | .stepGet =>
    (.reserved, .reserved, .reserved, .reserved)
  | .mm => (.tensor, .tensor, .tensor, .reserved)
  | .mmS24 | .mmBs => (.tensor, .tensor, .tensor, .tensor)
  | .mmCasc => (.tensor, .tensor, .tensor, if w.imm 1 2 = 0 then .reserved else .tensor)
  | .mmJoin | .dmmJoin | .seJoin => (.reserved, .reserved, .reserved, .reserved)
  | .dmm | .dmmCasc => (.tensor, .tensor, .tensor, .reserved)
  | .dsDiv => (.tensor, .tensor, if w.flag 4 then .reserved else .tensor, .reserved)
  | .dsSqrt | .dsRsqrt | .dsRcp => (.tensor, .reserved, if w.flag 4 then .reserved else .tensor, .reserved)
  | .seFact => (.tensor, .tensor, if w.flags.toNat % 4 = 0 then .tensor else .reserved, .address)
  | .seSolve | .seBand => (.tensor, .tensor, .tensor, .address)
  | .seResume => (.reserved, .reserved, .reserved, .address)
  | .veFma => (.operand, if w.flag 4 then .reserved else .operand, .operand, .tensor)
  | .veCmp => (.operand, if w.flag 4 then .reserved else .operand, .imm 7, .tensor)
  | .veQmulr => (.operand, if w.flag 4 then .reserved else .operand, .imm 0x3F, .tensor)
  | .veQshr => (.operand, .reserved, .imm 0x3F, .tensor)
  | .veAdd | .veSub | .veMul | .veMax | .veMin | .veQadd | .veQsub =>
    (.operand, if w.flag 4 then .reserved else .operand, .reserved, .tensor)
  | .veAbs | .veCvt => (.operand, .reserved, .reserved, .tensor)
  | .veEpi =>
    let e := epiOp (w.imm 0 4)
    (.tensor, if veTakesB e && !w.flag 4 then .operand else .reserved,
      if e = .veFma then .operand else .reserved, .tensor)
  | .ruSum | .ruSsq | .ruMax | .ruMin =>
    (.tensor, .reserved, if w.imm 0 1 = 1 then .tensor else .reserved, .tensor)
  | .ruDot => (.tensor, .tensor, if w.imm 0 1 = 1 then .tensor else .reserved, .tensor)
  | .ruAmax => (.tensor, .reserved, .tensor, .tensor)
  | .ruHist => (.tensor, .reserved, .reserved, .tensor)
  | .ueRun => (.address, .reserved, .reserved, .reserved)
  | .handoff => (.tensor, .tensor, if w.flag 4 then .address else .ignored, .reserved)
  | .tmCopy => (.tensor, .reserved, .tensor, .reserved)
  | .tmGather | .tmScatter => (.tensor, .tensor, .tensor, .reserved)
  | .tmFill => (.scalar, .reserved, .tensor, .reserved)
  | .tmPrefetch | .tmClean => (.tensor, .reserved, .reserved, .reserved)
  | .fbLoad => (.tensor, .address, .imm 0x3FFFFF, .reserved)
  | .fbStore => (.tensor, .address, .imm 0x3FFFFF, .imm 0x1FF)
  | .fbAtomicAdd | .fbAtomicAnd | .fbAtomicOr | .fbAtomicXor | .fbAtomicMin | .fbAtomicMax | .fbAtomicMinu
  | .fbAtomicMaxu | .fbAtomicSwap | .fbAtomicCas | .fadd => (.imm 0x3FFF, .address, .imm 0x3FFFFF, .reserved)
  | .fxadd => (.imm 0xFFFF3FFF, .address, .imm 0x3FFFFF, .reserved)
  | .fbTrigger => (.imm 0xFFF, .reserved, .imm 0x3FFFFF, .reserved)
  | .fbFence => (.reserved, .reserved, .imm 0x7FFFFF, .reserved)
  | .fbSend => (.tensor, .reserved, .imm 0x3FFFFF, .imm 0x1E00)
  | .fbRecv => (.tensor, .reserved, .imm 0xFFFF, .imm 0x1E00)
  | .fbWait | .fbCtrset => (.reserved, .reserved, .reserved, .imm 0xFF)
  | .storeStream => (.tensor, .address, .imm 0x3FFFFF, .reserved)
  | .collGroup => (.address, .reserved, .reserved, .reserved)
  | .sumAll => (.tensor, .reserved, .tensor, .imm 0x3FFFFF)
  | .collWait => (.reserved, .reserved, .reserved, .reserved)

/-- The four slots are legal for their uses. -/
def slotsLegal (op : Op) (w : CmdWord) : Bool :=
  let u := slotUses op w
  w.slot0.legal u.1 && w.slot1.legal u.2.1 && w.slot2.legal u.2.2.1 && w.slot3.legal u.2.2.2

/-! ## Word legality (R210, Table 8.15 check 1) -/

/-- A register number that a command may write (R215 Table 8.5). -/
def regNoWritable (n : Nat) : Bool :=
  decide (n ≤ 0x7B) || (decide (0x80 ≤ n) && decide (n ≤ 0x8F)) || (decide (0x91 ≤ n) && decide (n ≤ 0x9F))
/-- A register number that a command may read. -/
def regNoReadable (n : Nat) : Bool := regNoWritable n || (decide (0xA0 ≤ n) && decide (n ≤ 0xA4))

/-- The `IMM16`, `FLAGS` and code rules of a command's own table. -/
def fieldsLegal (op : Op) (w : CmdWord) : Bool :=
  match op with
  | .nop | .endStream => w.flagsOnly 0#5 && w.immOnly 0#16
  | .loop | .endloop => w.flagsOnly 0#5 && w.immOnly 0#16 && !w.pen
  | .stepEnd => w.flagsOnly 0#5 && w.immOnly 0x3F#16 && !w.pen
  | .stepGet | .lds | .sts | .cfgr | .cfgw => w.flagsOnly 0#5 && w.immOnly 0x1F#16
  | .xct => w.flagsOnly 0#5 && w.immOnly 0#16
  | .seti => w.flagsOnly 0#5 && w.immOnly 0xFF#16 && regNoWritable (w.imm 0 8)
  | .mov => w.flagsOnly 0#5 && w.immOnly 0xFF#16 && regNoWritable (w.imm 0 8) && regNoReadable (w.slot0.field 0 8)
  | .aluAdd | .aluSub | .aluMul | .aluAnd | .aluOr | .aluXor | .aluShl | .aluShr | .aluSar | .aluMin | .aluMax
  | .aluMinu | .aluMaxu =>
    w.flagsOnly 0#5 && w.immOnly 0x1FFF#16 && some (w.imm 8 4) = op.aluCode && regNoWritable (w.imm 0 8)
      && regNoReadable (w.slot0.field 0 8) && (w.imm 12 1 = 1 || regNoReadable (w.slot1.field 0 8))
  | .cmp =>
    w.flagsOnly 0#5 && w.immOnly 0x1FF#16 && decide (w.imm 3 3 ≤ 5) && regNoReadable (w.slot0.field 0 8)
      && (w.imm 7 1 = 1 || regNoReadable (w.slot1.field 0 8))
      && !(w.imm 8 1 = 1 && (w.imm 6 1 = 1 || w.imm 7 1 = 1))
  | .pstat => w.flagsOnly 0#5 && w.immOnly 0x1F#16 && w.slot0.off ≠ 0#32
  | .wait => w.flagsOnly 0#5 && w.immOnly 0x1FE#16 && w.imm16 ≠ 0#16
  | .mm | .mmS24 | .mmBs => decide (w.mode ≤ 4) && w.immOnly 1#16
  | .mmCasc =>
    decide (w.mode ≤ 4) && w.imm 1 2 ≠ 3 && w.imm 3 2 ≠ 3 && (w.imm 3 2 = 0 || w.imm 5 3 = 0) && !w.pen
  | .mmJoin | .dmmJoin => w.flagsOnly 0#5 && w.immOnly 0x0F00#16 && !w.pen
  | .dmm => decide (w.mode ≤ 4) && !w.flag 4 && w.immOnly 1#16
  | .dmmCasc =>
    decide (w.mode ≤ 4) && !w.flag 4 && w.imm 1 2 = 0 && w.imm 3 2 ≠ 3 && (w.imm 3 2 = 0 || w.imm 5 3 = 0) && !w.pen
  | .dsDiv | .dsSqrt | .dsRsqrt | .dsRcp => decide (w.mode ≤ 3) && !w.flag 3 && w.immOnly 0#16
  | .seFact =>
    w.flagsOnly 3#5 && w.flags ≠ 3#5
      && (if w.imm 11 1 = 1 then w.immOnly 0xF800#16 && !w.pen else w.immOnly 0#16)
  | .seSolve =>
    w.flagsOnly 15#5 && w.flags.toNat % 4 ≠ 3
      && (if w.imm 11 1 = 1 then w.immOnly 0xF800#16 && !w.pen else w.immOnly 0#16)
  | .seBand => w.flagsOnly 0#5 && w.immOnly 0x7FF#16 && decide (w.imm 0 5 ≤ 16) && decide (w.imm 5 5 ≤ 16)
  | .seResume => w.flagsOnly 0#5 && w.immOnly 0#16
  | .seJoin => w.flagsOnly 0#5 && w.immOnly 0x0F00#16
  | .veAdd | .veSub | .veMul | .veFma | .veMax | .veMin =>
    decide (w.mode ≤ 4) && w.immOnly 0x3FFF#16 && w.slot3.named
  | .veAbs | .veCvt => decide (w.mode ≤ 4) && w.immOnly 0x3FFF#16 && w.slot3.named && !w.flag 4
  | .veCmp => w.mode = 0 && w.immOnly 0x3FFF#16 && w.slot3.named && decide (w.slot2.field 0 3 ≤ 5)
  | .veQadd | .veQsub => w.mode = 0 && w.immOnly 0x3FFF#16 && w.slot3.named
  | .veQmulr => decide (w.mode ≤ 3) && w.immOnly 0x3FFF#16 && w.slot3.named
  | .veQshr => decide (w.mode ≤ 3) && w.immOnly 0x3FFF#16 && w.slot3.named && !w.flag 4
  | .veEpi =>
    decide (w.mode ≤ 4) && w.immOnly 0x7#16 && w.slot0.named && w.slot3.named
      && (veTakesB (epiOp (w.imm 0 4)) || !w.flag 4)
  | .ruSum | .ruSsq | .ruMax | .ruMin => decide (w.mode ≤ 4) && !w.flag 4 && w.immOnly 5#16
  | .ruDot => decide (w.mode ≤ 4) && !w.flag 4 && w.immOnly 7#16
  | .ruAmax => decide (w.mode ≤ 4) && !w.flag 4 && w.immOnly 4#16
  | .ruHist => decide (w.mode ≤ 4) && !w.flag 4 && w.immOnly 0#16
  | .ueRun => decide (w.mode ≤ 4) && w.immOnly 0x1F#16
  | .handoff => decide (w.mode ≤ 4) && w.immOnly 0#16
  | .tmCopy | .tmScatter | .tmFill => decide (w.mode ≤ 4) && !w.flag 4 && w.immOnly 0#16
  | .tmGather => decide (w.mode ≤ 4) && w.immOnly 0#16
  | .tmPrefetch => w.flagsOnly 0#5 && w.immOnly 0#16
  | .tmClean => w.flagsOnly 16#5 && w.immOnly 0#16
  | .fbLoad | .fbStore | .fbSend => w.flagsOnly 16#5 && w.immOnly 0#16
  | .fbAtomicAdd | .fbAtomicAnd | .fbAtomicOr | .fbAtomicXor | .fbAtomicMin | .fbAtomicMax | .fbAtomicMinu
  | .fbAtomicMaxu | .fbAtomicSwap | .fbAtomicCas =>
    w.flagsOnly 16#5 && w.immOnly 0x7FFF#16 && some (w.slot0.field 0 8) = op.aop
      && (w.slot0.field 8 5 = 0x0D || w.slot0.field 8 5 = 0x0E)
  | .fadd =>
    w.flagsOnly 0x17#5 && decide (w.mode ≤ 3) && w.immOnly 0x7FFF#16 && w.slot0.field 0 8 = 0x10
      && (w.slot0.field 8 5 = 0 || w.slot0.field 8 5 = 1)
  | .fxadd =>
    w.flagsOnly 16#5 && w.immOnly 0x7FFF#16 && w.slot0.field 0 8 = 0x20 && w.slot0.field 8 5 = 0x0F
  | .fbTrigger => w.flagsOnly 16#5 && w.immOnly 0x1F#16
  | .fbFence => w.flagsOnly 0#5 && w.immOnly 0#16
  | .fbRecv => w.flagsOnly 0#5 && w.immOnly 0x3FF#16
  | .fbWait | .fbCtrset => w.flagsOnly 0#5 && w.immOnly 0x1F#16
  | .storeStream => w.flagsOnly 16#5
  | .collGroup => w.flagsOnly 0#5 && w.immOnly 0x3F#16
  | .sumAll => decide (w.mode ≤ 3) && w.immOnly 0x7F#16
  | .collWait => w.flagsOnly 0#5 && w.immOnly 0#16

/-- A command accepts a deadline (R230). -/
def takesDeadline : Op → Bool
  | .seFact | .seSolve | .seResume | .fbWait | .fbRecv => true
  | _ => false

/-- Check 1 of Table 8.15 on a command word, without the register offsets of `CFGR` and `CFGW` (Flags.lean). -/
def wordLegal (op : Op) (w : CmdWord) : Bool :=
  slotsLegal op w && fieldsLegal op w && (if takesDeadline op then decide (w.dsel.toNat ≤ 15) else w.dsel = 0#8)

/-! ## Well-formed commands -/

/-- An island of Table 15.1 that the device has. -/
def Island.wf : Island → Bool
  | .tile t => decide (t < 256)
  | .pantry n => decide (n < 16)
  | .spine n => decide (n < 2)
  | .porch n => decide (n < 4)
  | .hearth n => decide (n < 2)

/-- A selective stream of a port (R463: up to four). -/
def IdeKm.wf : IdeKm → Bool
  | .query n => decide (n < 4)
  | .keyProg n key => decide (n < 4) && decide (key.length = 32)
  | .setGo n => decide (n < 4)
  | .setStop n => decide (n < 4)

/-- The fields of a packet that R316 asks for on reception: its sizes. -/
def Packet.wf (p : Packet) : Bool :=
  decide (p.payload.length = p.length.toNat) && decide (p.length.toNat ≤ 4096) && p.rsvd = 0#8

/-- A well-formed command: its numbers name tiles, jobs, slots and offsets of the device. -/
def Instr.wf : Instr → Bool
  | .nop t w => decide (t < 256) && wordLegal .nop w
  | .endStream t w => decide (t < 256) && wordLegal .endStream w
  | .seti t w => decide (t < 256) && wordLegal .seti w
  | .mov t w => decide (t < 256) && wordLegal .mov w
  | .aluAdd t w => decide (t < 256) && wordLegal .aluAdd w
  | .aluSub t w => decide (t < 256) && wordLegal .aluSub w
  | .aluMul t w => decide (t < 256) && wordLegal .aluMul w
  | .aluAnd t w => decide (t < 256) && wordLegal .aluAnd w
  | .aluOr t w => decide (t < 256) && wordLegal .aluOr w
  | .aluXor t w => decide (t < 256) && wordLegal .aluXor w
  | .aluShl t w => decide (t < 256) && wordLegal .aluShl w
  | .aluShr t w => decide (t < 256) && wordLegal .aluShr w
  | .aluSar t w => decide (t < 256) && wordLegal .aluSar w
  | .aluMin t w => decide (t < 256) && wordLegal .aluMin w
  | .aluMax t w => decide (t < 256) && wordLegal .aluMax w
  | .aluMinu t w => decide (t < 256) && wordLegal .aluMinu w
  | .aluMaxu t w => decide (t < 256) && wordLegal .aluMaxu w
  | .cmp t w => decide (t < 256) && wordLegal .cmp w
  | .pstat t w => decide (t < 256) && wordLegal .pstat w
  | .wait t w => decide (t < 256) && wordLegal .wait w
  | .lds t w => decide (t < 256) && wordLegal .lds w
  | .sts t w => decide (t < 256) && wordLegal .sts w
  | .cfgr t w => decide (t < 256) && wordLegal .cfgr w
  | .cfgw t w => decide (t < 256) && wordLegal .cfgw w
  | .xct t w => decide (t < 256) && wordLegal .xct w
  | .loop t w => decide (t < 256) && wordLegal .loop w
  | .endloop t w => decide (t < 256) && wordLegal .endloop w
  | .stepEnd t w => decide (t < 256) && wordLegal .stepEnd w
  | .stepGet t w => decide (t < 256) && wordLegal .stepGet w
  | .tileArrive t => decide (t < 256)
  | .stepBoundary j => decide (j < 16)
  | .mm t w => decide (t < 256) && wordLegal .mm w
  | .mmS24 t w => decide (t < 256) && wordLegal .mmS24 w
  | .mmBs t w => decide (t < 256) && wordLegal .mmBs w
  | .mmCasc t w => decide (t < 256) && wordLegal .mmCasc w
  | .mmJoin t w => decide (t < 256) && wordLegal .mmJoin w
  | .cascadeStart _ _ _ => true
  | .queueResume t => decide (t < 256)
  | .dmm t w => decide (t < 256) && wordLegal .dmm w
  | .dmmCasc t w => decide (t < 256) && wordLegal .dmmCasc w
  | .dmmJoin t w => decide (t < 256) && wordLegal .dmmJoin w
  | .dsDiv t w => decide (t < 256) && wordLegal .dsDiv w
  | .dsSqrt t w => decide (t < 256) && wordLegal .dsSqrt w
  | .dsRsqrt t w => decide (t < 256) && wordLegal .dsRsqrt w
  | .dsRcp t w => decide (t < 256) && wordLegal .dsRcp w
  | .forwardResume t => decide (t < 256)
  | .seFact t w => decide (t < 256) && wordLegal .seFact w
  | .seSolve t w => decide (t < 256) && wordLegal .seSolve w
  | .seBand t w => decide (t < 256) && wordLegal .seBand w
  | .seResume t w => decide (t < 256) && wordLegal .seResume w
  | .seJoin t w => decide (t < 256) && wordLegal .seJoin w
  | .veAdd t w => decide (t < 256) && wordLegal .veAdd w
  | .veSub t w => decide (t < 256) && wordLegal .veSub w
  | .veMul t w => decide (t < 256) && wordLegal .veMul w
  | .veFma t w => decide (t < 256) && wordLegal .veFma w
  | .veMax t w => decide (t < 256) && wordLegal .veMax w
  | .veMin t w => decide (t < 256) && wordLegal .veMin w
  | .veAbs t w => decide (t < 256) && wordLegal .veAbs w
  | .veCvt t w => decide (t < 256) && wordLegal .veCvt w
  | .veCmp t w => decide (t < 256) && wordLegal .veCmp w
  | .veQadd t w => decide (t < 256) && wordLegal .veQadd w
  | .veQsub t w => decide (t < 256) && wordLegal .veQsub w
  | .veQmulr t w => decide (t < 256) && wordLegal .veQmulr w
  | .veQshr t w => decide (t < 256) && wordLegal .veQshr w
  | .veEpi t w => decide (t < 256) && wordLegal .veEpi w
  | .epiTile t => decide (t < 256)
  | .ruSum t w => decide (t < 256) && wordLegal .ruSum w
  | .ruDot t w => decide (t < 256) && wordLegal .ruDot w
  | .ruSsq t w => decide (t < 256) && wordLegal .ruSsq w
  | .ruMax t w => decide (t < 256) && wordLegal .ruMax w
  | .ruMin t w => decide (t < 256) && wordLegal .ruMin w
  | .ruAmax t w => decide (t < 256) && wordLegal .ruAmax w
  | .ruHist t w => decide (t < 256) && wordLegal .ruHist w
  | .ueRun t w => decide (t < 256) && wordLegal .ueRun w
  | .handoff t w => decide (t < 256) && wordLegal .handoff w
  | .tmCopy t w => decide (t < 256) && wordLegal .tmCopy w
  | .tmGather t w => decide (t < 256) && wordLegal .tmGather w
  | .tmScatter t w => decide (t < 256) && wordLegal .tmScatter w
  | .tmFill t w => decide (t < 256) && wordLegal .tmFill w
  | .tmPrefetch t w => decide (t < 256) && wordLegal .tmPrefetch w
  | .tmClean t w => decide (t < 256) && wordLegal .tmClean w
  | .fbLoad t w => decide (t < 256) && wordLegal .fbLoad w
  | .fbStore t w => decide (t < 256) && wordLegal .fbStore w
  | .fbAtomicAdd t w => decide (t < 256) && wordLegal .fbAtomicAdd w
  | .fbAtomicAnd t w => decide (t < 256) && wordLegal .fbAtomicAnd w
  | .fbAtomicOr t w => decide (t < 256) && wordLegal .fbAtomicOr w
  | .fbAtomicXor t w => decide (t < 256) && wordLegal .fbAtomicXor w
  | .fbAtomicMin t w => decide (t < 256) && wordLegal .fbAtomicMin w
  | .fbAtomicMax t w => decide (t < 256) && wordLegal .fbAtomicMax w
  | .fbAtomicMinu t w => decide (t < 256) && wordLegal .fbAtomicMinu w
  | .fbAtomicMaxu t w => decide (t < 256) && wordLegal .fbAtomicMaxu w
  | .fbAtomicSwap t w => decide (t < 256) && wordLegal .fbAtomicSwap w
  | .fbAtomicCas t w => decide (t < 256) && wordLegal .fbAtomicCas w
  | .fadd t w => decide (t < 256) && wordLegal .fadd w
  | .fxadd t w => decide (t < 256) && wordLegal .fxadd w
  | .fbTrigger t w => decide (t < 256) && wordLegal .fbTrigger w
  | .fbFence t w => decide (t < 256) && wordLegal .fbFence w
  | .fbSend t w => decide (t < 256) && wordLegal .fbSend w
  | .fbRecv t w => decide (t < 256) && wordLegal .fbRecv w
  | .fbWait t w => decide (t < 256) && wordLegal .fbWait w
  | .storeStream t w => decide (t < 256) && wordLegal .storeStream w
  | .fbCtrset t w => decide (t < 256) && wordLegal .fbCtrset w
  | .waitDeadlinePassed t => decide (t < 256)
  | .collGroup t w => decide (t < 256) && wordLegal .collGroup w
  | .sumAll t w => decide (t < 256) && wordLegal .sumAll w
  | .collWait t w => decide (t < 256) && wordLegal .collWait w
  | .collStart j => decide (j < 16)
  | .collSetup p _ _ _ => p.wf
  | .collSetupRsp p _ => p.wf
  | .collUp p _ _ => p.wf
  | .collDown p => p.wf
  | .collEnd p => p.wf
  | .collTimeout j _ _ => decide (j < 16)
  | .collRetransmit j _ _ _ => decide (j < 16)
  | .load p => p.wf
  | .loadRsp p => p.wf
  | .store p => p.wf
  | .atomic p => p.wf
  | .atomicRsp p => p.wf
  | .trigger p => p.wf
  | .send p => p.wf
  | .ack p => p.wf
  | .nack p => p.wf
  | .heldTriggerRun j => decide (j < 16)
  | .listComplete j _ => decide (j < 16)
  | .retransmit j _ _ => decide (j < 16)
  | .markUnreachable j _ => decide (j < 16)
  | .busyRetry j _ _ => decide (j < 16)
  | .fenceTimeout t => decide (t < 2 ^ 32)
  | .mgmt p _ _ _ _ => p.wf
  | .sync p => p.packet.wf
  | .followUp p => p.packet.wf
  | .delayRsp p => p.packet.wf
  | .tbPpsEdge => true
  | .tbLockLost => true
  | .linkFrame gallery lane _ _ => decide (lane < if gallery then 32 else 128)
  | .laneDown gallery lane => decide (lane < if gallery then 32 else 128)
  | .eyeRecentre gallery lane => decide (lane < if gallery then 32 else 128)
  | .sealWrite _ slot hdr body _ => decide (slot < 64) && decide (hdr.length = 64) && decide (body.length ≤ 1984)
  | .echo _ slot => decide (slot < 64)
  | .sessionOpen _ slot => decide (slot < 64)
  | .jobSetup _ slot => decide (slot < 64)
  | .jobLoad _ slot _ => decide (slot < 64)
  | .jobStart _ slot => decide (slot < 64)
  | .map _ slot => decide (slot < 64)
  | .unmap _ slot => decide (slot < 64)
  | .regRead _ slot => decide (slot < 64)
  | .regWrite _ slot => decide (slot < 64)
  | .tileResume _ slot => decide (slot < 64)
  | .stopAtStep _ slot => decide (slot < 64)
  | .stepResume _ slot => decide (slot < 64)
  | .teardown _ slot => decide (slot < 64)
  | .checkpoint _ slot => decide (slot < 64)
  | .pair _ slot => decide (slot < 64)
  | .pairWaitExpiry => true
  | .takeover _ slot => decide (slot < 64)
  | .handover _ slot => decide (slot < 64)
  | .releaseMirror _ slot => decide (slot < 64)
  | .resync _ slot => decide (slot < 64)
  | .detach _ slot => decide (slot < 64)
  | .mirrorSetup _ slot => decide (slot < 64)
  | .mirrorSetupExpiry j => decide (j < 16)
  | .tagAssign _ slot => decide (slot < 64)
  | .tagTeardown _ slot => decide (slot < 64)
  | .quarantineExpiry jtag => decide (jtag < 2 ^ 28)
  | .powerLimit _ slot => decide (slot < 64)
  | .fwUpdate _ slot => decide (slot < 64)
  | .ownerProgram _ slot => decide (slot < 64)
  | .fwRevoke _ slot => decide (slot < 64)
  | .ownerRevoke _ slot => decide (slot < 64)
  | .svnAdvance _ slot => decide (slot < 64)
  | .fmkSet _ slot => decide (slot < 64)
  | .ideLock _ slot => decide (slot < 64)
  | .lifecycle _ slot => decide (slot < 64)
  | .debugUnlock _ slot => decide (slot < 64)
  | .recoverySeal hearth _ => decide (hearth < 2)
  | .bar4Read _ addr len _ => decide (0 < len) && decide (addr % 4096 + len ≤ 4096)
  | .bar4Write _ addr data _ => decide (0 < data.length) && decide (addr % 4096 + data.length ≤ 4096)
  | .engFlagsWrite t _ _ _ => decide (t < 256)
  | .engGenWrite t _ _ => decide (t < 256)
  | .rwsWrite t _ off _ => decide (t < 256) && decide (off < 256)
  | .rwcWrite t _ off _ => decide (t < 256) && decide (off < 256)
  | .registerWrite _ _ => true
  | .pendingStart t _ => decide (t < 256)
  | .dispatchResume t => decide (t < 256)
  | .commandRetire t _ => decide (t < 256)
  | .chunkEnd t _ => decide (t < 256)
  | .stragglerPass t _ => decide (t < 256)
  | .breakHit t => decide (t < 256)
  | .translationFault t _ => decide (t < 256)
  | .faultRestart t _ => decide (t < 256)
  | .guardSave _ => true
  | .guardSlotFree => true
  | .captureEnd j => decide (j < 16)
  | .mirrorDeltaBlock j => decide (j < 16)
  | .deltaReceive _ => true
  | .deltaCommit _ => true
  | .mirrorAck j _ => decide (j < 16)
  | .logApply j => decide (j < 16)
  | .ckptBlockCopy j => decide (j < 16)
  | .replicaDecideTimeout j _ => decide (j < 16)
  | .manifestSend j => decide (j < 16)
  | .ckptDone j => decide (j < 16)
  | .hearthHeartbeat _ => true
  | .hearthFailover => true
  | .standbyLost => true
  | .pairHeartbeat _ => true
  | .pairHeartbeatReceive _ => true
  | .twinSuspect => true
  | .failureNotice => true
  | .packageFailed cause => decide (cause.toNat < 0x8000)
  | .tileFault t => decide (t < 256)
  | .planeFailover plane => decide (plane < 2)
  | .porchFault p => decide (p < 4)
  | .porchRemirror p => decide (p < 4)
  | .pcMapout pc => decide (pc < 256)
  | .agingReport t _ => decide (t < 256)
  | .scrub addr _ _ => decide (addr < 2 ^ 40)
  | .refresh pc _ => decide (pc < 256)
  | .refreshManagement pc _ => decide (pc < 256)
  | .housekeepingSlice => true
  | .satLevel level ns above below => decide (level < 6) && decide (ns ≤ 1000000) && decide (above ≤ 100) && decide (below ≤ 100)
  | .ckptAdvisory bit => decide (bit < 11)
  | .advisoryClear bit => decide (bit < 11)
  | .tempSample temps => decide (temps.length = 20)
  | .governorTick _ _ => true
  | .clockStretch t mhz => decide (t < 256) && decide (600 ≤ mhz) && decide (mhz ≤ 700)
  | .landingResync island _ => island.wf
  | .landingTimeout island => island.wf
  | .enterReady => true
  | .wake _ => true
  | .thermtrip => true
  | .supplyFault rail => decide (rail < 9)
  | .deviceReset => true
  | .bootImageAccept hearth _ => decide (hearth < 2)
  | .hearthRoleSelect => true
  | .bootReady avail spares => avail.all (fun t => decide (t < 256)) && decide (spares.length = 8) && spares.all (fun n => decide (n ≤ 4))
  | .portReset _ _ => true
  | .functionLevelReset _ => true
  | .pairSenseChange _ => true
  | .ideIntegrityFail _ stream => decide (stream < 4)
  | .bmcOffsetWrite _ => true
  | .bmcAddressAssign _ => true
  | .doeDiscovery _ _ => true
  | .getVersion _ => true
  | .getCapabilities _ _ => true
  | .negotiateAlgorithms _ _ _ _ _ => true
  | .getDigests _ => true
  | .getCertificate _ _ _ _ => true
  | .challenge _ _ nonce => decide (nonce.length = 32)
  | .getMeasurements _ index nonce => decide (index < 256) && decide (nonce.length = 32)
  | .keyExchange _ _ hostKey => decide (hostKey.length = 96)
  | .finish _ _ => true
  | .heartbeat _ => true
  | .keyUpdate _ _ => true
  | .endSession _ => true
  | .ideKm _ op => op.wf
  | .sysRstNLow _ => true
  | .vauxLoss => true
  | .portLinkUp _ => true
  | .standbyBoot => true
  | .pairingFrame f => decide (f.pub.length = 96)
  | .unassignedOpcode _ slot => decide (slot < 64)

end Sys2Proof
end

