-- ==== Sys2Proof/Decode.lean ====
section
/-! DEFINITION. Decode.lean: the host's decoder over the table's bits (the table gives none), and the device's own command
words: encoding and decoding of the 256-bit words of a stream (R209 to R211, Tables 8.1 and 8.3). -/

namespace Sys2Proof

/-- The command that a word spells by the bits of the opcode table: the table gives no row any bits, so none. -/
def decodeTableWord (_nbits _w : Nat) : Option Instr := none

/-- Engine ids (Table 1.5). -/
def Engine.code : Engine → Nat
  | .sq => 0 | .me => 1 | .de => 2 | .ve => 3 | .ru => 4 | .dsu => 5 | .se => 6 | .ue => 7 | .tm => 8

/-- An operand slot as its 48 bits (Table 8.3). -/
def OpSlot.encode (x : OpSlot) : BitVec 48 := x.aidx ++ x.didx ++ x.off
/-- The fields of a slot's 48 bits. -/
def OpSlot.decode (b : BitVec 48) : OpSlot where
  aidx := b.extractLsb' 44 4
  didx := b.extractLsb' 32 12
  off := b.extractLsb' 0 32

/-- Bits [255:224] of a command word: opcode, engine, predicate, flags and deadline. -/
def encodeHead (op : Op) (w : CmdWord) : BitVec 32 :=
  let a : BitVec 14 := BitVec.ofNat 10 op.code ++ BitVec.ofNat 4 op.engine.code
  let b : BitVec 2 := BitVec.ofBool w.pen ++ BitVec.ofBool w.pinv
  let c : BitVec 8 := w.psel ++ w.flags
  let d : BitVec 16 := a ++ b
  let e : BitVec 16 := c ++ w.dsel
  d ++ e

/-- Bits [223:32] of a command word: its four slots. -/
def encodeSlots (w : CmdWord) : BitVec 192 :=
  let a : BitVec 96 := w.slot0.encode ++ w.slot1.encode
  let b : BitVec 96 := w.slot2.encode ++ w.slot3.encode
  a ++ b

/-- A command word as its 256 bits (Table 8.1). -/
def encodeWord (op : Op) (w : CmdWord) : BitVec 256 :=
  let a : BitVec 224 := encodeHead op w ++ encodeSlots w
  let b : BitVec 32 := w.imm16 ++ w.tag
  a ++ b

/-- The fields of 256 bits. -/
def wordFields (b : BitVec 256) : CmdWord where
  pen := b.getLsbD 241
  pinv := b.getLsbD 240
  psel := b.extractLsb' 237 3
  flags := b.extractLsb' 232 5
  dsel := b.extractLsb' 224 8
  slot0 := OpSlot.decode (b.extractLsb' 176 48)
  slot1 := OpSlot.decode (b.extractLsb' 128 48)
  slot2 := OpSlot.decode (b.extractLsb' 80 48)
  slot3 := OpSlot.decode (b.extractLsb' 32 48)
  imm16 := b.extractLsb' 16 16
  tag := b.extractLsb' 0 16

/-- Every command of a stream. -/
def allOps : List Op := List.flatten [
  [.nop, .endStream, .seti, .mov, .aluAdd, .aluSub, .aluMul, .aluAnd, .aluOr, .aluXor],
  [.aluShl, .aluShr, .aluSar, .aluMin, .aluMax, .aluMinu, .aluMaxu, .cmp, .pstat, .wait],
  [.lds, .sts, .cfgr, .cfgw, .xct, .loop, .endloop, .stepEnd, .stepGet, .mm],
  [.mmS24, .mmBs, .mmCasc, .mmJoin, .dmm, .dmmCasc, .dmmJoin, .dsDiv, .dsSqrt, .dsRsqrt],
  [.dsRcp, .seFact, .seSolve, .seBand, .seResume, .seJoin, .veAdd, .veSub, .veMul, .veFma],
  [.veMax, .veMin, .veAbs, .veCvt, .veCmp, .veQadd, .veQsub, .veQmulr, .veQshr, .veEpi],
  [.ruSum, .ruDot, .ruSsq, .ruMax, .ruMin, .ruAmax, .ruHist, .ueRun, .handoff, .tmCopy],
  [.tmGather, .tmScatter, .tmFill, .tmPrefetch, .tmClean, .fbLoad, .fbStore, .fbAtomicAdd, .fbAtomicAnd, .fbAtomicOr],
  [.fbAtomicXor, .fbAtomicMin, .fbAtomicMax, .fbAtomicMinu, .fbAtomicMaxu, .fbAtomicSwap, .fbAtomicCas, .fadd, .fxadd, .fbTrigger],
  [.fbFence, .fbSend, .fbRecv, .fbWait, .storeStream, .fbCtrset, .collGroup, .sumAll, .collWait]]

/-- A command has this opcode and, where one opcode serves several rows, this operation code (R218, R323). -/
def Op.spelled (op : Op) (code : Nat) (w : CmdWord) : Bool :=
  decide (op.code = code)
    && (match op.aluCode with
        | some c => decide (w.imm 8 4 = c)
        | none => true)
    && (match op.aop with
        | some c => decide (w.slot0.field 0 8 = c)
        | none => true)

/-- The command of 256 bits: none for an unassigned opcode or an `ENGINE` that is not its owner (R210). -/
def decodeWord (b : BitVec 256) : Option (Op × CmdWord) :=
  let w := wordFields b
  match allOps.find? (fun op => op.spelled (b.extractLsb' 246 10).toNat w) with
  | some op => if (b.extractLsb' 242 4).toNat = op.engine.code then some (op, w) else none
  | none => none

/-- The command of a stream as the block's command for a tile. -/
def streamInstr (op : Op) (t : Nat) (w : CmdWord) : Instr :=
  match op with
  | .nop => .nop t w
  | .endStream => .endStream t w
  | .seti => .seti t w
  | .mov => .mov t w
  | .aluAdd => .aluAdd t w
  | .aluSub => .aluSub t w
  | .aluMul => .aluMul t w
  | .aluAnd => .aluAnd t w
  | .aluOr => .aluOr t w
  | .aluXor => .aluXor t w
  | .aluShl => .aluShl t w
  | .aluShr => .aluShr t w
  | .aluSar => .aluSar t w
  | .aluMin => .aluMin t w
  | .aluMax => .aluMax t w
  | .aluMinu => .aluMinu t w
  | .aluMaxu => .aluMaxu t w
  | .cmp => .cmp t w
  | .pstat => .pstat t w
  | .wait => .wait t w
  | .lds => .lds t w
  | .sts => .sts t w
  | .cfgr => .cfgr t w
  | .cfgw => .cfgw t w
  | .xct => .xct t w
  | .loop => .loop t w
  | .endloop => .endloop t w
  | .stepEnd => .stepEnd t w
  | .stepGet => .stepGet t w
  | .mm => .mm t w
  | .mmS24 => .mmS24 t w
  | .mmBs => .mmBs t w
  | .mmCasc => .mmCasc t w
  | .mmJoin => .mmJoin t w
  | .dmm => .dmm t w
  | .dmmCasc => .dmmCasc t w
  | .dmmJoin => .dmmJoin t w
  | .dsDiv => .dsDiv t w
  | .dsSqrt => .dsSqrt t w
  | .dsRsqrt => .dsRsqrt t w
  | .dsRcp => .dsRcp t w
  | .seFact => .seFact t w
  | .seSolve => .seSolve t w
  | .seBand => .seBand t w
  | .seResume => .seResume t w
  | .seJoin => .seJoin t w
  | .veAdd => .veAdd t w
  | .veSub => .veSub t w
  | .veMul => .veMul t w
  | .veFma => .veFma t w
  | .veMax => .veMax t w
  | .veMin => .veMin t w
  | .veAbs => .veAbs t w
  | .veCvt => .veCvt t w
  | .veCmp => .veCmp t w
  | .veQadd => .veQadd t w
  | .veQsub => .veQsub t w
  | .veQmulr => .veQmulr t w
  | .veQshr => .veQshr t w
  | .veEpi => .veEpi t w
  | .ruSum => .ruSum t w
  | .ruDot => .ruDot t w
  | .ruSsq => .ruSsq t w
  | .ruMax => .ruMax t w
  | .ruMin => .ruMin t w
  | .ruAmax => .ruAmax t w
  | .ruHist => .ruHist t w
  | .ueRun => .ueRun t w
  | .handoff => .handoff t w
  | .tmCopy => .tmCopy t w
  | .tmGather => .tmGather t w
  | .tmScatter => .tmScatter t w
  | .tmFill => .tmFill t w
  | .tmPrefetch => .tmPrefetch t w
  | .tmClean => .tmClean t w
  | .fbLoad => .fbLoad t w
  | .fbStore => .fbStore t w
  | .fbAtomicAdd => .fbAtomicAdd t w
  | .fbAtomicAnd => .fbAtomicAnd t w
  | .fbAtomicOr => .fbAtomicOr t w
  | .fbAtomicXor => .fbAtomicXor t w
  | .fbAtomicMin => .fbAtomicMin t w
  | .fbAtomicMax => .fbAtomicMax t w
  | .fbAtomicMinu => .fbAtomicMinu t w
  | .fbAtomicMaxu => .fbAtomicMaxu t w
  | .fbAtomicSwap => .fbAtomicSwap t w
  | .fbAtomicCas => .fbAtomicCas t w
  | .fadd => .fadd t w
  | .fxadd => .fxadd t w
  | .fbTrigger => .fbTrigger t w
  | .fbFence => .fbFence t w
  | .fbSend => .fbSend t w
  | .fbRecv => .fbRecv t w
  | .fbWait => .fbWait t w
  | .storeStream => .storeStream t w
  | .fbCtrset => .fbCtrset t w
  | .collGroup => .collGroup t w
  | .sumAll => .sumAll t w
  | .collWait => .collWait t w

/-- The tile and word of a command of a stream; none for the other rows. -/
def Instr.streamOf : Instr → Option (Op × Nat × CmdWord)
  | .nop t w => some (.nop, t, w)
  | .endStream t w => some (.endStream, t, w)
  | .seti t w => some (.seti, t, w)
  | .mov t w => some (.mov, t, w)
  | .aluAdd t w => some (.aluAdd, t, w)
  | .aluSub t w => some (.aluSub, t, w)
  | .aluMul t w => some (.aluMul, t, w)
  | .aluAnd t w => some (.aluAnd, t, w)
  | .aluOr t w => some (.aluOr, t, w)
  | .aluXor t w => some (.aluXor, t, w)
  | .aluShl t w => some (.aluShl, t, w)
  | .aluShr t w => some (.aluShr, t, w)
  | .aluSar t w => some (.aluSar, t, w)
  | .aluMin t w => some (.aluMin, t, w)
  | .aluMax t w => some (.aluMax, t, w)
  | .aluMinu t w => some (.aluMinu, t, w)
  | .aluMaxu t w => some (.aluMaxu, t, w)
  | .cmp t w => some (.cmp, t, w)
  | .pstat t w => some (.pstat, t, w)
  | .wait t w => some (.wait, t, w)
  | .lds t w => some (.lds, t, w)
  | .sts t w => some (.sts, t, w)
  | .cfgr t w => some (.cfgr, t, w)
  | .cfgw t w => some (.cfgw, t, w)
  | .xct t w => some (.xct, t, w)
  | .loop t w => some (.loop, t, w)
  | .endloop t w => some (.endloop, t, w)
  | .stepEnd t w => some (.stepEnd, t, w)
  | .stepGet t w => some (.stepGet, t, w)
  | .tileArrive _ => none
  | .stepBoundary _ => none
  | .mm t w => some (.mm, t, w)
  | .mmS24 t w => some (.mmS24, t, w)
  | .mmBs t w => some (.mmBs, t, w)
  | .mmCasc t w => some (.mmCasc, t, w)
  | .mmJoin t w => some (.mmJoin, t, w)
  | .cascadeStart _ _ _ => none
  | .queueResume _ => none
  | .dmm t w => some (.dmm, t, w)
  | .dmmCasc t w => some (.dmmCasc, t, w)
  | .dmmJoin t w => some (.dmmJoin, t, w)
  | .dsDiv t w => some (.dsDiv, t, w)
  | .dsSqrt t w => some (.dsSqrt, t, w)
  | .dsRsqrt t w => some (.dsRsqrt, t, w)
  | .dsRcp t w => some (.dsRcp, t, w)
  | .forwardResume _ => none
  | .seFact t w => some (.seFact, t, w)
  | .seSolve t w => some (.seSolve, t, w)
  | .seBand t w => some (.seBand, t, w)
  | .seResume t w => some (.seResume, t, w)
  | .seJoin t w => some (.seJoin, t, w)
  | .veAdd t w => some (.veAdd, t, w)
  | .veSub t w => some (.veSub, t, w)
  | .veMul t w => some (.veMul, t, w)
  | .veFma t w => some (.veFma, t, w)
  | .veMax t w => some (.veMax, t, w)
  | .veMin t w => some (.veMin, t, w)
  | .veAbs t w => some (.veAbs, t, w)
  | .veCvt t w => some (.veCvt, t, w)
  | .veCmp t w => some (.veCmp, t, w)
  | .veQadd t w => some (.veQadd, t, w)
  | .veQsub t w => some (.veQsub, t, w)
  | .veQmulr t w => some (.veQmulr, t, w)
  | .veQshr t w => some (.veQshr, t, w)
  | .veEpi t w => some (.veEpi, t, w)
  | .epiTile _ => none
  | .ruSum t w => some (.ruSum, t, w)
  | .ruDot t w => some (.ruDot, t, w)
  | .ruSsq t w => some (.ruSsq, t, w)
  | .ruMax t w => some (.ruMax, t, w)
  | .ruMin t w => some (.ruMin, t, w)
  | .ruAmax t w => some (.ruAmax, t, w)
  | .ruHist t w => some (.ruHist, t, w)
  | .ueRun t w => some (.ueRun, t, w)
  | .handoff t w => some (.handoff, t, w)
  | .tmCopy t w => some (.tmCopy, t, w)
  | .tmGather t w => some (.tmGather, t, w)
  | .tmScatter t w => some (.tmScatter, t, w)
  | .tmFill t w => some (.tmFill, t, w)
  | .tmPrefetch t w => some (.tmPrefetch, t, w)
  | .tmClean t w => some (.tmClean, t, w)
  | .fbLoad t w => some (.fbLoad, t, w)
  | .fbStore t w => some (.fbStore, t, w)
  | .fbAtomicAdd t w => some (.fbAtomicAdd, t, w)
  | .fbAtomicAnd t w => some (.fbAtomicAnd, t, w)
  | .fbAtomicOr t w => some (.fbAtomicOr, t, w)
  | .fbAtomicXor t w => some (.fbAtomicXor, t, w)
  | .fbAtomicMin t w => some (.fbAtomicMin, t, w)
  | .fbAtomicMax t w => some (.fbAtomicMax, t, w)
  | .fbAtomicMinu t w => some (.fbAtomicMinu, t, w)
  | .fbAtomicMaxu t w => some (.fbAtomicMaxu, t, w)
  | .fbAtomicSwap t w => some (.fbAtomicSwap, t, w)
  | .fbAtomicCas t w => some (.fbAtomicCas, t, w)
  | .fadd t w => some (.fadd, t, w)
  | .fxadd t w => some (.fxadd, t, w)
  | .fbTrigger t w => some (.fbTrigger, t, w)
  | .fbFence t w => some (.fbFence, t, w)
  | .fbSend t w => some (.fbSend, t, w)
  | .fbRecv t w => some (.fbRecv, t, w)
  | .fbWait t w => some (.fbWait, t, w)
  | .storeStream t w => some (.storeStream, t, w)
  | .fbCtrset t w => some (.fbCtrset, t, w)
  | .waitDeadlinePassed _ => none
  | .collGroup t w => some (.collGroup, t, w)
  | .sumAll t w => some (.sumAll, t, w)
  | .collWait t w => some (.collWait, t, w)
  | .collStart _ => none
  | .collSetup _ _ _ _ => none
  | .collSetupRsp _ _ => none
  | .collUp _ _ _ => none
  | .collDown _ => none
  | .collEnd _ => none
  | .collTimeout _ _ _ => none
  | .collRetransmit _ _ _ _ => none
  | .load _ => none
  | .loadRsp _ => none
  | .store _ => none
  | .atomic _ => none
  | .atomicRsp _ => none
  | .trigger _ => none
  | .send _ => none
  | .ack _ => none
  | .nack _ => none
  | .heldTriggerRun _ => none
  | .listComplete _ _ => none
  | .retransmit _ _ _ => none
  | .markUnreachable _ _ => none
  | .busyRetry _ _ _ => none
  | .fenceTimeout _ => none
  | .mgmt _ _ _ _ _ => none
  | .sync _ => none
  | .followUp _ => none
  | .delayRsp _ => none
  | .tbPpsEdge => none
  | .tbLockLost => none
  | .linkFrame _ _ _ _ => none
  | .laneDown _ _ => none
  | .eyeRecentre _ _ => none
  | .sealWrite _ _ _ _ _ => none
  | .echo _ _ => none
  | .sessionOpen _ _ => none
  | .jobSetup _ _ => none
  | .jobLoad _ _ _ => none
  | .jobStart _ _ => none
  | .map _ _ => none
  | .unmap _ _ => none
  | .regRead _ _ => none
  | .regWrite _ _ => none
  | .tileResume _ _ => none
  | .stopAtStep _ _ => none
  | .stepResume _ _ => none
  | .teardown _ _ => none
  | .checkpoint _ _ => none
  | .pair _ _ => none
  | .pairWaitExpiry => none
  | .takeover _ _ => none
  | .handover _ _ => none
  | .releaseMirror _ _ => none
  | .resync _ _ => none
  | .detach _ _ => none
  | .mirrorSetup _ _ => none
  | .mirrorSetupExpiry _ => none
  | .tagAssign _ _ => none
  | .tagTeardown _ _ => none
  | .quarantineExpiry _ => none
  | .powerLimit _ _ => none
  | .fwUpdate _ _ => none
  | .ownerProgram _ _ => none
  | .fwRevoke _ _ => none
  | .ownerRevoke _ _ => none
  | .svnAdvance _ _ => none
  | .fmkSet _ _ => none
  | .ideLock _ _ => none
  | .lifecycle _ _ => none
  | .debugUnlock _ _ => none
  | .recoverySeal _ _ => none
  | .bar4Read _ _ _ _ => none
  | .bar4Write _ _ _ _ => none
  | .engFlagsWrite _ _ _ _ => none
  | .engGenWrite _ _ _ => none
  | .rwsWrite _ _ _ _ => none
  | .rwcWrite _ _ _ _ => none
  | .registerWrite _ _ => none
  | .pendingStart _ _ => none
  | .dispatchResume _ => none
  | .commandRetire _ _ => none
  | .chunkEnd _ _ => none
  | .stragglerPass _ _ => none
  | .breakHit _ => none
  | .translationFault _ _ => none
  | .faultRestart _ _ => none
  | .guardSave _ => none
  | .guardSlotFree => none
  | .captureEnd _ => none
  | .mirrorDeltaBlock _ => none
  | .deltaReceive _ => none
  | .deltaCommit _ => none
  | .mirrorAck _ _ => none
  | .logApply _ => none
  | .ckptBlockCopy _ => none
  | .replicaDecideTimeout _ _ => none
  | .manifestSend _ => none
  | .ckptDone _ => none
  | .hearthHeartbeat _ => none
  | .hearthFailover => none
  | .standbyLost => none
  | .pairHeartbeat _ => none
  | .pairHeartbeatReceive _ => none
  | .twinSuspect => none
  | .failureNotice => none
  | .packageFailed _ => none
  | .tileFault _ => none
  | .planeFailover _ => none
  | .porchFault _ => none
  | .porchRemirror _ => none
  | .pcMapout _ => none
  | .agingReport _ _ => none
  | .scrub _ _ _ => none
  | .refresh _ _ => none
  | .refreshManagement _ _ => none
  | .housekeepingSlice => none
  | .satLevel _ _ _ _ => none
  | .ckptAdvisory _ => none
  | .advisoryClear _ => none
  | .tempSample _ => none
  | .governorTick _ _ => none
  | .clockStretch _ _ => none
  | .landingResync _ _ => none
  | .landingTimeout _ => none
  | .enterReady => none
  | .wake _ => none
  | .thermtrip => none
  | .supplyFault _ => none
  | .deviceReset => none
  | .bootImageAccept _ _ => none
  | .hearthRoleSelect => none
  | .bootReady _ _ => none
  | .portReset _ _ => none
  | .functionLevelReset _ => none
  | .pairSenseChange _ => none
  | .ideIntegrityFail _ _ => none
  | .bmcOffsetWrite _ => none
  | .bmcAddressAssign _ => none
  | .doeDiscovery _ _ => none
  | .getVersion _ => none
  | .getCapabilities _ _ => none
  | .negotiateAlgorithms _ _ _ _ _ => none
  | .getDigests _ => none
  | .getCertificate _ _ _ _ => none
  | .challenge _ _ _ => none
  | .getMeasurements _ _ _ => none
  | .keyExchange _ _ _ => none
  | .finish _ _ => none
  | .heartbeat _ => none
  | .keyUpdate _ _ => none
  | .endSession _ => none
  | .ideKm _ _ => none
  | .sysRstNLow _ => none
  | .vauxLoss => none
  | .portLinkUp _ => none
  | .standbyBoot => none
  | .pairingFrame _ => none
  | .unassignedOpcode _ _ => none

end Sys2Proof
end

