-- ==== Sys2Proof/Machine/Hash.lean ====
section
/-! DEFINITION. Hash.lean: the published algorithms the spec names: Philox-4x32-10 (R81), SHA-384 (R448, R451), HMAC and
HKDF over it (R293, R454), CRC-64 (R261), CRC-32C (R315), and ECDSA and ECDH on P-384 (R448, R454). The spec names them
and does not print them: their constants are those of the published standards (log 13). -/

namespace Sys2Proof

/-! ## Bytes and numbers -/

/-- A number as `n` bytes, least significant first (R7). -/
def leBytes : Nat → Nat → List Byte
  | 0, _ => []
  | n + 1, v => BitVec.ofNat 8 v :: leBytes n (v / 256)

/-- Bytes read as a number, least significant first (R7). -/
def leNat : List Byte → Nat
  | [] => 0
  | b :: bs => b.toNat + 256 * leNat bs

/-- Bytes read most significant first. -/
def beNat (bs : List Byte) : Nat := bs.foldl (fun a b => a * 256 + b.toNat) 0

/-- A number as `n` bytes, most significant first. -/
def beBytes (n v : Nat) : List Byte := (leBytes n v).reverse

/-- A slice of a byte list, padded with zeros. -/
def slice (bs : List Byte) (off len : Nat) : List Byte :=
  let t := (bs.drop off).take len
  t ++ List.replicate (len - t.length) 0#8

/-- A little-endian field of a byte list. -/
def fieldAt (bs : List Byte) (off len : Nat) : Nat := leNat (slice bs off len)

/-! ## Philox-4x32-10 (R81) -/

/-- The four counter words and two key words. -/
structure Philox where
  c0 : Nat
  c1 : Nat
  c2 : Nat
  c3 : Nat
  k0 : Nat
  k1 : Nat
  deriving DecidableEq, Repr

def philoxRound (x : Philox) : Philox :=
  let p0 := 0xD2511F53 * x.c0
  let p1 := 0xCD9E8D57 * x.c2
  let m := 2 ^ 32
  ⟨(p1 / m) ^^^ x.c1 ^^^ x.k0, p1 % m, (p0 / m) ^^^ x.c3 ^^^ x.k1, p0 % m,
    (x.k0 + 0x9E3779B9) % m, (x.k1 + 0xBB67AE85) % m⟩

def philoxRounds : Nat → Philox → Philox
  | 0, x => x
  | n + 1, x => philoxRounds n (philoxRound x)

/-- The four output words of ten rounds. -/
def philox (x : Philox) : List Nat :=
  let y := philoxRounds 10 x
  [y.c0, y.c1, y.c2, y.c3]

/-- The random word of an element (R81 Table 3.8): job seed, tensor id, stream code, step, linear index. -/
def rscWord (seed tid stream step e : Nat) : Nat :=
  let x : Philox := ⟨e / 4 % 2 ^ 32, e / 2 ^ 34 % 2 ^ 8 + stream * 2 ^ 8, step % 2 ^ 32,
    step / 2 ^ 32 % 2 ^ 32, seed % 2 ^ 32, (seed / 2 ^ 32 % 2 ^ 32) ^^^ (tid % 2 ^ 24)⟩
  (philox x).getD (e % 4) 0

/-! ## Cyclic checks -/

/-- One byte into a reflected CRC register of polynomial `poly` (reflected form). -/
def crcByte (poly : Nat) : Nat → Nat → Nat
  | 0, c => c
  | n + 1, c => crcByte poly n (if c % 2 = 1 then (c / 2) ^^^ poly else c / 2)

/-- CRC-32C of a byte list (R315): reflected, initial value and final XOR all ones. -/
def crc32c (bs : List Byte) : Nat :=
  (bs.foldl (fun c b => crcByte 0x82F63B78 8 (c ^^^ b.toNat)) 0xFFFFFFFF) ^^^ 0xFFFFFFFF

/-- One bit of the CRC-64 of R261, most significant bit first. -/
def crc64Bits : Nat → Nat → Nat
  | 0, c => c
  | n + 1, c => crc64Bits n (if 2 ^ 63 ≤ c then (2 * c % 2 ^ 64) ^^^ 0x42F0E1EBA9EA3693 else 2 * c)

/-- CRC-64 of R261: polynomial 0x42F0_E1EB_A9EA_3693, initial value 0, no reflection, no final XOR. -/
def crc64 (bs : List Byte) : Nat := bs.foldl (fun c b => crc64Bits 8 (c ^^^ (b.toNat * 2 ^ 56))) 0

/-- CRC-32 of a link frame (R309): the IEEE 802.3 polynomial, reflected. -/
def crc32 (bs : List Byte) : Nat :=
  (bs.foldl (fun c b => crcByte 0xEDB88320 8 (c ^^^ b.toNat)) 0xFFFFFFFF) ^^^ 0xFFFFFFFF

/-! ## SHA-384 -/

def rotr64 (n x : Nat) : Nat := x / 2 ^ n + x % 2 ^ n * 2 ^ (64 - n)

def shaK : List Nat :=
  [0x428a2f98d728ae22, 0x7137449123ef65cd, 0xb5c0fbcfec4d3b2f, 0xe9b5dba58189dbbc, 0x3956c25bf348b538, 0x59f111f1b605d019, 0x923f82a4af194f9b, 0xab1c5ed5da6d8118, 0xd807aa98a3030242, 0x12835b0145706fbe] ++
  [0x243185be4ee4b28c, 0x550c7dc3d5ffb4e2, 0x72be5d74f27b896f, 0x80deb1fe3b1696b1, 0x9bdc06a725c71235, 0xc19bf174cf692694, 0xe49b69c19ef14ad2, 0xefbe4786384f25e3, 0x0fc19dc68b8cd5b5, 0x240ca1cc77ac9c65] ++
  [0x2de92c6f592b0275, 0x4a7484aa6ea6e483, 0x5cb0a9dcbd41fbd4, 0x76f988da831153b5, 0x983e5152ee66dfab, 0xa831c66d2db43210, 0xb00327c898fb213f, 0xbf597fc7beef0ee4, 0xc6e00bf33da88fc2, 0xd5a79147930aa725] ++
  [0x06ca6351e003826f, 0x142929670a0e6e70, 0x27b70a8546d22ffc, 0x2e1b21385c26c926, 0x4d2c6dfc5ac42aed, 0x53380d139d95b3df, 0x650a73548baf63de, 0x766a0abb3c77b2a8, 0x81c2c92e47edaee6, 0x92722c851482353b] ++
  [0xa2bfe8a14cf10364, 0xa81a664bbc423001, 0xc24b8b70d0f89791, 0xc76c51a30654be30, 0xd192e819d6ef5218, 0xd69906245565a910, 0xf40e35855771202a, 0x106aa07032bbd1b8, 0x19a4c116b8d2d0c8, 0x1e376c085141ab53] ++
  [0x2748774cdf8eeb99, 0x34b0bcb5e19b48a8, 0x391c0cb3c5c95a63, 0x4ed8aa4ae3418acb, 0x5b9cca4f7763e373, 0x682e6ff3d6b2b8a3, 0x748f82ee5defb2fc, 0x78a5636f43172f60, 0x84c87814a1f0ab72, 0x8cc702081a6439ec] ++
  [0x90befffa23631e28, 0xa4506cebde82bde9, 0xbef9a3f7b2c67915, 0xc67178f2e372532b, 0xca273eceea26619c, 0xd186b8c721c0c207, 0xeada7dd6cde0eb1e, 0xf57d4f7fee6ed178, 0x06f067aa72176fba, 0x0a637dc5a2c898a6] ++
  [0x113f9804bef90dae, 0x1b710b35131c471b, 0x28db77f523047d84, 0x32caab7b40c72493, 0x3c9ebe0a15c9bebc, 0x431d67c49c100d4c, 0x4cc5d4becb3e42b6, 0x597f299cfc657e2a, 0x5fcb6fab3ad6faec, 0x6c44198c4a475817]

def shaIv384 : List Nat :=
  [0xcbbb9d5dc1059ed8, 0x629a292a367cd507, 0x9159015a3070dd17, 0x152fecd8f70e5939, 0x67332667ffc00b31, 0x8eb44a8768581511, 0xdb0c2e0d64f98fa7, 0x47b5481dbefa4fa4]

/-- The message schedule: 64 further words from the last 16, newest first. -/
def shaSchedule : Nat → List Nat → List Nat
  | 0, w => w
  | n + 1, w =>
    let g (i : Nat) := w.getD i 0
    let s0 := let x := g 14; rotr64 1 x ^^^ rotr64 8 x ^^^ (x / 2 ^ 7)
    let s1 := let x := g 1; rotr64 19 x ^^^ rotr64 61 x ^^^ (x / 2 ^ 6)
    shaSchedule n ((g 15 + s0 + g 6 + s1) % 2 ^ 64 :: w)

/-- The eight working words. -/
structure ShaState where
  a : Nat
  b : Nat
  c : Nat
  d : Nat
  e : Nat
  f : Nat
  g : Nat
  h : Nat
  deriving DecidableEq, Repr

def shaStep (s : ShaState) (kw : Nat × Nat) : ShaState :=
  let m := 2 ^ 64
  let s1 := rotr64 14 s.e ^^^ rotr64 18 s.e ^^^ rotr64 41 s.e
  let ch := (s.e &&& s.f) ^^^ ((m - 1 - s.e) &&& s.g)
  let t1 := s.h + s1 + ch + kw.1 + kw.2
  let s0 := rotr64 28 s.a ^^^ rotr64 34 s.a ^^^ rotr64 39 s.a
  let mj := (s.a &&& s.b) ^^^ (s.a &&& s.c) ^^^ (s.b &&& s.c)
  ⟨(t1 + s0 + mj) % m, s.a, s.b, s.c, (s.d + t1) % m, s.e, s.f, s.g⟩

/-- Words of 8 bytes, most significant first. -/
def shaWords : Nat → List Byte → List Nat
  | 0, _ => []
  | n + 1, bs => beNat (bs.take 8) :: shaWords n (bs.drop 8)

def shaBlock (h : List Nat) (blk : List Byte) : List Nat :=
  let w := (shaSchedule 64 (shaWords 16 blk).reverse).reverse
  let g (i : Nat) := h.getD i 0
  let s := (shaK.zip w).foldl shaStep ⟨g 0, g 1, g 2, g 3, g 4, g 5, g 6, g 7⟩
  [g 0 + s.a, g 1 + s.b, g 2 + s.c, g 3 + s.d, g 4 + s.e, g 5 + s.f, g 6 + s.g, g 7 + s.h].map (· % 2 ^ 64)

def shaBlocks : Nat → List Nat → List Byte → List Nat
  | 0, h, _ => h
  | n + 1, h, bs => shaBlocks n (shaBlock h (bs.take 128)) (bs.drop 128)

/-- SHA-384 of a byte list: 48 bytes. -/
def sha384 (bs : List Byte) : List Byte :=
  let n := bs.length
  let z := (128 - (n + 17) % 128) % 128
  let padded := bs ++ [0x80#8] ++ List.replicate z 0#8 ++ beBytes 16 (8 * n)
  ((shaBlocks ((n + 17 + z) / 128) shaIv384 padded).take 6).flatMap (beBytes 8)

/-- HMAC over SHA-384. -/
def hmac384 (key msg : List Byte) : List Byte :=
  let k := if key.length > 128 then sha384 key else key
  let k := k ++ List.replicate (128 - k.length) 0#8
  sha384 (k.map (· ^^^ 0x5C#8) ++ sha384 (k.map (· ^^^ 0x36#8) ++ msg))

/-- HKDF-Extract over SHA-384. -/
def hkdfExtract (salt ikm : List Byte) : List Byte := hmac384 salt ikm

/-- HKDF-Expand over SHA-384, to at most 48 bytes. -/
def hkdfExpand48 (prk info : List Byte) : List Byte := hmac384 prk (info ++ [1#8])

/-- HKDF-Expand over SHA-384, 96 bytes. -/
def hkdfExpand96 (prk info : List Byte) : List Byte :=
  let t := hkdfExpand48 prk info
  t ++ hmac384 prk (t ++ info ++ [2#8])

/-- The bytes of an ASCII text. -/
def ascii (s : String) : List Byte := s.toList.map (fun c => BitVec.ofNat 8 c.toNat)

/-! ## P-384 -/

def p384P : Nat := 2 ^ 384 - 2 ^ 128 - 2 ^ 96 + 2 ^ 32 - 1
def p384N : Nat := 0xffffffffffffffffffffffffffffffffffffffffffffffffc7634d81f4372ddf581a0db248b0a77aecec196accc52973
def p384B : Nat := 0xb3312fa7e23ee7e4988e056be3f82d19181d9c6efe8141120314088f5013875ac656398d8a2ed19d2a85c8edd3ec2aef
def p384Gx : Nat := 0xaa87ca22be8b05378eb1c71ef320ad746e1d3b628ba79b9859f741e082542a385502f25dbf55296c3a545e3872760ab7
def p384Gy : Nat := 0x3617de4a96262c6f5d9e98bf9292dc29f8f41dbd289a147ce9da3113b5f0b8c00a60b1ce1d7e819d7a431d7c90ea0e5f

/-- `b ^ e mod m` by the bits of `e`, at most `fuel` of them. -/
def powMod (m : Nat) : Nat → Nat → Nat → Nat
  | 0, _, _ => 1 % m
  | fuel + 1, b, e =>
    let h := powMod m fuel (b * b % m) (e / 2)
    if e % 2 = 1 then h * b % m else h

/-- The inverse modulo a 384-bit prime. -/
def invMod (m a : Nat) : Nat := powMod m 384 (a % m) (m - 2)

/-- A point of the curve in Jacobian coordinates; `z = 0` is the point at infinity. -/
structure JPoint where
  x : Nat
  y : Nat
  z : Nat
  deriving DecidableEq, Repr

def JPoint.infinity : JPoint := ⟨1, 1, 0⟩
def subMod (a b : Nat) : Nat := (a + p384P - b % p384P) % p384P

def JPoint.double (a : JPoint) : JPoint :=
  if a.z = 0 || a.y = 0 then JPoint.infinity
  else
    let z2 := a.z * a.z % p384P
    let m := 3 * (subMod a.x z2) * (a.x + z2) % p384P
    let y2 := a.y * a.y % p384P
    let s := 4 * a.x * y2 % p384P
    let x := subMod (m * m % p384P) (2 * s)
    let y := subMod (m * subMod s x % p384P) (8 * y2 * y2)
    ⟨x, y, 2 * a.y * a.z % p384P⟩

def JPoint.add (a b : JPoint) : JPoint :=
  if a.z = 0 then b
  else if b.z = 0 then a
  else
    let z1 := a.z * a.z % p384P
    let z2 := b.z * b.z % p384P
    let u1 := a.x * z2 % p384P
    let u2 := b.x * z1 % p384P
    let s1 := a.y * (z2 * b.z % p384P) % p384P
    let s2 := b.y * (z1 * a.z % p384P) % p384P
    if u1 = u2 then if s1 = s2 then a.double else JPoint.infinity
    else
      let h := subMod u2 u1
      let r := subMod s2 s1
      let h2 := h * h % p384P
      let h3 := h * h2 % p384P
      let v := u1 * h2 % p384P
      let x := subMod (subMod (r * r % p384P) h3) (2 * v)
      let y := subMod (r * subMod v x % p384P) (s1 * h3)
      ⟨x, y, a.z * b.z % p384P * h % p384P⟩

def JPoint.mulAux : Nat → Nat → JPoint → JPoint → JPoint
  | 0, _, _, acc => acc
  | fuel + 1, k, p, acc => JPoint.mulAux fuel (k / 2) p.double (if k % 2 = 1 then acc.add p else acc)

def JPoint.mul (k : Nat) (p : JPoint) : JPoint := JPoint.mulAux 384 k p JPoint.infinity

/-- Affine coordinates; (0, 0) for the point at infinity. -/
def JPoint.affine (p : JPoint) : Nat × Nat :=
  if p.z = 0 then (0, 0)
  else
    let zi := invMod p384P p.z
    let z2 := zi * zi % p384P
    (p.x * z2 % p384P, p.y * (z2 * zi % p384P) % p384P)

def p384G : JPoint := ⟨p384Gx, p384Gy, 1⟩

/-- A public key is on the curve and not at infinity. -/
def onCurve (x y : Nat) : Bool :=
  decide (x < p384P) && decide (y < p384P)
    && decide (y * y % p384P = (x * x % p384P * x + (p384P - 3) * x + p384B) % p384P)

/-- The public key of a private scalar. -/
def p384Public (d : Nat) : Nat × Nat := (JPoint.mul d p384G).affine

/-- The x coordinate of the shared point (ECDH), 48 bytes, most significant first. -/
def p384Ecdh (d : Nat) (pub : Nat × Nat) : List Byte := beBytes 48 (JPoint.mul d ⟨pub.1, pub.2, 1⟩).affine.1

/-- ECDSA verification on P-384 with SHA-384. -/
def ecdsaVerify (pub : Nat × Nat) (msg : List Byte) (r s : Nat) : Bool :=
  if r = 0 || s = 0 || p384N ≤ r || p384N ≤ s || !onCurve pub.1 pub.2 then false
  else
    let z := beNat (sha384 msg)
    let w := invMod p384N s
    let q := JPoint.add (JPoint.mul (z * w % p384N) p384G) (JPoint.mul (r * w % p384N) ⟨pub.1, pub.2, 1⟩)
    decide (q.z ≠ 0) && decide (q.affine.1 % p384N = r)

/-- The affine points of the curve with an x coordinate. -/
def pointsAt (x : Nat) : List (Nat × Nat) :=
  if p384P ≤ x then []
  else
    let y := powMod p384P 384 ((x * x % p384P * x + (p384P - 3) * x + p384B) % p384P) ((p384P + 1) / 4)
    if onCurve x y then [(x, y), (x, (p384P - y) % p384P)] else []

/-- The public keys under which an ECDSA signature of a message verifies. -/
def ecdsaKeys (msg : List Byte) (r s : Nat) : List (Nat × Nat) :=
  if r = 0 || s = 0 || p384N ≤ r || p384N ≤ s then []
  else
    let w := invMod p384N r
    let z := beNat (sha384 msg) % p384N
    ((pointsAt r ++ pointsAt (r + p384N)).map (fun q =>
      (JPoint.add (JPoint.mul (s * w % p384N) ⟨q.1, q.2, 1⟩) (JPoint.mul ((p384N - z) * w % p384N) p384G)).affine)).filter
      (fun k => ecdsaVerify k msg r s)

/-- ECDSA signature with the nonce `k`. -/
def ecdsaSign (d k : Nat) (msg : List Byte) : Nat × Nat :=
  let r := (p384Public k).1 % p384N
  (r, invMod p384N k * (beNat (sha384 msg) + r * d) % p384N)

/-- A private key from random bytes by the extra-bits method of FIPS 186-5 (R445). -/
def keyOfBits (bs : List Byte) : Nat := beNat bs % (p384N - 1) + 1

/-- The identity key of a device secret (R445): HKDF-SHA-384 with no salt, 448 bits. -/
def identityKey (secret : List Byte) (rma : Bool) : Nat :=
  let prk := hkdfExtract (List.replicate 48 0#8) secret
  keyOfBits ((hkdfExpand96 prk (ascii "KN8-IDENTITY" ++ [if rma then 1#8 else 0#8])).take 56)

/-- The two halves of a 96-byte signature or public key, each 48 bytes, most significant first. -/
def halves96 (bs : List Byte) : Nat × Nat := (beNat (slice bs 0 48), beNat (slice bs 48 48))

/-- Two numbers as 96 bytes. -/
def bytes96 (x : Nat × Nat) : List Byte := beBytes 48 x.1 ++ beBytes 48 x.2

end Sys2Proof
end

