-- ==== Sys2Proof/Config.lean ====
section
/-! DEFINITION. Config.lean: what an implementation of the NX-8 fixes and the spec does not state, and the free values.
Every constant here is opaque: nothing can be proved of its value (logs 1 and 11). -/

namespace Sys2Proof.Config

/-- A free 64-bit value: the n-th value the machine takes that the spec leaves open (log 1). -/
opaque freeWord : Nat → BitVec 64
/-- A free byte string of the n-th draw, by index (challenges of R455, keys of R454, contents left undefined; log 1). -/
opaque freeByte : Nat → Nat → BitVec 8
/-- A free choice between two outcomes that the spec both allows (old or new content of a block, R141). -/
opaque freeBool : Nat → Bool
/-- The fixed hash of R317 for the first path: source, destination, offset[47:12]. -/
opaque pathHash : Nat → Nat → Nat → Nat
/-- The fixed hash of R317 for the lane: destination, sequence number. -/
opaque laneHash : Nat → Nat → Nat
/-- The flows whose state a porch can hold at once (R337, log 121). -/
opaque flowSlots : Nat
/-- A byte of the 64 B of parameters of a setup record, whose layout the spec does not give (R376, log 22): a function of the
record's parameters as numbers, and of its place. -/
opaque setupByte : List Nat → Nat → BitVec 8
/-- The encryption of a session's key in the journal's cellar copy, under a key that the key unit derives from a device secret
(R454, log 5): secret, then plain text. -/
opaque journalSeal : List (BitVec 8) → List (BitVec 8) → List (BitVec 8)
/-- The fixed hash of R335 that chooses a flow's home porch by the other endpoint. -/
opaque homeHash : Nat → Nat
/-- Which of several cache regions that a job has on a die holds a line, by its block number (R252, log 27). -/
opaque pantryHome : Nat → Nat
/-- The timing of a command in tile cycles, which the spec bounds and does not fix (log 8). -/
opaque cycles : Nat → Nat

/-- The device-unique secret of the attic (R444), byte by byte: fused at manufacture. -/
opaque deviceSecret : Nat → BitVec 8
/-- The firmware key hashes of the attic (R444), by slot and byte: fused at manufacture. -/
opaque firmwareHash : Nat → Nat → BitVec 8
/-- The device certificate (R444). -/
opaque certificate : List (BitVec 8)
/-- The root and intermediate certificates of slot 0 (R452 Table 16.5), before the device certificate. -/
opaque rootChain : List (BitVec 8)
/-- The SHA-384 digest of the boot ROM (R451). -/
opaque romDigest : Nat → BitVec 8

end Sys2Proof.Config
end

