-- ==== Sys2Proof/Machine/SMap.lean ====
section
/-! DEFINITION. SMap.lean: sparse tables as data: a list of key and value pairs with rising keys, in which a value equal
to the table's default is never listed, so that equal tables are equal data. -/

namespace Sys2Proof

/-- A sparse table: keys strictly rise, and no listed value is the default. -/
abbrev SMap (α : Type) := List (Nat × α)

/-- The value at a key, the default `d` where the key is not listed. -/
def SMap.get {α : Type} (d : α) : SMap α → Nat → α
  | [], _ => d
  | (k', v) :: m, k => if k = k' then v else SMap.get d m k

/-- The table with no entry at a key. -/
def SMap.erase {α : Type} : SMap α → Nat → SMap α
  | [], _ => []
  | (k', v) :: m, k => if k = k' then SMap.erase m k else (k', v) :: SMap.erase m k

/-- The table with a listed value at a key. -/
def SMap.put {α : Type} : SMap α → Nat → α → SMap α
  | [], k, v => [(k, v)]
  | (k', v') :: m, k, v =>
    if k = k' then (k, v) :: m else if k < k' then (k, v) :: (k', v') :: m else (k', v') :: SMap.put m k v

/-- A write: the default is not listed. -/
def SMap.set {α : Type} [DecidableEq α] (d : α) (m : SMap α) (k : Nat) (v : α) : SMap α :=
  if v = d then SMap.erase m k else SMap.put m k v

/-- Changing the value at one key. -/
def SMap.modify {α : Type} [DecidableEq α] (d : α) (m : SMap α) (k : Nat) (f : α → α) : SMap α :=
  SMap.set d m k (f (SMap.get d m k))

/-- The keys above `lo` rise. -/
def SMap.sortedFrom {α : Type} : Nat → SMap α → Bool
  | _, [] => true
  | lo, (k, _) :: m => decide (lo ≤ k) && SMap.sortedFrom (k + 1) m

/-- The canonical form: rising keys and no listed default. -/
def SMap.wf {α : Type} [DecidableEq α] (d : α) (m : SMap α) : Bool :=
  SMap.sortedFrom 0 m && m.all (fun e => decide (e.2 ≠ d))

/-- Writes along a list of values, from a key up. -/
def SMap.setList {α : Type} [DecidableEq α] (d : α) : SMap α → Nat → List α → SMap α
  | m, _, [] => m
  | m, k, v :: vs => SMap.setList d (SMap.set d m k v) (k + 1) vs

/-- Reads along keys, from a key up. -/
def SMap.getList {α : Type} (d : α) (m : SMap α) : Nat → Nat → List α
  | _, 0 => []
  | k, n + 1 => SMap.get d m k :: SMap.getList d m (k + 1) n

/-- The map without the keys of a range. -/
def SMap.clearRange {α : Type} (m : SMap α) (base len : Nat) : SMap α :=
  m.filter (fun e => decide (e.1 < base) || decide (base + len ≤ e.1))

end Sys2Proof
end

