-- ==== Sys2Proof/Machine/State.lean ====
section
/-! DEFINITION. State.lean: the state of the block as plain data, its faults and refusals, and the state right after
device reset (R473). Registers that only count live in `bar2`; registers that show other state are computed from it
when they are read (Registers.lean). -/

namespace Sys2Proof.Machine

/-- Outcomes of items and commands (R14, Table 10.9 codes 0 to 4). -/
inductive ItemOutcome where
  | none
  | done
  | donePartial
  | skipped
  | failed
  deriving DecidableEq, Repr

/-- A tensor descriptor as its fields (R212 Table 8.4). -/
structure Desc where
  base : Nat
  fmt : Nat
  skind : Nat
  ndim : Nat
  ckpol : Nat
  glen : Nat
  ext : List Nat
  stride : List Int
  tid : Nat
  aglen : Nat
  scalePtr : Nat
  calPtr : Nat
  deriving DecidableEq, Repr

/-- What an operand slot gives a command at dispatch (R211, R214). -/
inductive SlotVal where
  | none
  | tensor (d : Desc)
  | address (a : Nat)
  | imm (v : BitVec 32)
  | scalar (v : BitVec 64)
  deriving DecidableEq, Repr

/-- A command as dispatched: its word and all it read at dispatch (R214, R230); `staging` is the tile mover's committed
staging area, taken when the command starts (R12); `prog` is the record of an update program with the descriptors it names,
where it could be read then (R199). -/
structure EngineCmd where
  op : Op
  w : CmdWord
  s0 : SlotVal
  s1 : SlotVal
  s2 : SlotVal
  s3 : SlotVal
  mask : Option Desc
  sreg : List (BitVec 64)
  deadline : BitVec 64
  ordinal : Nat
  addr : Nat
  step : BitVec 64
  issued : BitVec 64
  id : Nat := 0
  began : BitVec 64 := 0#64
  staging : Nat × Nat := (0, 0)
  prog : List Byte := []
  descs : List (Nat × Option Desc) := []
  deriving DecidableEq, Repr

/-- An effect of a command on its engine's registers at retirement: set or saturating add of a field. -/
structure RegEff where
  off : Nat
  lo : Nat
  len : Nat
  add : Bool
  v : Nat
  deriving DecidableEq, Repr

/-- What a command's work has come to, committed at its retirement (R111). -/
structure CmdResult where
  outcome : ItemOutcome
  status : Status
  flags : BitVec 4
  addr : Nat
  elem : Nat
  sres : List (Nat × BitVec 64)
  regs : List RegEff
  passes : Nat
  ruPasses : Nat := 0
  deriving DecidableEq, Repr

/-- Where a running command stands. `queue` is a matrix command with entries to push: those of `left`, and of `late` once the
straggler passes of their tiles are done (R127). `solved` is a solver command whose work, done at its retirement, meets no page fault
(R176). -/
inductive Stage where
  | ready (r : CmdResult)
  | solved
  | fault (va : Nat) (write : Bool)
  | resolved
  | cascade
  | queue (left late : List (Nat × Nat × Nat)) (r : CmdResult)
  | epilogue (next : Nat) (r : CmdResult)
  | forward (next : Nat) (r : CmdResult)
  | guardFull
  | fabric
  deriving DecidableEq, Repr

/-- A pantry cache line (R252): whether it is dirty, its poison bit and its check when that may differ from its data. -/
structure CacheLine where
  present : Bool := false
  dirty : Bool := false
  poison : Bool := false
  stale : Option (BitVec 64) := none
  deriving DecidableEq, Repr

/-- A 4 KiB block as it was before a command wrote it: listed bytes, check and poison, and its pantry line. -/
structure BlockImage where
  blk : Nat
  cells : List Host.Cell
  stale : Option (BitVec 64)
  poison : Bool
  line : CacheLine
  lineCells : List Host.Cell
  deriving DecidableEq, Repr

/-- A running command of an engine (R221): straggler passes still to run, restarts and chunks so far, whether it met a full
queue (R129), and the blocks it wrote as they were before (R141). -/
structure Running where
  cmd : EngineCmd
  stage : Stage
  passesLeft : Nat
  restarts : Nat
  chunks : Nat
  full : Bool := false
  before : List BlockImage := []
  deriving DecidableEq, Repr

/-- The running and the pending command of an engine (R221). -/
structure EngineState where
  running : Option Running := none
  pending : Option EngineCmd := none
  deriving DecidableEq, Repr

/-- An entry of the tag table (R228). -/
structure TagEntry where
  tag : BitVec 16 := 0#16
  pending : Bool := false
  outcome : ItemOutcome := .none
  status : Status := 0#16
  deriving DecidableEq, Repr

/-- A loop in progress (R225): its count and iteration, the A registers at entry and the stream address of its body. -/
structure LoopFrame where
  count : Nat
  iter : Nat
  entry : List (BitVec 64)
  body : Nat
  deriving DecidableEq, Repr

/-- Whether a sequencer's stream runs (Table 8.9). -/
inductive SeqMode where
  | idle
  | running
  | halted
  deriving DecidableEq, Repr

/-- What a sequencer waits for before it dispatches on: `access` is an `STS` that waits for a guard slot (R414). -/
inductive SeqWait where
  | none
  | dispatch
  | condition
  | access
  | stepDrain
  | arrived
  | endDrain
  | fault (va : Nat)
  deriving DecidableEq, Repr

/-- A halt (R233, R234): reason, stream address, ordinal and tag of the command concerned, whether it names one, and the
address that failed under a status of class 0x3 (Table 10.9). -/
structure HaltInfo where
  reason : Status
  addr : Nat
  ord : Nat
  tag : BitVec 16
  named : Bool
  failing : Option Nat := none
  elem : Option Nat := none
  deriving DecidableEq, Repr

/-- An item's place: port, slot and record position (R296). -/
structure ItemRef where
  port : Port
  slot : Nat
  pos : Nat
  deriving DecidableEq, Repr

/-- One operation on finished output tiles or a forwarded group: an entry of the finished-tile queue (R127 Table 5.6). -/
abbrev FtEntry := BitVec 128

/-- A right-hand-side column of a solver command between phases: its iterate and best iterate as FP64 bits, the number
of the best one (0 for none), the iterations it has run, whether it has converged, the number of its iterate, and its
first iterate. -/
structure SolverCol where
  hi : List (BitVec 64)
  lo : List (BitVec 64)
  bestHi : List (BitVec 64)
  bestLo : List (BitVec 64)
  bestIter : Nat
  iters : Nat
  converged : Bool
  num : Nat
  firstHi : List (BitVec 64)
  firstLo : List (BitVec 64)
  deriving DecidableEq, Repr

/-- The resumable state of a solver command stopped by its factor deadline (R170): the command with the registers it
named, the record and the 128 bytes its RESUME field holds, the phase, the panel step to go on with, the working matrix
as bits of the factor format, its pivots, the threshold, the scaling, the perturbation entries so far, the largest magnitude
of the matrix as given, and the bytes left in the workspace as the draw they came from and their number. -/
structure SolverSave where
  cmd : EngineCmd
  job : Nat
  recVa : Nat
  resume : List Byte
  second : Bool
  next : Nat
  mat : List (BitVec 64)
  piv : List Nat
  theta : BitVec 64
  scale : Int
  ovf : Option Nat
  pert : List Nat
  cols : List SolverCol
  iters : Nat
  anorm : BitVec 64
  work : Nat × Nat
  deriving DecidableEq, Repr

/-- What a running `VE_EPI` holds for a calibrated Y of kind 1 (R190): its exponent and the histogram set it fills (R195),
the amax as FP64 bits. -/
structure EpiSave where
  k : Int
  buckets : List Nat
  amax : Nat
  zeros : Nat
  nonfinite : Nat
  deriving DecidableEq, Repr

/-- A `REG_WRITE` hamper that waits for an empty pending slot (R239): its item, register and value, and whether it came
after a `CFGW` to the same engine that waits at the dispatch point (R240). -/
structure RegWait where
  item : ItemRef
  eng : Engine
  off : Nat
  v : BitVec 64
  behind : Bool := false
  deriving DecidableEq, Repr

/-- One logical tile. `regWrites` are `REG_WRITE` hampers that wait for an empty pending slot (R239). -/
structure Tile where
  avail : Bool := false
  owner : Option Nat := none
  loaded : Bool := false
  started : Bool := false
  ended : Bool := false
  mode : SeqMode := .idle
  wait : SeqWait := .none
  held : Option Instr := none
  xct : Option Nat := none
  skipBreak : Bool := false
  pc : Nat := 0
  ordinal : Nat := 0
  loops : List LoopFrame := []
  seqRegs : SMap (BitVec 64) := []
  tags : SMap TagEntry := []
  engines : SMap EngineState := []
  regs : SMap (BitVec 64) := []
  shadow : SMap (Option (BitVec 64)) := []
  staged : SMap (Option (BitVec 64)) := []
  haltPending : Option HaltInfo := none
  ftq : List FtEntry := []
  fwd : List (List (BitVec 64)) := []
  taken : List (BitVec 64) := []
  fwdFail : List (Nat × Status) := []
  epi : Option EpiSave := none
  solver : List SolverSave := []
  streamItem : Option ItemRef := none
  breakItem : Option ItemRef := none
  regWrites : List RegWait := []
  deriving DecidableEq, Repr

/-- A pantry region register (R251 Table 9.4). -/
abbrev PanReg := BitVec 24

/-- A capture of the snapshot guard (R413): its job and boundary, the 64 KiB blocks still pending for the cut and for the
delta, and the saved copies: block, listed bytes, stale checks and poison of its 4 KiB blocks. -/
structure SavedBlock where
  block : Nat
  bytes : List Host.Cell
  stale : List (Nat × Option (BitVec 64))
  poison : List Nat
  deriving DecidableEq, Repr

structure Capture where
  job : Nat
  boundary : BitVec 64
  cut : List Nat
  delta : List Nat
  saved : List SavedBlock
  deriving DecidableEq, Repr

/-- The write tracking of a source mirror (R385): its job, the 2 MiB frames of its regions, and the 64 KiB blocks written
since the last delta was formed, each by its physical address over 64 KiB. -/
structure Track where
  job : Nat
  frames : List Nat
  dirty : List Nat
  deriving DecidableEq, Repr

/-- A mailbox session (R454). -/
structure Session where
  key : List Byte
  lastCtr : Nat
  ownerSlot : Nat
  deriving DecidableEq, Repr

/-- Slot states (Table 10.5). -/
inductive SlotMode where
  | free
  | sealed
  | taken
  | opened
  deriving DecidableEq, Repr

/-- What the journal records (R302, R451): a taken hamper with its place, the state of a port's session with its last accepted
counter, a slot's `SEQ` and state, an item's state (0 accepted, 1 started, 2 record written), and a measurement register. -/
inductive JournalItem where
  | hamper (port : Port) (slot : Nat) (hdr body : List Byte)
  | session (port : Port) (x : Option Session)
  | slot (port : Port) (slot seq : Nat) (mode : SlotMode)
  | item (r : ItemRef) (state : Nat)
  | mr (n : Nat) (value : List Byte)
  deriving DecidableEq, Repr

/-- A journal entry with its CRC-64 (R302, log 5). -/
structure JournalEntry where
  what : JournalItem
  crc : BitVec 64
  deriving DecidableEq, Repr

/-- Skeka's journal (R302): its copies in the local memory of both hearths and in the cellar reserve. -/
structure Journal where
  h0 : List JournalEntry := []
  h1 : List JournalEntry := []
  cellar : List JournalEntry := []
  deriving DecidableEq, Repr

/-- Memory and its error state (chapter 9): `mapped` is the pseudo-channel that is mapped out, `later` those that failed
after it (R257). After an exit from Sleep the cellar is undefined until written (R438): `lost` is the draw that its content
comes from, `settled` the 4 KiB blocks that have had a content since. -/
structure Store where
  mem : List Host.Cell := []
  stale : SMap (Option (BitVec 64)) := []
  poison : SMap Bool := []
  lost : Option Nat := none
  settled : SMap Bool := []
  lines : SMap CacheLine := []
  cacheMem : List Host.Cell := []
  panRegs : SMap PanReg := []
  panStaged : SMap (Option PanReg) := []
  panGen : SMap Nat := []
  mapped : Option Nat := none
  later : List Nat := []
  captures : List Capture := []
  tracks : List Track := []
  guardSaves : Nat := 0
  guardWaits : Nat := 0
  guardFull : Bool := false
  memErr : SMap (BitVec 64) := []
  deriving DecidableEq, Repr

/-- A page-table entry (R248 Table 9.3): the frame is the physical address over 2 MiB. -/
structure PageEntry where
  mapped : Bool := false
  frame : Nat := 0
  r : Bool := false
  w : Bool := false
  cache : Bool := false
  defer : Bool := false
  deriving DecidableEq, Repr

/-- A sending window (Table 11.9). -/
structure Window where
  base : Nat
  size : Nat
  r : Bool
  w : Bool
  a : Bool
  t : Bool
  deriving DecidableEq, Repr

/-- The fabric binding of a job context (R342): tag and epoch in one word, times, ranges, tables. -/
structure Binding where
  jtag : Nat
  rtoNs : Nat
  timeoutMs : Nat
  endpoints : List (Nat × Nat)
  gateways : Nat × Nat
  windows : List Window
  trigBase : Nat
  queueBase : Nat
  deriving DecidableEq, Repr

/-- For whom an operation waits. -/
inductive FabOwner where
  | posted
  | waiting
  | list (id : Nat)
  | copier
  deriving DecidableEq, Repr

/-- An operation sent and not forgotten (R335 to R340): its request, attempts, and what answered it. -/
structure FabOp where
  dst : Nat
  seq : Nat
  pkt : Packet
  tile : Nat
  owner : FabOwner
  issue : Nat
  attempts : Nat
  busy : Nat
  unreachable : Bool
  answered : Bool
  status : Status
  flags : BitVec 4
  value : BitVec 64
  data : List Byte
  covered : Bool
  deriving DecidableEq, Repr

/-- A request already applied, with the response sent for it (R337). -/
structure Applied where
  seq : Nat
  resp : Packet
  deriving DecidableEq, Repr

/-- A receiving flow (R337): source, window base, what was applied, and messages held for order (R328). -/
structure RecvFlow where
  src : Nat
  base : Nat
  applied : List Applied
  msgs : List Packet
  deriving DecidableEq, Repr

/-- A queued message (R328). -/
structure QMsg where
  entry : Nat
  src : Nat
  msg : List Byte
  deriving DecidableEq, Repr

/-- A triggered list that runs (R326, R327). -/
structure TrigList where
  id : Nat
  index : Nat
  tile : Nat
  words : List (Op × CmdWord)
  next : Nat
  src : Nat
  arg : BitVec 64
  ctr : Option Nat
  failed : Option Status
  deriving DecidableEq, Repr

/-- A stage entry of a group record (R349 Table 12.2). -/
structure StageEntry where
  kind : Nat
  collector : Bool
  fanin : Nat
  endpoint : Nat
  reduce : Nat
  input : Nat
  deriving DecidableEq, Repr

/-- A group (R349 Table 12.1) with its next collective sequence. -/
structure Group where
  gid : Nat
  members : Nat
  index : Nat
  slotLog2 : Nat
  timeoutMs : Nat
  stages : List StageEntry
  seq : Nat
  deriving DecidableEq, Repr

/-- Where a collective stands on this member. -/
inductive CollPhase where
  | queued
  | setup
  | data
  | ended (st : Status)
  deriving DecidableEq, Repr

/-- A packet of collective data received for a chunk: the stage and input it came by (for one that came down, the
stage it came down), its place, whether it holds special words, its bytes and flags (R356, R361). -/
structure CollPart where
  chunk : Nat
  stage : Nat
  input : Nat
  packet : Nat
  special : Bool
  down : Bool
  bytes : List Byte
  flags : BitVec 4
  deriving DecidableEq, Repr

/-- A chunk on this member: the stage its partial has reached, the partial's carried bytes and special words, the flags
of its combines, whether it was sent at that stage, its result with flags, and whether that is written (R351) or waits for a
guard slot (R414). -/
structure CollChunk where
  chunk : Nat
  stage : Nat
  data : List Byte
  special : List Byte
  flags : BitVec 4
  sent : Bool
  result : Option (List Byte × List Byte × BitVec 4)
  written : Bool
  held : Bool
  deriving DecidableEq, Repr

/-- A packet of a setup record that has come: stage and input (none for the verdict), its number, the parameters beside it, the
status of a verdict, and its chunk entries (R366, R376). -/
structure SetupPart where
  frm : Option (Nat × Nat)
  packet : Nat
  params : SetupRecord
  st : Status
  entries : List (Int × BitVec 4)
  deriving DecidableEq, Repr

/-- A `SUM_ALL` of a tile from its issue until a `COLL_WAIT` covers it (R354, R366 to R374). `undo` holds, by virtual
address, the bytes that stood in blocks of the destination which several chunks share, from before a chunk was written (R375);
`restoring` says that they are still to be put back, once the guard has a slot (R414). -/
structure Coll where
  tile : Nat
  list : Option Nat
  group : Nat
  gid : Nat
  seq : Nat
  src : Desc
  dst : Desc
  mode : Nat
  sat : Bool
  exact : Bool
  fixed : Bool
  ctr : Option Nat
  chain : Option Nat
  issued : BitVec 64
  issue : Nat
  phase : CollPhase
  abort : Bool
  stages : List StageEntry
  members : Nat
  slotLog2 : Nat
  timeoutMs : Nat
  setupStage : Nat
  setupSent : Bool
  setup : Option SetupRecord
  records : List (Nat × Nat × SetupRecord)
  anchors : List (Int × BitVec 4)
  parts : List CollPart
  setupParts : List SetupPart
  chunks : List CollChunk
  undo : List (Nat × Byte)
  restoring : Bool
  flags : BitVec 4
  covered : Bool
  deriving DecidableEq, Repr

/-- A delta on its way to the twin (R386): boundary, its 64 KiB blocks by virtual address over 64 KiB, those still to
send, and whether its commit frame is sent. -/
structure Delta where
  boundary : BitVec 64
  blocks : List Nat
  todo : List Nat
  sentAll : Bool
  deriving DecidableEq, Repr

/-- The mirror of a job context (R383 to R389, Table 13.9). `state`: 0 off, 1 source active, 2 LAGGING, 3 suspended,
4 sink standing, 5 taken over. `carried` holds the blocks that the next delta takes with it, `lagging` that no delta has
committed since one failed (R388). `side` is true for a sink; it has `agreed` once it accepts the twin's side. -/
structure Mirror where
  state : Nat := 0
  twinCtx : Nat := 0
  cause : Nat := 0
  deltaMib : Nat := 0
  committed : BitVec 64 := 0#64
  side : Option Bool := none
  confirmed : Bool := false
  agreed : Bool := false
  item : Option ItemRef := none
  regions : List (Nat × Nat) := []
  copyBase : Nat := 0
  copyBytes : Nat := 0
  logBase : Nat := 0
  logBytes : Nat := 0
  victims : List Nat := []
  tiles : List Nat := []
  autorun : Bool := false
  carried : List Nat := []
  lagging : Bool := false
  delta : Option Delta := none
  log : List GalleryFrame := []
  logDone : Option (BitVec 64) := none
  deriving DecidableEq, Repr

/-- A region of a cut (R402 Table 14.2). -/
structure CutRegion where
  base : Nat
  size : Nat
  first : Nat
  last : Nat
  deriving DecidableEq, Repr

/-- A cut of a job context (R402 to R412, Table 14.9). `state`: 0 none, 1 pending, 2 copying, 3 manifest, 4 done,
5 failed, 6 skipped. -/
structure Cut where
  state : Nat := 0
  gen : Bool := false
  status : Status := 0#16
  written : Nat := 0
  boundary : BitVec 64 := 0#64
  gateway : Nat := 0
  dataHandle : Nat := 0
  manHandle : Nat := 0
  packages : Nat := 0
  rank : Nat := 0
  regions : List CutRegion := []
  item : Option ItemRef := none
  next : Nat := 0
  digests : List (List Byte) := []
  heard : List (Nat × Nat × Nat × List Byte) := []
  writers : List (Nat × Nat) := []
  partialSet : Bool := false
  deriving DecidableEq, Repr

/-- A job context (chapters 2, 9, 10 to 14). `phase` as Table 2.3: 0 none, 1 set up, 2 boundary actions, 3 stopped; `uncached`
holds the frames of CACHE pages since unmapped, of which its cache regions may still hold lines (R254). -/
structure Job where
  phase : Nat := 0
  step : BitVec 64 := 0#64
  stopAt : BitVec 64 := BitVec.allOnes 64
  stopItem : Option ItemRef := none
  stepTime : BitVec 64 := 0#64
  seed : BitVec 64 := 0#64
  det : Bool := false
  entropy : Bool := false
  tiles : List Nat := []
  pool : List Nat := []
  poolUsed : List Nat := []
  pages : SMap PageEntry := []
  image : List Byte := []
  loadImage : Option LoaderImage := none
  unmapItems : List (ItemRef × Nat × Nat) := []
  uncached : List Nat := []
  binding : Option Binding := none
  tagState : Nat := 0
  lastTag : Nat := 0
  torn : Bool := false
  counters : SMap (BitVec 64) := []
  queues : SMap (List QMsg) := []
  ops : List FabOp := []
  nextSeq : SMap Nat := []
  nextIssue : Nat := 0
  flows : List RecvFlow := []
  heldTriggers : List Packet := []
  lists : List TrigList := []
  nextList : Nat := 0
  groups : SMap (Option Group) := []
  colls : List Coll := []
  mirror : Mirror := {}
  cut : Cut := {}
  rotate : List Nat := []
  deriving DecidableEq, Repr

/-- A record of a slot (Table 10.9). -/
structure Record where
  outcome : ItemOutcome := .none
  status : Status := 0#16
  tile : Nat := 0xFFFF
  detail : BitVec 64 := 0#64
  time : BitVec 64 := 0#64
  deriving DecidableEq, Repr

/-- The answer header of a slot (Table 10.8). -/
structure Answer where
  seq : Nat := 0
  status : Status := 0#16
  items : Nat := 0
  open_ : Nat := 0
  time : BitVec 64 := 0#64
  lastCtr : BitVec 64 := 0#64
  deriving DecidableEq, Repr

/-- A mailbox slot (R286 to R297). -/
structure Slot where
  mode : SlotMode := .free
  lastSeq : Nat := 0
  badSeal : Nat := 0
  hdr : List Byte := []
  body : List Byte := []
  sealNo : Nat := 0
  answer : Answer := {}
  records : SMap Record := []
  reply : List Byte := []
  openItems : List Nat := []
  deriving DecidableEq, Repr

/-- How far an SPDM connection has come (R452): `version` is 0 before `GET_VERSION`, 1 after it, then the version agreed on
(0x12 or 0x13); `transcript` is what was said since `GET_VERSION`; one key for each direction. -/
structure Spdm where
  version : Nat := 0
  negotiated : Bool := false
  exchanged : Bool := false
  secured : Bool := false
  transcript : List Byte := []
  hostKey : List Byte := []
  devKey : List Byte := []
  deriving DecidableEq, Repr

/-- A selective IDE stream (R463): its key, whether it is secure, and its address association, which covers the addresses from
`base` to `limit` as the configuration space names them. -/
structure IdeStream where
  key : List Byte := []
  secure : Bool := false
  base : BitVec 64 := 0#64
  limit : BitVec 64 := 0#64
  deriving DecidableEq, Repr

/-- An access of the host to BAR4 or to a slot, on an IDE stream or on none. -/
inductive HostAccess where
  | read (addr len : Nat) (stream : Option Nat)
  | write (addr : Nat) (data : List Byte) (stream : Option Nat)
  | seal (slot : Nat) (hdr body : List Byte) (word : SealWord)
  deriving DecidableEq, Repr

/-- A host port: `barGib` is the size its BAR4 has, in GiB (R284), `posted` holds a write that waits for a guard slot and what
came behind it (R286), and a port is `lost` with its hearth's die (R305). -/
structure PortState where
  linkUp : Bool := false
  lost : Bool := false
  barGib : Nat := 256
  posted : List HostAccess := []
  busMaster : Bool := false
  msixTable : SMap (BitVec 64) := []
  msixPending : BitVec 64 := 0#64
  aer : List (Nat × Status) := []
  slots : SMap Slot := []
  session : Option Session := none
  chal : List Byte := []
  spdm : Spdm := {}
  ide : SMap IdeStream := []
  deriving DecidableEq, Repr

/-- The attic of a hearth (R444 Table 16.1). -/
structure Attic where
  secret : List Byte := []
  fwHash : List (List Byte) := []
  fwRevoked : BitVec 4 := 0#4
  ownHash : List (List Byte) := []
  ownProg : BitVec 4 := 0#4
  ownRevoked : BitVec 4 := 0#4
  svn : Nat := 0
  lifecycle : Nat := 0
  ideLock : Bool := false
  cert : List Byte := []
  deriving DecidableEq, Repr

/-- A marker page (R449): its first 24 bytes, of which byte 0 names the active copy, bytes 8 to 15 hold the generation and
bytes 16 to 23 the CRC-64; none of an erased page. -/
structure Marker where
  bytes : List Byte := []
  deriving DecidableEq, Repr

/-- A hearth's flash (R449). -/
structure Flash where
  copyA : List Byte := []
  copyB : List Byte := []
  marker0 : Marker := {}
  marker1 : Marker := {}
  deriving DecidableEq, Repr

/-- A hearth (R446, R449, R450): `tried` counts the flash copies it has tried, `buffer` is its boot buffer. `bootState`: 0 ROM, 1 recovery wait, 2 Skeka starting, 3 ready, 4 failed. -/
structure Hearth where
  attic : Attic := {}
  flash : Flash := {}
  bootState : Nat := 0
  bootFail : Nat := 0
  bootSrc : Nat := 0
  imageSvn : Nat := 0
  imageHeader : List Byte := []
  tried : Nat := 0
  buffer : SMap Byte := []
  alive : Bool := true
  deriving DecidableEq, Repr

/-- Board, lands and management (chapter 17): levels of the lands, `vaux` for that rail and `rails` for the others, the setpoint
of VTILE in mV that the regulator holds (R469), `flashRstN` as the hearths drive it (R480), and the address of the
board-management target, 0x3A until one is assigned (R479). -/
structure Board where
  grade : Nat := 0
  pwrok : Bool := true
  sysRstN : Bool := true
  perstA : Bool := false
  perstB : Bool := false
  pairSense : Bool := false
  thermtrip : Bool := false
  vaux : Bool := true
  rails : Bool := true
  flashRstN : Bool := true
  vtile : Nat := 700
  bmcOffset : BitVec 16 := 0#16
  bmcAddr : BitVec 7 := 0x3A#7
  deriving DecidableEq, Repr

/-- Security and the hearth pair (chapters 10 and 16): `measured` once the boot ROM has extended MR0 and MR2 (R446), `settled`
once the roles of the hearths are (R450), `asleep` while the other hearth is powered down for Sleep or boots after it (R438),
and `fuse` the attics as they were before a fuse write that is still in progress (R471). -/
structure Sec where
  h0 : Hearth := {}
  h1 : Hearth := {}
  active : Nat := 0
  standbyOk : Bool := false
  missedHearth : Nat := 0
  failovers : Nat := 0
  failoverTime : BitVec 64 := 0#64
  debug : Bool := false
  scope : BitVec 3 := 0#3
  fmk : Option (List Byte) := none
  mr : List (List Byte) := []
  fuse : Option (Attic × Attic) := none
  measured : Bool := false
  settled : Bool := false
  ready : Bool := false
  asleep : Bool := false
  failed : Bool := false
  deriving DecidableEq, Repr

/-- The fabric of the package (chapter 11): `retries` counts the failures in a row of a lane's frame (R310), gallery lanes from
128 on; `flowSlots` is the number of flows that one porch can hold (R337), `collEnded` the record of ended collectives by
tag, group, sequence and status (R370), and `waiting` the requests, by job, whose writes wait for a guard slot (R414). -/
structure Fabric where
  endpoint : Option Nat := none
  paths : Nat := 0
  pathsDown : List Nat := []
  lanesUp : BitVec 128 := 0#128
  porchUp : BitVec 4 := 15#4
  mirrored : BitVec 4 := 15#4
  retries : SMap Nat := []
  quarantine : List (Nat × BitVec 64) := []
  flowSlots : Nat := Config.flowSlots
  collEnded : List (Nat × Nat × Nat × Status) := []
  waiting : List (Nat × Packet) := []
  deriving DecidableEq, Repr

/-- The twin and faults (chapter 13): `twinId` is the hash of the twin's key as its pairing frame shows it, `item` and
`itemTwin` a `PAIR` that waits, `twinChecked` and `told` say that the twin has checked this package's key and this package has
told the twin the same, `shownAt` is the time of the latest pairing frame, `taken` says that the twin is LOST through a
`TAKEOVER`, and `handed` and `released` hold the twin's contexts that moved here by a handover, or whose mirror was released
here, and that it still announces. -/
structure Pair where
  state : Nat := 0
  missed : Nat := 0
  galleryUp : BitVec 32 := 0#32
  twinId : List Byte := []
  twinChecked : Bool := false
  told : Bool := false
  shownAt : BitVec 64 := 0#64
  taken : Bool := false
  item : Option ItemRef := none
  itemTwin : List Byte := []
  twinEndpoint : Option Nat := none
  twin : Option TwinHeartbeat := none
  handed : List Nat := []
  released : List Nat := []
  deriving DecidableEq, Repr

/-- Clocks, timebase and power (chapter 15): `lastRef` is the time of the latest reference (R432), `lastPps` that of the latest
edge of `TB_PPS` in its window and `counted` whether `TIME` messages have supplied the count of whole seconds (R430),
`faultBound` is the bound of the latest fault's interruption (R395), `followed` says that the exchange has its t1 and t3, `minMhz` is the lowest tile clock since the last governor tick and `recent` the power, the
tile-scaled power and that clock of the ticks of the last 1 ms, newest first. -/
structure Clock where
  timebase : BitVec 64 := 0#64
  source : Nat := 0
  locked : Bool := false
  lossStepped : Bool := false
  offset : Int := 0
  delay : Nat := 0
  t1 : BitVec 64 := 0#64
  t2 : BitVec 64 := 0#64
  t3 : BitVec 64 := 0#64
  exchange : Option Nat := none
  followed : Bool := false
  lastRef : BitVec 64 := 0#64
  lastPps : BitVec 64 := 0#64
  counted : Bool := false
  faultBound : Nat := 0
  slew : Int := 0
  limit : Nat := 3600
  powerState : Nat := 0
  ceil : Nat := 700
  minMhz : Nat := 700
  recent : List (Nat × Nat × Nat) := []
  hot : Bool := false
  warm : Bool := false
  temps : SMap (BitVec 16) := []
  tempMax : SMap (BitVec 16) := []
  hot90 : Option (BitVec 64) := none
  causeTimes : SMap Nat := []
  satTimes : SMap Nat := []
  planesUp : BitVec 2 := 3#2
  spares : SMap Nat := []
  sites : SMap Nat := []
  spareSites : SMap (List Nat) := []
  lastRotation : SMap Nat := []
  deriving DecidableEq, Repr

/-- What leaves the block: packets, gallery frames, interrupts, completions, answers and telemetry (log 2). -/
inductive Out where
  | packet (p : Packet) (lane : Nat)
  | gallery (f : GalleryFrame)
  | mirrorAck (ctx : Nat) (n : BitVec 64)
  | galleryColl (p : Packet) (r : Option SetupRecord)
  | setupRecord (p : Packet) (r : SetupRecord) (lane : Nat)
  | heartbeat (h : TwinHeartbeat)
  | pairing (pub : List Byte) (checked : Bool)
  | failureNotice
  | msix (port : Port) (vector : Nat)
  | completion (port : Port) (data : List Byte) (poisoned : Bool)
  | unsupported (port : Port)
  | frameRetry (gallery : Bool) (lane : Nat)
  | management (cause detail : Nat)
  | telemetry (cause detail : Nat) (time : BitVec 64)
  | doe (port : Port) (code : Nat) (data : List Byte)
  | bmc (data : List Byte)
  | pmbus (address mv : Nat)
  | returned (st : Status)
  | pin (name : String) (level : Bool)
  deriving DecidableEq, Repr

/-- Memory that work has met: runs of device bytes read and written, as address and length, and the blocks written with
their checks. -/
structure Touch where
  reads : List (Nat × Nat) := []
  writes : List (Nat × Nat) := []
  blocks : List Nat := []
  deriving DecidableEq, Repr

/-- What a command or agent has met in memory, kept while another may still overlap it (R223): its number in the order of
dispatch, its tile (none for the host and the porches) and engine, and the number before which it ended. -/
structure Trail where
  id : Nat
  tile : Option Nat
  eng : Engine
  touch : Touch
  ended : Option Nat := none
  deriving DecidableEq, Repr

/-- Who overlaps whom in memory (R223, R263, R285): the next number, what the work now under way has met, and the trails. -/
structure Races where
  next : Nat := 0
  now : Option Touch := none
  trails : List Trail := []
  deriving DecidableEq, Repr

/-- The state of the block. -/
structure State where
  pending : List Instr
  fresh : Nat
  out : List Out
  board : Board
  sec : Sec
  portA : PortState
  portB : PortState
  sealCount : Nat
  jobs : SMap Job
  tiles : SMap Tile
  store : Store
  fab : Fabric
  pair : Pair
  clk : Clock
  bar2 : SMap (BitVec 64)
  published : SMap (BitVec 64)
  races : Races
  journal : Journal
  deriving DecidableEq, Repr

/-- Stops of the block. The spec describes no fault entry: what fails is a status (Table 18.1), so no meaning here
faults. The one constructor is what a step would answer for a command the block cannot hold at all; nothing raises it,
which is safe. -/
inductive Fault where
  | noSuchCommand
  deriving DecidableEq, Repr

/-- Refusals. `notModelled` is raised by an arm of `exec` that has no meaning yet and is safe. -/
inductive Refusal where
  | notModelled (mnemonic : String)
  deriving DecidableEq, Repr

/-- `n` zero bytes. -/
def zeros (n : Nat) : List Byte := List.replicate n 0#8

/-- The session challenge of a port drawn at the `n`-th draw (R455): a free value. -/
def freshChal (n : Nat) : List Byte := (List.range 32).map (Config.freeByte n)

/-- The attic as manufacture leaves it (R444 Table 16.1, log 3): the secret, the firmware key hashes and the certificate are
the device's own; no owner slot is programmed, nothing is revoked, the counter is 0 and the lifecycle is MANUFACTURE. -/
def Attic.fresh : Attic :=
  { secret := (List.range 32).map Config.deviceSecret
    fwHash := (List.range 4).map (fun k => (List.range 48).map (Config.firmwareHash k))
    ownHash := List.replicate 4 (zeros 48)
    cert := Config.certificate }

/-- The state right after device reset (R473): BOOT_STATE 0 on both hearths, the timebase at 0, no session, memory with
nothing listed, every register at its reset value. The attics and flashes survive a reset; before any is written they
are as log 3 names them. -/
def State.reset : State where
  pending := []
  fresh := 2
  out := []
  board := {}
  sec := { h0 := { attic := Attic.fresh }, h1 := { attic := Attic.fresh }, mr := List.replicate 8 (zeros 48) }
  portA := { chal := freshChal 0 }
  portB := { chal := freshChal 1 }
  sealCount := 0
  jobs := []
  tiles := []
  store := {}
  fab := {}
  pair := {}
  clk := {}
  bar2 := []
  published := []
  races := {}
  journal := {}

end Sys2Proof.Machine
end

