-- ==== Sys2Proof/Machine/Ops.lean ====
section
/-! DEFINITION. Ops.lean: the named operations over the state that every meaning shares: tiles, jobs, ports and slots,
outputs and draws, counters, memory with its block checks, poison bits and pantry caches (chapter 9), and translation
(R248, R249). -/

namespace Sys2Proof.Machine

open Sys2Proof

/-! ## Status codes (R483 Table 18.1) -/

def stOK : Status := 0x0000#16
def stPartial : Status := 0x0001#16
def stSkipped : Status := 0x0002#16
def stIllegal : Status := 0x1001#16
def stEngineAbsent : Status := 0x1002#16
def stRefused : Status := 0x1003#16
def stAlignment : Status := 0x1004#16
def stLoopDepth : Status := 0x1005#16
def stDescBad : Status := 0x1006#16
def stBusy : Status := 0x1007#16
def stBreakHit : Status := 0x1010#16
def stSingular : Status := 0x2001#16
def stPerturbed : Status := 0x2002#16
def stNonfinite : Status := 0x2003#16
def stDeadlineIter : Status := 0x2004#16
def stDeadlineFactor : Status := 0x2005#16
def stStalled : Status := 0x2006#16
def stScaleRedone : Status := 0x2007#16
def stChecksum : Status := 0x3001#16
def stPoisoned : Status := 0x3002#16
def stTranslation : Status := 0x3003#16
def stTorn : Status := 0x4001#16
def stTargetDead : Status := 0x4002#16
def stFenceTimeout : Status := 0x4003#16
def stCollTimeout : Status := 0x5001#16
def stStepMismatch : Status := 0x5002#16
def stCollAbort : Status := 0x5003#16
def stAuthTag : Status := 0x6001#16
def stAuthReplay : Status := 0x6002#16
def stNotPermitted : Status := 0x6003#16
def stTileLost : Status := 0x7001#16
def stTakeover : Status := 0x7002#16
def stHearthFailover : Status := 0x7003#16
def stCkptAdvisory : Status := 0x7004#16

/-- The codes of Table 18.1: B1 returns no other (R14, R483). -/
def statusCodes : List Status :=
  [stOK, stPartial, stSkipped, stIllegal, stEngineAbsent, stRefused, stAlignment, stLoopDepth, stDescBad, stBusy, stBreakHit,
    stSingular, stPerturbed, stNonfinite, stDeadlineIter, stDeadlineFactor, stStalled, stScaleRedone, stChecksum, stPoisoned,
    stTranslation, stTorn, stTargetDead, stFenceTimeout, stCollTimeout, stStepMismatch, stCollAbort, stAuthTag, stAuthReplay,
    stNotPermitted, stTileLost, stTakeover, stHearthFailover, stCkptAdvisory]

/-- The class of a status (R14). -/
def statusClass (st : Status) : Nat := st.toNat / 0x1000

/-- A FAILED command with this status halts its sequencer (R233 Table 8.7). -/
def haltsOn (st : Status) : Bool :=
  let c := statusClass st
  c == 1 || c == 3 || c == 4 || c == 6 || c == 7

/-! ## Fields of words -/

/-- The field `[lo + len - 1 : lo]` of a word. -/
def fieldOf (v : BitVec 64) (lo len : Nat) : Nat := v.toNat / 2 ^ lo % 2 ^ len

/-- The word with a field replaced. -/
def setField (v : BitVec 64) (lo len x : Nat) : BitVec 64 :=
  BitVec.ofNat 64 (v.toNat % 2 ^ lo + (x % 2 ^ len) * 2 ^ lo + v.toNat / 2 ^ (lo + len) * 2 ^ (lo + len))

/-- A saturating addition to a field. -/
def addField (v : BitVec 64) (lo len n : Nat) : BitVec 64 :=
  setField v lo len (min (2 ^ len - 1) (fieldOf v lo len + n))

/-- A Bool as a bit. -/
def bit (b : Bool) : Nat := if b then 1 else 0

/-! ## Parts of the state -/

def State.tile (s : State) (t : Nat) : Tile := SMap.get {} s.tiles t
def State.setTile (s : State) (t : Nat) (x : Tile) : State := { s with tiles := SMap.set {} s.tiles t x }
def State.modTile (s : State) (t : Nat) (f : Tile → Tile) : State := s.setTile t (f (s.tile t))
def State.job (s : State) (j : Nat) : Job := SMap.get {} s.jobs j
def State.setJob (s : State) (j : Nat) (x : Job) : State := { s with jobs := SMap.set {} s.jobs j x }
def State.modJob (s : State) (j : Nat) (f : Job → Job) : State := s.setJob j (f (s.job j))
def State.portOf (s : State) : Port → PortState
  | .a => s.portA
  | .b => s.portB
def State.setPort (s : State) (p : Port) (x : PortState) : State :=
  match p with
  | .a => { s with portA := x }
  | .b => { s with portB := x }
def State.modPort (s : State) (p : Port) (f : PortState → PortState) : State := s.setPort p (f (s.portOf p))
def State.slot (s : State) (p : Port) (n : Nat) : Slot := SMap.get {} (s.portOf p).slots n
def State.setSlot (s : State) (p : Port) (n : Nat) (x : Slot) : State :=
  s.modPort p (fun q => { q with slots := SMap.set {} q.slots n x })
def State.modSlot (s : State) (p : Port) (n : Nat) (f : Slot → Slot) : State := s.setSlot p n (f (s.slot p n))
def State.hearth (s : State) (h : Nat) : Hearth := if h = 0 then s.sec.h0 else s.sec.h1
def State.setHearth (s : State) (h : Nat) (x : Hearth) : State :=
  if h = 0 then { s with sec := { s.sec with h0 := x } } else { s with sec := { s.sec with h1 := x } }
/-- The attic the active hearth reads (R444: both hold the same items once reconciled). -/
def State.attic (s : State) : Attic := (s.hearth s.sec.active).attic
def State.emit (s : State) (o : Out) : State := { s with out := s.out ++ [o] }
/-- The fabric lanes in the lane hash, ascending, and those of one porch (R309, R312). -/
def State.liveLanes (s : State) : List Nat := (List.range 128).filter s.fab.lanesUp.getLsbD
def State.porchLanes (s : State) (p : Nat) : List Nat := s.liveLanes.filter (fun k => k / 32 = p)
/-- The lane of a packet among some lanes: by the fixed hash of its `DST` and `SEQ` (R317); none where there is no lane. -/
def laneOf (lanes : List Nat) (p : Packet) : Option Nat :=
  lanes[Config.laneHash p.dst.toNat p.seq.toNat % lanes.length]?
/-- A packet leaves on its lane among some lanes; with no live lane it is lost, as on a failed one (R312). -/
def State.sendOn (s : State) (lanes : List Nat) (p : Packet) : State :=
  match laneOf lanes p with
  | some l => s.emit (.packet p l)
  | none => s
/-- A packet leaves through whichever porch carries its lane (R317). -/
def State.sendPacket (s : State) (p : Packet) : State := s.sendOn s.liveLanes p
def State.now (s : State) : BitVec 64 := s.clk.timebase
/-- The next free value's index (log 1). -/
def State.drawn (s : State) : State := { s with fresh := s.fresh + 1 }
/-- The next `n` indices are spent. -/
def State.draws (s : State) (n : Nat) : State := { s with fresh := s.fresh + n }
/-- A free word. -/
def State.freeWord (s : State) : BitVec 64 := Config.freeWord s.fresh
def State.withStore (s : State) (st : Store) : State := { s with store := st }

/-- The number of active tiles of the grade (R6). -/
def State.activeTiles (s : State) : Nat := if s.board.grade = 1 then 224 else 256
/-- Tiles per compute die (R4). -/
def State.tilesPerDie (s : State) : Nat := if s.board.grade = 1 then 28 else 32
/-- The compute die of a logical tile (R21). -/
def State.dieOf (s : State) (t : Nat) : Nat := t / s.tilesPerDie
/-- Sites of a compute die (R3), and those of them that are fused off and never serve: all that neither a logical tile nor
a spare can take. -/
def sitesPerDie : Nat := 36
def sparesPerDie : Nat := 4
def State.fusedSites (s : State) : Nat := sitesPerDie - s.tilesPerDie - sparesPerDie
/-- A logical tile's position on its die (R4), and the site it is mapped to (R21), held as its difference from the
position. -/
def State.position (s : State) (t : Nat) : Nat := t % s.tilesPerDie
def State.siteOf (s : State) (t : Nat) : Nat := SMap.get 0 s.clk.sites t ^^^ s.position t
/-- An engine is present (R1 Table 0.1): ids 2 and 6 are fused off on NX-8L. -/
def State.engPresent (s : State) : Engine → Bool
  | .de => decide (s.board.grade ≠ 2)
  | .se => decide (s.board.grade ≠ 2)
  | _ => true

/-- The id of an engine (Table 1.5). -/
def engId (e : Engine) : Nat := e.code

/-- The engine of an id. -/
def engOf : Nat → Option Engine
  | 0 => some .sq | 1 => some .me | 2 => some .de | 3 => some .ve | 4 => some .ru | 5 => some .dsu
  | 6 => some .se | 7 => some .ue | 8 => some .tm | _ => none

def Tile.eng (x : Tile) (e : Engine) : EngineState := SMap.get {} x.engines (engId e)
def Tile.setEng (x : Tile) (e : Engine) (v : EngineState) : Tile :=
  { x with engines := SMap.set {} x.engines (engId e) v }
/-- No engine of the tile holds a command. -/
def Tile.enginesIdle (x : Tile) : Bool := x.engines.isEmpty
/-- A sequencer register by its number of Table 8.5. -/
def Tile.sreg (x : Tile) (n : Nat) : BitVec 64 := SMap.get 0#64 x.seqRegs n

/-! ## Counters, events, interrupts -/

/-- A live BAR2 word of the counters (log 14). -/
def State.bar2Word (s : State) (off : Nat) : BitVec 64 := SMap.get 0#64 s.bar2 off
def State.setBar2 (s : State) (off : Nat) (v : BitVec 64) : State := { s with bar2 := SMap.set 0#64 s.bar2 off v }
/-- Saturating add to a field of a live BAR2 word. -/
def State.count (s : State) (off lo len n : Nat) : State := s.setBar2 off (addField (s.bar2Word off) lo len n)
def State.putField (s : State) (off lo len v : Nat) : State := s.setBar2 off (setField (s.bar2Word off) lo len v)

/-- A secure stream of a port whose address association covers an address (R463). -/
def PortState.covers (q : PortState) (a : BitVec 64) : Bool :=
  q.ide.any (fun e => e.2.secure && e.2.base.ule a && a.ule e.2.limit)

/-- An MSI-X message of a port (R282, R297, R463): sent only with Bus Master Enable set, and under the IDE lock only on
a secure stream whose association covers the message's address; a masked vector sets its pending bit, as PCIe has it. -/
def State.msix (s : State) (p : Port) (v : Nat) : State :=
  let q := s.portOf p
  if !q.busMaster || q.lost then s
  else if s.attic.ideLock && !(q.covers (SMap.get 0#64 q.msixTable (2 * v))) then s
  else if fieldOf (SMap.get 0#64 q.msixTable (2 * v + 1)) 32 1 = 0 then
    s.setPort p { q with msixPending := setField q.msixPending v 1 1 }
  else s.emit (.msix p v)

/-- A device event of `MBX_EVENT` (Table 10.16): cause, count and vector 63 of both ports (R300). -/
def State.mbxEvent (s : State) (cause : Nat) : State :=
  let w := s.bar2Word 0xA0
  let s := s.setBar2 0xA0 (setField (setField w 0 8 cause) 32 32 (fieldOf w 32 32 + 1))
  (s.msix .a 63).msix .b 63

/-- A fabric event (Table 11.13). -/
def State.fbEvent (s : State) (cause index endpt : Nat) : State :=
  let w := s.bar2Word 0x258
  let w := setField (setField (setField w 0 4 cause) 4 12 index) 16 16 endpt
  let s := s.setBar2 0x258 (addField w 32 32 1)
  s.setBar2 0x260 s.now

/-- The bound of a fault's interruption in ns (Table 13.5); none for the declared failure of the package. -/
def faultNs : Nat → Option Nat
  | 1 => some 400000
  | 2 => some 300000
  | 3 => some 300000
  | 4 => some 800000
  | 5 => some 200000
  | 6 => some 500000
  | 7 => some 1000000
  | _ => none

/-- What a larger `RTO` than the default adds to the bounds of lanes and porches (R395). -/
def State.rtoExcess (s : State) (kind : Nat) : Nat :=
  if kind = 2 || kind = 3 || kind = 4 then
    (s.jobs.map (fun j => ((j.2.binding.map Binding.rtoNs).getD 0) - 100000)).foldl max 0
  else 0

/-- The bound of the interruption of a fault that strikes now: within that of an earlier one the bounds add (R395). -/
def State.spanBound (s : State) (kind : Nat) : Nat :=
  match faultNs kind with
  | none => 2 ^ 32 - 1
  | some n =>
    let before := decide (fieldOf (s.bar2Word 0x620) 32 32 ≠ 0) && decide (s.now.toNat < (s.bar2Word 0x628).toNat + fieldOf (s.bar2Word 0x630) 0 32)
    min (2 ^ 32 - 1) (n + s.rtoExcess kind + (if before then s.clk.faultBound else 0))

/-- A fault of Table 13.5 is counted in `FAULT_LAST` with its time and interruption (Table 13.8). Below its bound the spec does
not fix the interruption: a free value (log 8). -/
def State.faultRaised (s : State) (kind unit : Nat) : State :=
  let bound := s.spanBound kind
  let w := setField (setField (s.bar2Word 0x620) 0 8 kind) 8 16 unit
  let s := { s with clk := { s.clk with faultBound := bound } }.setBar2 0x620 (addField w 32 32 1)
  let s := s.setBar2 0x628 s.now
  let s := s.putField 0x630 0 32 (s.freeWord.toNat % (bound + 1))
  s.drawn

/-- A checkpoint advisory condition becomes true (R401): its bit is set, and the event is raised at most once per cause
in 10 s. -/
def State.advise (s : State) (b : Nat) : State :=
  let s := s.putField 0x800 b 1 1
  let last := SMap.get 0 s.clk.causeTimes b
  if last ≠ 0 && s.now.toNat + 1 < last + 10000000000 then s
  else
    let s := { s with clk := { s.clk with causeTimes := SMap.set 0 s.clk.causeTimes b (s.now.toNat + 1) } }
    (s.count 0x800 32 32 1).mbxEvent 4

/-- A tile has work: from Ready the package returns to Run (R437). -/
def State.toRun (s : State) : State := if s.clk.powerState = 1 then { s with clk := { s.clk with powerState := 0 } } else s

/-! ## The address map (R245 to R247) -/

/-- Device address of a tile store. -/
def tileBase (t : Nat) : Nat := 0xC000000000 + t * 0x400000
/-- Device address of the pantry of a die. -/
def pantryBase (d : Nat) : Nat := 0x8000000000 + d * 0x14000000
/-- The mappable cellar. -/
def inCellar (pa : Nat) : Bool := decide (pa < 0x3E00000000)
def inReserve (pa : Nat) : Bool := decide (0x3E00000000 ≤ pa) && decide (pa < 0x4000000000)
def inPantry (pa : Nat) : Bool := decide (0x8000000000 ≤ pa) && decide (pa < 0x80A0000000)
def inTiles (pa : Nat) : Bool := decide (0xC000000000 ≤ pa) && decide (pa < 0xC040000000)
/-- The memory of an address for `MEM_ERRn` (R280): 0 tile stores, 1 pantry, 2 cellar. -/
def memoryOf (pa : Nat) : Nat := if inTiles pa then 0 else if inPantry pa then 1 else 2
/-- The tile whose store holds an address. -/
def tileOfPa (pa : Nat) : Nat := (pa - 0xC000000000) / 0x400000

/-! ## Blocks (R260 to R265) -/

/-- A cellar block whose content is undefined: nothing has written it since an exit from Sleep (R438). -/
def Store.isLost (st : Store) (blk : Nat) : Bool := st.lost.isSome && decide (blk < 0x4000000) && !(SMap.get false st.settled blk)

/-- A free check of a block, of a draw (log 6). -/
def freeCheck (n blk : Nat) : BitVec 64 :=
  BitVec.ofNat 64 (leNat ((List.range 8).map (fun i => Config.freeByte n (2 ^ 48 + 8 * blk + i))))

/-- An undefined block takes its content when something first meets it: free bytes, a free check, and a free poison bit
(R438: a read of it may complete with poisoned data). -/
def Store.settle (st : Store) (blk : Nat) : Store :=
  match st.lost with
  | none => st
  | some n =>
    if !st.isLost blk then st
    else
      { st with
        mem := SMap.setList 0#8 st.mem (blk * 4096) ((List.range 4096).map (fun i => Config.freeByte n (blk * 4096 + i)))
        stale := SMap.set none st.stale blk (some (freeCheck n blk))
        poison := SMap.set false st.poison blk (SMap.get false st.poison blk || (Config.freeByte n (2 ^ 50 + blk)).getLsbD 0)
        settled := SMap.set false st.settled blk true }

/-- Blocks that are written whole are undefined no more. -/
def Store.settleRange (st : Store) (blk n : Nat) : Store :=
  if st.lost.isNone then st
  else { st with settled := (List.range n).foldl (fun m i => SMap.set false m (blk + i) true) st.settled }

/-- A byte of device memory. A byte that nothing has written since the last reset reads 0 (R473). -/
def Store.rawByte (st : Store) (pa : Nat) : Byte := SMap.get 0#8 st.mem pa

/-- A byte as an access sees it: of the block's pantry cache line where the access goes through the cache. -/
def Store.byte (st : Store) (cached : Bool) (pa : Nat) : Byte :=
  if cached && (SMap.get {} st.lines (pa / 4096)).present then SMap.get 0#8 st.cacheMem pa else st.rawByte pa

/-- The listed bytes of a block. -/
def cellsIn (m : List Host.Cell) (base len : Nat) : List Host.Cell :=
  m.filter (fun c => decide (base ≤ c.1) && decide (c.1 < base + len))

/-- CRC(data) XOR block number (R261) over a block's listed bytes; a block of zeros has CRC 0. -/
def blockCheck (cells : List Host.Cell) (blk : Nat) : BitVec 64 :=
  let data := cellsIn cells (blk * 4096) 4096
  let crc := if data.isEmpty then 0 else crc64 ((List.range 4096).map (fun i => SMap.get 0#8 data (blk * 4096 + i)))
  BitVec.ofNat 64 (crc ^^^ blk)

/-- The stored check of a block in memory (R260, log 6). -/
def Store.check (st : Store) (blk : Nat) : BitVec 64 := (SMap.get none st.stale blk).getD (blockCheck st.mem blk)

/-! ### The pseudo-channels of the cellar (R255, R257) -/

/-- What the upper bits of a 256-byte unit's number add to its pseudo-channel: the hash of `U[29:8]`. -/
def unitHash (upper : Nat) : Nat := (upper % 256) ^^^ (upper / 2 ^ 8 % 256) ^^^ (upper / 2 ^ 16 % 64)
/-- The pseudo-channel of a unit, and the unit of a pseudo-channel at an index, ascending in it. -/
def channelOf (u : Nat) : Nat := (u % 256) ^^^ unitHash (u / 256)
def unitAt (p i : Nat) : Nat := i * 256 + (p ^^^ unitHash i)
/-- Where an address lies: its pseudo-channel and the address within it; and the address from the two. -/
def cellarPlace (pa : Nat) : Nat × Nat := (channelOf (pa / 256), pa / 65536 * 256 + pa % 256)
def cellarAddress (p within : Nat) : Nat := unitAt p (within / 256) * 256 + within % 256
/-- The stack of a pseudo-channel, its channel there, and its number in the channel. -/
def channelPlace (p : Nat) : Nat × Nat × Nat := (p / 64, p / 2 % 32, p % 2)

/-- Bits [7:4] of the pseudo-channels that hold a cellar block: its 16 units go to 16 that share them. -/
def blockChannels (blk : Nat) : Nat := channelOf (blk * 16) / 16

/-- The unit of the redirection reserve (Table 9.2) that holds unit `i` of a pseudo-channel mapped out: the `i`-th, ascending,
that does not hash to it. Of every 256 neighbours one does. -/
def redirected (f i : Nat) : Nat :=
  let upper := 0x3F00000000 / 65536 + i / 255
  let skip := f ^^^ unitHash upper
  upper * 256 + (if i % 255 < skip then i % 255 else i % 255 + 1)

/-- The pseudo-channels that hold a cellar block's units, one of them mapped out and redirected or none. -/
def blockTouches (mapped : Option Nat) (blk p : Nat) : Bool :=
  (List.range 16).any (fun k =>
    let u := blk * 16 + k
    match mapped with
    | some f => if channelOf u = f then channelOf (redirected f (u / 256)) = p else channelOf u = p
    | none => channelOf u = p)

/-- A cellar block that touches a pseudo-channel which is not redirected stays poisoned (R257). -/
def Store.stuck (st : Store) (blk : Nat) : Bool :=
  decide (blk < 0x4000000) && st.later.any (fun p => blockTouches st.mapped blk p)

/-- A block becomes poisoned, in memory and in its line. -/
def Store.poisonBlock (st : Store) (blk : Nat) : Store :=
  let l := SMap.get {} st.lines blk
  { st with
    poison := SMap.set false st.poison blk true
    lines := if l.present then SMap.set {} st.lines blk { l with poison := true } else st.lines }

/-- Saturating count in `MEM_ERRn` (Table 9.15). -/
def Store.memCount (st : Store) (n lo len : Nat) : Store :=
  { st with memErr := SMap.set 0#64 st.memErr n (addField (SMap.get 0#64 st.memErr n) lo len 1) }

/-- Reading a block for verification (R264): the status it fails with, if any, and the store after. A mismatch of a clean
line is read again from the cellar. -/
def Store.verify (st : Store) (cached : Bool) (blk : Nat) : Option Status × Store :=
  let st := st.settle blk
  let l := SMap.get {} st.lines blk
  let fromMem (st : Store) : Option Status × Store :=
    if SMap.get false st.poison blk then (some stPoisoned, st)
    else
      match SMap.get none st.stale blk with
      | none => (none, st)
      | some c =>
        if blockCheck st.mem blk = c then (none, st)
        else (some stChecksum, (st.poisonBlock blk).memCount (memoryOf (blk * 4096)) 48 16)
  if cached && l.present then
    if l.poison then (some stPoisoned, st)
    else
      match l.stale with
      | none => (none, st)
      | some c =>
        if blockCheck st.cacheMem blk = c then (none, st)
        else if l.dirty then (some stChecksum, (st.poisonBlock blk).memCount 2 48 16)
        else
          fromMem { st with
            lines := SMap.set {} st.lines blk {}
            cacheMem := SMap.clearRange st.cacheMem (blk * 4096) 4096 }
  else fromMem st

/-- The poison bit alone, for accesses that verify no check (R213, R219, R259). -/
def Store.poisonedAt (st : Store) (cached : Bool) (blk : Nat) : Bool :=
  let st := st.settle blk
  let l := SMap.get {} st.lines blk
  if cached && l.present then l.poison else SMap.get false st.poison blk

/-! ### The snapshot guard and write tracking (R385, R413) -/

/-- Guard slots in use. -/
def Store.guardUsed (st : Store) : Nat := (st.captures.map (fun c => c.saved.length)).foldl (· + ·) 0

/-- The saved copy of a 64 KiB block, as accesses through the caches see it. -/
def Store.copyOf (st : Store) (b : Nat) : SavedBlock :=
  let blks := (List.range 16).map (fun i => b * 16 + i)
  let cellsOf (blk : Nat) : List Host.Cell :=
    if (SMap.get {} st.lines blk).present then cellsIn st.cacheMem (blk * 4096) 4096
    else cellsIn st.mem (blk * 4096) 4096
  { block := b
    bytes := blks.flatMap cellsOf
    stale := blks.map (fun k => (k, let l := SMap.get {} st.lines k
      if l.present then l.stale else SMap.get none st.stale k))
    poison := blks.filter (fun k => st.poisonedAt true k) }

/-- Before a write to a 64 KiB block, the guard saves it for every capture in which it is pending and unsaved; with no
free slot the write must wait (R413, R414). A block lost in Sleep takes its content first. -/
def Store.guard (st : Store) (b : Nat) : Store :=
  let needs (c : Capture) : Bool :=
    (c.cut.contains b || c.delta.contains b) && !(c.saved.any (fun x => x.block = b))
  if st.captures.any needs then
    let n := (st.captures.filter needs).length
    if 65536 < st.guardUsed + n then { st with guardFull := true }
    else
      let st := (List.range 16).foldl (fun st i => st.settle (b * 16 + i)) st
      let x := st.copyOf b
      { st with
        captures := st.captures.map (fun c => if needs c then { c with saved := c.saved ++ [x] } else c)
        guardSaves := st.guardSaves + n }
  else st

/-- A write to a frame of a source region sets the dirty bit of its 64 KiB block (R385). -/
def Store.track (st : Store) (b : Nat) : Store :=
  { st with tracks := st.tracks.map (fun t =>
      if t.frames.contains (b / 32) && !(t.dirty.contains b) then { t with dirty := t.dirty ++ [b] } else t) }

/-- Blocks whose check may disagree with their data: a free check each, in memory and in the line. -/
def Store.doubt (st : Store) (n : Nat) (blks : List Nat) : Store :=
  blks.foldl (fun st blk =>
    let l := SMap.get {} st.lines blk
    { st with
      stale := SMap.set none st.stale blk (some (freeCheck n blk))
      lines := if l.present then SMap.set {} st.lines blk { l with stale := some (freeCheck n blk) } else st.lines }) st

/-- A check that is not the one of the data; which one it is, is free (R263). -/
def wrongCheck (n blk : Nat) (right : BitVec 64) : BitVec 64 :=
  if freeCheck n blk = right then ~~~right else freeCheck n blk

/-- Blocks that two commands wrote at once: the last check written disagrees with the data, in memory and in the line, so that
the next reader fails with `CHECKSUM` (R263). -/
def Store.disagree (st : Store) (n : Nat) (blks : List Nat) : Store :=
  blks.foldl (fun st blk =>
    let l := SMap.get {} st.lines blk
    { st with
      stale := SMap.set none st.stale blk (some (wrongCheck n blk (blockCheck st.mem blk)))
      lines := if l.present then
          SMap.set {} st.lines blk { l with stale := some (wrongCheck n blk (blockCheck st.cacheMem blk)) }
        else st.lines }) st

/-- Bytes that are undefined from here on (R223): free values, in memory and in the line, and free checks. -/
def Store.spoil (st : Store) (n : Nat) (rs : List (Nat × Nat)) : Store :=
  rs.foldl (fun st r =>
    let st := (List.range r.2).foldl (fun st i =>
      let pa := r.1 + i
      { st with
        mem := SMap.set 0#8 st.mem pa (Config.freeByte n pa)
        cacheMem := if (SMap.get {} st.lines (pa / 4096)).present then SMap.set 0#8 st.cacheMem pa (Config.freeByte n pa)
          else st.cacheMem }) st
    st.doubt n ((List.range ((r.1 + r.2 - 1) / 4096 + 1 - r.1 / 4096)).map (fun i => r.1 / 4096 + i))) st

/-- What every write to a block does first. -/
def Store.beforeWrite (st : Store) (blk : Nat) : Store := (st.guard (blk / 16)).track (blk / 16)

/-! ### Writing -/

/-- A line allocated for a write: the block's cellar bytes, check and poison bit come with it (R252). -/
def Store.allocLine (st : Store) (blk : Nat) : Store :=
  let st := st.settle blk
  if (SMap.get {} st.lines blk).present then st
  else
    { st with
      lines := SMap.set {} st.lines blk
        { present := true, dirty := false, poison := SMap.get false st.poison blk, stale := SMap.get none st.stale blk }
      cacheMem := (cellsIn st.mem (blk * 4096) 4096).foldl (fun m c => SMap.set 0#8 m c.1 c.2) st.cacheMem }

/-- Bytes stored in a block, with its new check: the line's where the access goes through the cache. -/
def Store.putBytes (st : Store) (cached checked : Bool) (blk : Nat) (ws : List (Nat × Byte)) (clear : Bool) : Store :=
  let st := (st.settle blk).beforeWrite blk
  if cached then
    let st := st.allocLine blk
    let l := SMap.get {} st.lines blk
    let stale := if checked then none else some (l.stale.getD (blockCheck st.cacheMem blk))
    { st with
      cacheMem := ws.foldl (fun m w => SMap.set 0#8 m w.1 w.2) st.cacheMem
      lines := SMap.set {} st.lines blk
        { present := true, dirty := true, poison := l.poison && !clear, stale := stale } }
  else
    let stale := if checked then none else some (st.check blk)
    { st with
      mem := ws.foldl (fun m w => SMap.set 0#8 m w.1 w.2) st.mem
      stale := SMap.set none st.stale blk stale
      poison := if clear && !st.stuck blk then SMap.set false st.poison blk false else st.poison }

/-- The addresses written cover the whole block. -/
def coversBlock (blk : Nat) (ws : List (Nat × Byte)) : Bool :=
  decide (4096 ≤ ws.length) &&
    decide (ws.foldl (fun m w => if w.1 / 4096 = blk then m ||| (1 <<< (w.1 % 4096)) else m) 0 = 2 ^ 4096 - 1)

/-- A checked write of some bytes of one block (R262, R265): a partial write verifies the block first. -/
def Store.writeChecked (st : Store) (cached : Bool) (blk : Nat) (ws : List (Nat × Byte)) : Option Status × Store :=
  if coversBlock blk ws then (none, st.putBytes cached true blk ws true)
  else
    match st.verify cached blk with
    | (some e, st) => (some e, st)
    | (none, st) => (none, st.putBytes cached true blk ws false)

/-- A write that makes no check (R213, R219): a partial write into a poisoned block fails (R265). -/
def Store.writeUnchecked (st : Store) (cached : Bool) (blk : Nat) (ws : List (Nat × Byte)) : Option Status × Store :=
  if st.poisonedAt cached blk && !coversBlock blk ws then (some stPoisoned, st)
  else (none, st.putBytes cached false blk ws false)

/-- Zeros with valid checks and clear poison bits (R249, R254, R473). -/
def Store.zeroFill (st : Store) (base len : Nat) : Store :=
  let b64 := (List.range ((len + 65535) / 65536)).map (fun i => base / 65536 + i)
  let st := if st.captures.isEmpty && st.tracks.isEmpty then st else b64.foldl (fun st b => (st.guard b).track b) st
  let st := st.settleRange (base / 4096) (len / 4096)
  { st with
    mem := SMap.clearRange st.mem base len
    stale := SMap.clearRange st.stale (base / 4096) (len / 4096)
    poison := st.poison.filter (fun e =>
      decide (e.1 < base / 4096) || decide (base / 4096 + len / 4096 ≤ e.1) || st.stuck e.1)
    lines := SMap.clearRange st.lines (base / 4096) (len / 4096)
    cacheMem := SMap.clearRange st.cacheMem base len }

/-- Writing a dirty line back to the cellar (R252, R254, R277); the line is kept clean, or invalidated. -/
def Store.cleanLine (st : Store) (invalidate : Bool) (blk : Nat) : Store :=
  let l := SMap.get {} st.lines blk
  if !l.present then st
  else
    let st := if l.dirty then
        { st with
          mem := (cellsIn st.cacheMem (blk * 4096) 4096).foldl (fun m c => SMap.set 0#8 m c.1 c.2)
            (SMap.clearRange st.mem (blk * 4096) 4096)
          stale := SMap.set none st.stale blk l.stale
          poison := SMap.set false st.poison blk (l.poison || st.stuck blk) }
      else st
    if invalidate then
      { st with
        lines := SMap.set {} st.lines blk {}
        cacheMem := SMap.clearRange st.cacheMem (blk * 4096) 4096 }
    else { st with lines := SMap.set {} st.lines blk { l with dirty := false } }

/-! ## Translation (R248 to R250) -/

/-- What an access of a job's virtual space meets. -/
inductive Xlate where
  | ok (pa : Nat) (cached : Bool)
  | defer
  | fault
  | lost
  deriving DecidableEq, Repr

/-- A pantry region register's fields (Table 9.4). -/
def panField (r : PanReg) (lo len : Nat) : Nat := r.toNat / 2 ^ lo % 2 ^ len

/-- The dies that hold a cache region of a job, ascending (R252). -/
def Store.cacheDies (st : Store) (j : Nat) : List Nat :=
  (List.range 8).filter (fun d => (List.range 16).any (fun n =>
    let r := SMap.get 0#24 st.panRegs (16 * d + n)
    panField r 19 1 = 1 && panField r 16 1 = 1 && panField r 20 4 = j))

/-- The home die of a block (R252): the PA[19:12] XOR PA[27:20] of the die list. -/
def Store.homeDie (st : Store) (j pa : Nat) : Option Nat :=
  let ds := st.cacheDies j
  if ds.isEmpty then none
  else ds[((pa / 4096 % 256) ^^^ (pa / 2 ^ 20 % 256)) % ds.length]?

/-- Translation of one virtual address of a job (R248, R249, R252; R24 for the store of a lost tile). -/
def State.translate (s : State) (j va : Nat) (write : Bool) : Xlate :=
  let va := va % 2 ^ 48
  let e := SMap.get {} (s.job j).pages (va / 0x200000)
  if !e.mapped then if e.defer then .defer else .fault
  else if (write && !e.w) || (!write && !e.r) then .fault
  else
    let pa := e.frame * 0x200000 + va % 0x200000
    if inTiles pa && !(s.tile (tileOfPa pa)).avail then .lost
    else .ok pa (e.cache && !(s.store.cacheDies j).isEmpty)

/-- Distinct values in the order of their first place. -/
def dedup (xs : List Nat) : List Nat := (xs.foldl (fun acc x => if acc.contains x then acc else x :: acc) []).reverse

/-! ### What work meets in memory (R223, log 54) -/

/-- Addresses as runs of neighbours: address and length. -/
def spansOf (xs : List Nat) : List (Nat × Nat) :=
  (xs.foldl (fun (acc : List (Nat × Nat)) x =>
    match acc with
    | (b, n) :: rest => if x = b + n then (b, n + 1) :: rest else if b ≤ x && decide (x < b + n) then acc else (x, 1) :: acc
    | [] => [(x, 1)]) []).reverse

/-- Work under watch has read bytes. -/
def State.sawRead (s : State) (pas : List Nat) : State :=
  match s.races.now with
  | none => s
  | some t => { s with races := { s.races with now := some { t with reads := t.reads ++ spansOf pas } } }

/-- Work under watch has written bytes of a block. -/
def State.sawWrite (s : State) (checked : Bool) (blk : Nat) (pas : List Nat) : State :=
  match s.races.now with
  | none => s
  | some t => { s with races := { s.races with now := some { t with
      writes := t.writes ++ spansOf pas, blocks := if checked then t.blocks ++ [blk] else t.blocks } } }

/-- What a run of accesses comes to: a value, a page fault Skeka may resolve, or a failure with its status and address. -/
inductive Access (α : Type) where
  | ok (a : α) (s : State)
  | fault (va : Nat) (write : Bool) (s : State)
  | fail (st : Status) (addr : Nat) (s : State)

def Access.bind {α β : Type} (x : Access α) (f : α → State → Access β) : Access β :=
  match x with
  | .ok a s => f a s
  | .fault va w s => .fault va w s
  | .fail st a s => .fail st a s

/-- Probing every page of a list of addresses, in order (R185). -/
def State.probe (s : State) (j : Nat) (write : Bool) : List Nat → Access Unit
  | [] => .ok () s
  | va :: vas =>
    match s.translate j va write with
    | .ok _ _ => State.probe s j write vas
    | .defer => .fault va write s
    | .fault => .fail stTranslation va s
    | .lost => .fail stTileLost va s

/-- The first address of each page, in order, of a list of addresses. -/
def pagesOf (vas : List Nat) : List Nat :=
  (vas.foldl (fun (acc : List Nat) va =>
    if acc.any (fun x => x / 0x200000 = va / 0x200000) then acc else va :: acc) []).reverse

/-- The blocks of a list of translated addresses: one entry per block, with whether the access is cached. -/
def blocksOf (xs : List (Nat × Bool)) : List (Nat × Bool) :=
  (xs.foldl (fun (acc : List (Nat × Bool)) x =>
    if acc.any (fun y => y.1 = x.1 / 4096) then acc else (x.1 / 4096, x.2) :: acc) []).reverse

/-- Newly poisoned blocks are reported in telemetry with their address (R265). -/
def State.takeStore (s : State) (st : Store) : State :=
  let new := st.poison.filter (fun e => !(SMap.get false s.store.poison e.1))
  let now := s.now
  new.foldl (fun s e => s.emit (.telemetry 5 (e.1 * 4096) now)) { s with store := st }

/-- Verifying blocks in order: the first that fails ends it with its block address (R264). -/
def State.verifyBlocks (s : State) (checked : Bool) : List (Nat × Bool) → Access Unit
  | [] => .ok () s
  | (blk, cached) :: bs =>
    if checked then
      match s.store.verify cached blk with
      | (some e, st) => .fail e (blk * 4096) (s.takeStore st)
      | (none, st) => State.verifyBlocks (s.withStore st) checked bs
    else if s.store.poisonedAt cached blk then .fail stPoisoned (blk * 4096) s
    else State.verifyBlocks (s.withStore (s.store.settle blk)) checked bs

/-- Physical places of virtual addresses that have been probed. -/
def State.places (s : State) (j : Nat) (write : Bool) (vas : List Nat) : List (Nat × Bool) :=
  vas.map (fun va =>
    match s.translate j va write with
    | .ok pa c => (pa, c)
    | _ => (0, false))

/-- Reading bytes of a job's virtual space: probe, verify each block once, then the bytes (R264). -/
def State.readVirt (s : State) (j : Nat) (checked : Bool) (vas : List Nat) : Access (List Byte) :=
  (s.probe j false (pagesOf vas)).bind fun _ s =>
    let ps := s.places j false vas
    (s.verifyBlocks checked (blocksOf ps)).bind fun _ s =>
      .ok (ps.map (fun p => s.store.byte p.2 p.1)) (s.sawRead (ps.map Prod.fst))

/-- Writing blocks in order; a block that fails stays, the ones before it are written (R141, R262). -/
def State.writeBlocks (s : State) (checked : Bool) (ws : List (Nat × Byte)) : List (Nat × Bool) → Access Unit
  | [] => .ok () s
  | (blk, cached) :: bs =>
    let mine := ws.filter (fun w => decide (w.1 / 4096 = blk))
    match (if checked then s.store.writeChecked cached blk mine else s.store.writeUnchecked cached blk mine) with
    | (some e, st) => .fail e (blk * 4096) (s.takeStore st)
    | (none, st) => State.writeBlocks ((s.withStore st).sawWrite checked blk (mine.map Prod.fst)) checked ws bs

/-- Writing bytes of a job's virtual space. -/
def State.writeVirt (s : State) (j : Nat) (checked : Bool) (ws : List (Nat × Byte)) : Access Unit :=
  let vas := ws.map Prod.fst
  (s.probe j true (pagesOf vas)).bind fun _ s =>
    let ps := s.places j true vas
    s.writeBlocks checked (ps.zip ws |>.map (fun x => (x.1.1, x.2.2))) (blocksOf ps)

/-- A run of addresses, modulo the 48-bit space. -/
def vaRange (va n : Nat) : List Nat := (List.range n).map (fun i => (va + i) % 2 ^ 48)

/-- Reading a contiguous field of a job's memory. -/
def State.readField (s : State) (j va n : Nat) : Access (List Byte) := s.readVirt j true (vaRange va n)

/-- Writing a contiguous field of a job's memory with its checks. -/
def State.writeField (s : State) (j va : Nat) (bs : List Byte) : Access Unit :=
  s.writeVirt j true ((vaRange va bs.length).zip bs)

/-- A device-physical read that Skeka makes for itself (image, journal): no translation, checks verified. -/
def State.readPhys (s : State) (pa n : Nat) : Option Status × List Byte × State :=
  let ps := (List.range n).map (fun i => (pa + i, false))
  match s.verifyBlocks true (blocksOf ps) with
  | .ok _ s => (none, ps.map (fun p => s.store.byte false p.1), s)
  | .fault _ _ s => (some stTranslation, [], s)
  | .fail e _ s => (some e, [], s)

/-- A device-physical checked write (R262). -/
def State.writePhys (s : State) (pa : Nat) (bs : List Byte) : Option Status × State :=
  let ws := (List.range bs.length).zip bs |>.map (fun x => (pa + x.1, x.2))
  match s.writeBlocks true ws (blocksOf (ws.map (fun w => (w.1, false)))) with
  | .ok _ s => (none, s)
  | .fault _ _ s => (some stTranslation, s)
  | .fail e _ s => (some e, s)

/-- A block as it stands. -/
def Store.imageOf (st : Store) (blk : Nat) : BlockImage :=
  { blk := blk, cells := cellsIn st.mem (blk * 4096) 4096, stale := SMap.get none st.stale blk
    poison := SMap.get false st.poison blk, line := SMap.get {} st.lines blk
    lineCells := cellsIn st.cacheMem (blk * 4096) 4096 }

/-- A block put back as it was. -/
def Store.restore (st : Store) (x : BlockImage) : Store :=
  let put (m : List Host.Cell) (cs : List Host.Cell) : List Host.Cell :=
    cs.foldl (fun m c => SMap.set 0#8 m c.1 c.2) (SMap.clearRange m (x.blk * 4096) 4096)
  { st with
    mem := put st.mem x.cells
    stale := SMap.set none st.stale x.blk x.stale
    poison := SMap.set false st.poison x.blk x.poison
    lines := SMap.set {} st.lines x.blk x.line
    cacheMem := put st.cacheMem x.lineCells }

/-- A block's bytes at some addresses put back as they were. Where that makes the block what it was, so do its check, its poison
bit and its line; otherwise its check is in doubt. -/
def Store.unwrite (st : Store) (n : Nat) (x : BlockImage) (pas : List Nat) : Store :=
  let lineWas (pa : Nat) : Byte := SMap.get 0#8 (if x.line.present then x.lineCells else x.cells) pa
  let present := (SMap.get {} st.lines x.blk).present
  let memWas (pa : Nat) : Byte := if present then SMap.get 0#8 x.cells pa else lineWas pa
  let st := (st.guard (x.blk / 16)).track (x.blk / 16)
  let st := { st with
    mem := pas.foldl (fun m pa => SMap.set 0#8 m pa (memWas pa)) st.mem
    cacheMem := if present then pas.foldl (fun m pa => SMap.set 0#8 m pa (lineWas pa)) st.cacheMem else st.cacheMem }
  let whole := cellsIn st.mem (x.blk * 4096) 4096 == x.cells
    && (!present || cellsIn st.cacheMem (x.blk * 4096) 4096 == (if x.line.present then x.lineCells else x.cells))
  if whole then st.restore x else st.doubt n [x.blk]

/-- A byte of a tile's store, as its sequencer fetches it. -/
def State.storeByte (s : State) (t off : Nat) : Byte := s.store.byte false (tileBase t + off)

/-- The canonical form of memory: rising addresses, no listed zero. -/
def Store.wf (st : Store) : Bool := SMap.wf 0#8 st.mem && SMap.wf 0#8 st.cacheMem

/-- Skeka's resolution of a fault (R249): the page is DEFER and the pool holds a frame; a frame is zero-filled and
mapped. The spec says only that Skeka takes a frame; the model takes the first of the pool (log 16). -/
def State.resolveFault (s : State) (j va : Nat) : Option State :=
  let jb := s.job j
  let page := va % 2 ^ 48 / 0x200000
  let e := SMap.get {} jb.pages page
  if e.mapped || !e.defer then none
  else
    match jb.pool with
    | [] => none
    | f :: rest =>
      let s := s.withStore (s.store.zeroFill (f * 0x200000) 0x200000)
      some (s.setJob j { jb with
        pool := rest
        poolUsed := jb.poolUsed ++ [f]
        pages := SMap.set {} jb.pages page { e with mapped := true, frame := f } })

end Sys2Proof.Machine
end

