-- ==== Sys2Proof/Machine/Registers.lean ====
section
/-! DEFINITION. Registers.lean: the register page of a tile (R238, R241, R491, Table 18.3 and the tables of the engine
chapters) with its access codes (R9 to R13), and the BAR2 pages as Skeka computes them (R486 Table 18.2). -/

namespace Sys2Proof.Machine

open Sys2Proof

/-- Access codes of Table 0.4; a static field carries its mark. -/
inductive AccessCode where
  | rw
  | ro
  | w1c
  | rws
  | rwc
  | rwcStatic
  deriving DecidableEq, Repr

/-- A field of a register: lowest bit, width, access, reset value. -/
structure RegField where
  lo : Nat
  len : Nat
  acc : AccessCode
  reset : Nat
  deriving DecidableEq, Repr

/-- A register of an engine's block. -/
structure RegSpec where
  eng : Engine
  off : Nat
  fields : List RegField
  deriving DecidableEq, Repr

def roField (lo len : Nat) : RegField := ⟨lo, len, .ro, 0⟩
def allEngines : List Engine := [.sq, .me, .de, .ve, .ru, .dsu, .se, .ue, .tm]

/-- Every register of a tile's page (Table 18.3) but for the alias registers of R491. -/
def regSpecs : List RegSpec :=
  allEngines.map (fun e => ⟨e, 0x00, [⟨0, 4, .w1c, 0⟩, roField 8 4]⟩) ++
  [Engine.me, .de, .ru].map (fun e => ⟨e, 0x08, [roField 0 48, roField 48 16]⟩) ++
  allEngines.map (fun e => ⟨e, 0xF8, [⟨0, 32, .rw, 0⟩]⟩) ++
  [⟨.sq, 0x10, [roField 0 48]⟩, ⟨.sq, 0x18, [roField 0 2, roField 2 3]⟩, ⟨.sq, 0x20, [roField 0 16, roField 16 22]⟩,
   ⟨.sq, 0x28, [roField 0 48, roField 48 16]⟩, ⟨.sq, 0x30, [roField 0 64]⟩,
   ⟨.sq, 0x80, [⟨0, 48, .rws, 0xFFFFFFFFFFFF⟩]⟩, ⟨.sq, 0x88, [⟨0, 16, .rws, 0⟩, ⟨16, 16, .rws, 0⟩, ⟨32, 1, .rws, 0⟩]⟩,
   ⟨.sq, 0x90, [⟨0, 22, .rwcStatic, 0⟩]⟩, ⟨.sq, 0x98, [⟨0, 22, .rwcStatic, 0⟩]⟩, ⟨.sq, 0xA0, [⟨0, 13, .rwcStatic, 0⟩]⟩,
   ⟨.sq, 0xB0, [⟨0, 8, .rw, 0⟩]⟩] ++
  [⟨.me, 0x10, [roField 0 48]⟩, ⟨.me, 0x18, [roField 0 48]⟩, ⟨.me, 0x20, [roField 0 48]⟩,
   ⟨.me, 0x28, [roField 0 5, roField 16 48]⟩, ⟨.me, 0x30, [roField 0 4, roField 4 2, roField 32 32]⟩] ++
  [⟨.de, 0x10, [roField 0 48]⟩, ⟨.de, 0x18, [roField 0 4, roField 4 2, roField 32 32]⟩,
   ⟨.dsu, 0x10, [roField 0 48]⟩,
   ⟨.se, 0x10, [roField 0 16, roField 16 2, roField 18 1, roField 32 16]⟩, ⟨.se, 0x18, [roField 0 48, roField 48 16]⟩] ++
  [⟨.ve, 0x10, [roField 0 48]⟩, ⟨.ve, 0x18, [roField 0 48]⟩, ⟨.ve, 0x20, [roField 0 48]⟩, ⟨.ve, 0x28, [roField 0 48]⟩,
   ⟨.ru, 0x10, [roField 0 48]⟩, ⟨.ru, 0x18, [roField 0 48]⟩,
   ⟨.ue, 0x10, [roField 0 48]⟩, ⟨.ue, 0x18, [roField 0 64]⟩, ⟨.ue, 0x20, [roField 0 48]⟩] ++
  [⟨.tm, 0x10, [roField 0 48]⟩, ⟨.tm, 0x18, [roField 0 48]⟩, ⟨.tm, 0x20, [roField 0 32, roField 32 16]⟩,
   ⟨.tm, 0x28, [roField 0 48]⟩, ⟨.tm, 0x80, [⟨0, 22, .rwc, 0⟩]⟩, ⟨.tm, 0x88, [⟨0, 22, .rwc, 0⟩]⟩]

/-- The register at an offset. -/
def regAt (e : Engine) (off : Nat) : Option RegSpec := regSpecs.find? (fun r => r.eng = e && r.off = off)

def AccessCode.isShadow (a : AccessCode) : Bool := a == .rws
def AccessCode.isCommitted (a : AccessCode) : Bool := a == .rwc || a == .rwcStatic

/-- The register an alias offset shows (R491): its offset plus 0x40, where that register has an RWS or RWC field. -/
def aliasOf (e : Engine) (off : Nat) : Option RegSpec :=
  if 0x40 ≤ off && off < 0x80 then
    (regAt e (off + 0x40)).filter (fun r => r.fields.any (fun f => f.acc.isShadow || f.acc.isCommitted))
  else none

/-- An offset names a register of the engine's block (R238). -/
def regNamed (e : Engine) (off : Nat) : Bool :=
  decide (off % 8 = 0) && ((regAt e off).isSome || (aliasOf e off).isSome)

/-- The reset value of a register. -/
def RegSpec.reset (r : RegSpec) : BitVec 64 := r.fields.foldl (fun v f => setField v f.lo f.len f.reset) 0#64
def resetOf (e : Engine) (off : Nat) : BitVec 64 := ((regAt e off).map RegSpec.reset).getD 0#64

/-- The bits of the fields of some access codes. -/
def RegSpec.mask (r : RegSpec) (p : AccessCode → Bool) : BitVec 64 :=
  r.fields.foldl (fun v f => if p f.acc then setField v f.lo f.len (2 ^ f.len - 1) else v) 0#64

def regKey (e : Engine) (off : Nat) : Nat := engId e * 256 + off

/-- The stored value of a register, held as its difference from the reset value so that a reset page is empty. -/
def Tile.reg (x : Tile) (e : Engine) (off : Nat) : BitVec 64 := SMap.get 0#64 x.regs (regKey e off) ^^^ resetOf e off
def Tile.setReg (x : Tile) (e : Engine) (off : Nat) (v : BitVec 64) : Tile :=
  { x with regs := SMap.set 0#64 x.regs (regKey e off) (v ^^^ resetOf e off) }
/-- Saturating add to a counter field. -/
def Tile.countReg (x : Tile) (e : Engine) (off lo len n : Nat) : Tile := x.setReg e off (addField (x.reg e off) lo len n)

/-- An engine holds a command; the sequencer counts as busy while its stream runs and is not halted (R241). -/
def Tile.busy (x : Tile) (e : Engine) : Bool :=
  match e with
  | .sq => x.mode == .running
  | e => (x.eng e).running.isSome || (x.eng e).pending.isSome

/-- For its static fields the stream counts as running from its start until it ends, a halt by BREAK_HIT included
(R241). -/
def Tile.staticBusy (x : Tile) (e : Engine) : Bool :=
  match e with
  | .sq => x.started && !x.ended
  | e => x.busy e

/-- Width of a sequencer register (R215 Table 8.5); none where the number is not listed or not storage. -/
def seqWidth (n : Nat) : Option Nat :=
  if n ≤ 0x2F then some 64
  else if n ≤ 0x6F then some 64
  else if n ≤ 0x73 then some 32
  else if n ≤ 0x7B then some 1
  else if 0x80 ≤ n && n ≤ 0x8F then some 4
  else if 0x91 ≤ n && n ≤ 0x9F then some 64
  else none

/-- A number that a command may write. -/
def seqWritable (n : Nat) : Bool := (seqWidth n).isSome
/-- A number that a command may read. -/
def seqReadable (n : Nat) : Bool := (seqWidth n).isSome || (decide (0xA0 ≤ n) && decide (n ≤ 0xA4))

/-- The value of a sequencer register (R215, R216): `TIME`, `STEP`, `RETIRED`, `TILE` and `JOB` show other state. -/
def State.readSeq (s : State) (t n : Nat) : BitVec 64 :=
  let x := s.tile t
  if n = 0xA0 then s.now
  else if n = 0xA1 then (match x.owner with | some j => (s.job j).step | none => 0#64)
  else if n = 0xA2 then setField 0#64 0 48 (fieldOf (x.reg .sq 0x10) 0 48)
  else if n = 0xA3 then BitVec.ofNat 64 t
  else if n = 0xA4 then BitVec.ofNat 64 (x.owner.getD 0)
  else if (seqWidth n).isSome then x.sreg n
  else 0#64

/-- A write of a sequencer register takes the low bits (R216). -/
def Tile.writeSeq (x : Tile) (n : Nat) (v : BitVec 64) : Tile :=
  match seqWidth n with
  | some k => { x with seqRegs := SMap.set 0#64 x.seqRegs n (BitVec.ofNat 64 (v.toNat % 2 ^ k)) }
  | none => x

/-- The state field of `SQ_STATE` (Table 8.9). -/
def Tile.seqStateCode (x : Tile) : Nat :=
  match x.mode with
  | .idle => 0
  | .halted => 2
  | .running => match x.wait with
    | .none => 1
    | .dispatch => 1
    | _ => 3

/-- `SE_STAT` (Table 6.15). While a solver command runs, the phase and the iterations it has come to are open: free values
(log 8). -/
def State.solverStat (s : State) (x : Tile) : BitVec 64 :=
  let v := setField (x.reg .se 0x10) 18 1 (bit (!x.solver.isEmpty))
  if (x.eng .se).running.isNone then v
  else setField (setField v 16 2 s.freeWord.toNat) 32 16 (s.freeWord.toNat / 4)

/-- Reading a register of a tile's page (R10, R11, R241, R242, R491). -/
def State.readReg (s : State) (t : Nat) (e : Engine) (off : Nat) : BitVec 64 :=
  let x := s.tile t
  match aliasOf e off with
  | some r =>
    let base := x.reg e (off + 0x40)
    let key := regKey e (off + 0x40)
    let sh := (SMap.get none x.shadow key).getD base
    let sg := (SMap.get none x.staged key).getD base
    (sh &&& r.mask AccessCode.isShadow) ||| (sg &&& r.mask AccessCode.isCommitted)
  | none =>
    if e = .sq && off = 0x00 then 0#64
    else if e = .sq && off = 0x18 then setField (BitVec.ofNat 64 x.seqStateCode) 2 3 x.loops.length
    else if e = .sq && off = 0x30 then s.readSeq t (fieldOf (x.reg .sq 0xB0) 0 8)
    else if e = .me && off = 0x28 then setField (x.reg .me 0x28) 0 5 x.ftq.length
    else if e = .se && off = 0x10 then s.solverStat x
    else x.reg e off

/-- A value staged for a register whose fields are all RWC (R11). -/
def Tile.stageReg (x : Tile) (e : Engine) (off : Nat) (v : BitVec 64) : Tile :=
  { x with staged := SMap.set none x.staged (regKey e off) (some v) }

/-- A write of an engine's generation register commits every staged field of its group and counts (R11, R487). -/
def Tile.commitGroup (x : Tile) (e : Engine) : Tile :=
  let keys := x.staged.filter (fun k => k.1 / 256 = engId e)
  let x := keys.foldl (fun x k =>
    match k.2 with
    | some v => x.setReg e (k.1 % 256) v
    | none => x) x
  let x := { x with staged := x.staged.filter (fun k => k.1 / 256 ≠ engId e) }
  x.setReg e 0xF8 (BitVec.ofNat 64 ((x.reg e 0xF8).toNat % 2 ^ 32 + 1) &&& 0xFFFFFFFF#64)

/-- Writing a register of a tile's page by the access codes of R9 to R13: the status and the state. A static field of a
busy engine keeps its value and the write returns `BUSY`. -/
def State.writeReg (s : State) (t : Nat) (e : Engine) (off : Nat) (v : BitVec 64) : Status × State :=
  let x := s.tile t
  if !regNamed e off then (stIllegal, s)
  else
    match regAt e off with
    | none => (stOK, s)
    | some r =>
      if r.fields.any (fun f => f.acc == .rwcStatic) && x.staticBusy e then (stBusy, s)
      else if off = 0xF8 then (stOK, s.setTile t (x.commitGroup e))
      else
        let old := x.reg e off
        let key := regKey e off
        let rw := r.mask (· == .rw)
        let w1c := r.mask (· == .w1c)
        let sh := r.mask AccessCode.isShadow
        let sg := r.mask AccessCode.isCommitted
        let now := if e = .sq && off = 0 then old else (old &&& ~~~(rw ||| (w1c &&& v))) ||| (v &&& rw)
        let x := x.setReg e off now
        let x :=
          if sh = 0#64 then x
          else if x.busy e then
            { x with shadow := SMap.set none x.shadow key (some ((now &&& ~~~sh) ||| (v &&& sh))) }
          else
            { x.setReg e off ((now &&& ~~~sh) ||| (v &&& sh)) with shadow := SMap.set none x.shadow key none }
        let x :=
          if sg = 0#64 then x
          else { x with staged := SMap.set none x.staged key (some ((now &&& ~~~sg) ||| (v &&& sg))) }
        (stOK, s.setTile t x)

/-- The command boundary of an engine (R10): pending shadow values take effect. -/
def Tile.boundary (x : Tile) (e : Engine) : Tile :=
  let mine := x.shadow.filter (fun k => k.1 / 256 = engId e)
  let x := mine.foldl (fun x k =>
    match k.2 with
    | some v => x.setReg e (k.1 % 256) v
    | none => x) x
  { x with shadow := x.shadow.filter (fun k => k.1 / 256 ≠ engId e) }

/-- Every register of the tile's page back at its reset value (R490): those that show other state of the tile
(`SQ_STATE`, `SQ_PEEK`, `ME_QSTAT.DEPTH`, `SE_STAT.RESUME`) with that state. -/
def Tile.resetPage (x : Tile) : Tile :=
  { x with regs := [], shadow := [], staged := [], seqRegs := [], loops := [], ftq := [], solver := [], mode := .idle, wait := .none
           held := none, haltPending := none }

/-! ## BAR2 (R486) -/

/-- `DEV_IDENT` (R6 Table 0.2). -/
def State.devIdent (s : State) : BitVec 64 :=
  let w := setField (0x21#64) 8 2 s.board.grade
  setField (setField w 16 16 (if s.board.grade = 2 then 0x1BB else 0x1FF)) 32 9 s.activeTiles

/-- `TILE_AVAILn` (R25 Table 1.3). -/
def State.tileAvail (s : State) (n : Nat) : BitVec 64 :=
  BitVec.ofNat 64 ((List.range 64).foldl (fun v k => v + bit (s.tile (64 * n + k)).avail * 2 ^ k) 0)

/-- `PKG_STATUS` (Table 1.4). -/
def State.pkgStatus (s : State) : BitVec 64 :=
  let w := (List.range 8).foldl (fun v d => setField v (4 * d) 4 (SMap.get 0 s.clk.spares d)) 0#64
  setField w 32 2 s.clk.planesUp.toNat

/-- `HEARTH_STATUS` (Table 10.15). -/
def State.hearthStatus (s : State) : BitVec 64 :=
  let w := setField (0#64) 0 1 s.sec.active
  let w := setField w 1 1 (bit s.sec.standbyOk)
  let w := setField (setField w 2 1 (bit s.portA.linkUp)) 3 1 (bit s.portB.linkUp)
  let w := setField (setField w 4 1 (bit s.portA.session.isSome)) 5 1 (bit s.portB.session.isSome)
  setField w 16 16 s.sec.failovers

/-- The code of a slot state (Table 10.5). -/
def SlotMode.code : SlotMode → Nat
  | .free => 0 | .sealed => 1 | .taken => 2 | .opened => 3

/-- `SLOT_STATEn` of a port (Table 10.16). -/
def State.slotState (s : State) (p : Port) (n : Nat) : BitVec 64 :=
  let x := s.slot p n
  let w := setField (setField 0#64 0 2 x.mode.code) 8 7 x.openItems.length
  setField (setField w 16 16 x.badSeal) 32 32 x.lastSeq

/-- A port's number. -/
def portByte : Port → Byte
  | .a => 0#8
  | .b => 1#8

/-- The hearth of a port (R281). -/
def hearthOf : Port → Nat
  | .a => 0
  | .b => 1

/-- The port of a hearth (R281). -/
def portOfHearth (h : Nat) : Port := if h = 0 then .a else .b

/-- Bytes 0 to 15 of a marker page and the CRC-64 that follows them (R449). -/
def markerBytes (copyB : Bool) (generation : Nat) : List Byte :=
  let bs := [BitVec.ofNat 8 (bit copyB)] ++ zeros 7 ++ leBytes 8 generation
  bs ++ leBytes 8 (crc64 bs)

/-- The copy a marker page names, its generation, and whether its CRC is right. A byte 0 of 1 names copy B (log 46). -/
def Marker.copyB (m : Marker) : Bool := fieldAt m.bytes 0 1 = 1
def Marker.generation (m : Marker) : Nat := fieldAt m.bytes 8 8
def Marker.valid (m : Marker) : Bool := m.bytes.length = 24 && fieldAt m.bytes 16 8 = crc64 (slice m.bytes 0 16)

/-- The ruling marker page: the one with a valid CRC and the higher generation; whether it is the second. -/
def Flash.rulesSecond (f : Flash) : Bool := f.marker1.valid && (!f.marker0.valid || decide (f.marker0.generation < f.marker1.generation))
def Flash.ruling (f : Flash) : Marker := if f.rulesSecond then f.marker1 else f.marker0

/-- The marker names a flash copy other than the one that the hearth runs (Table 16.10). -/
def Hearth.staged (x : Hearth) : Bool :=
  (x.bootState = 2 || x.bootState = 3) && x.flash.ruling.valid && x.bootSrc ≠ bit x.flash.ruling.copyB

/-- `SEC_STATUS` (Table 16.10), of the port's own hearth (R449, R464). -/
def State.secStatus (s : State) (p : Port) : BitVec 64 :=
  let h := s.hearth (hearthOf p)
  let a := h.attic
  let open_ := a.lifecycle = 0
  let w := setField (0#64) 0 2 a.lifecycle
  let w := setField w 2 1 (bit (open_ || s.sec.debug))
  let w := setField w 3 3 (if open_ then 7 else s.sec.scope.toNat)
  let w := setField (setField w 6 7 a.svn) 13 7 h.imageSvn
  let w := setField (setField w 20 4 a.fwRevoked.toNat) 24 4 a.ownProg.toNat
  let w := setField (setField w 28 4 a.ownRevoked.toNat) 32 2 h.bootSrc
  let w := setField (setField w 34 3 h.bootState) 37 4 h.bootFail
  let w := setField (setField w 41 1 (bit h.staged)) 42 1 (bit a.ideLock)
  setField w 43 1 (bit s.sec.fmk.isSome)

/-- `PAIR_STATUS` (Table 13.8). -/
def State.pairStatus (s : State) : BitVec 64 :=
  let w := setField (0#64) 0 3 s.pair.state
  let w := setField (setField w 3 1 (bit (s.pair.galleryUp ≠ 0#32))) 4 1 (bit s.board.pairSense)
  setField w 16 16 s.pair.missed

/-- `JOB_STEP_STATEj` (Table 2.3). -/
def State.arrivedCount (s : State) (j : Nat) : Nat :=
  ((s.job j).tiles.filter (fun t => (s.tile t).wait == .arrived)).length
def State.jobStepState (s : State) (j : Nat) : BitVec 64 :=
  let x := s.job j
  let w := setField (0#64) 0 2 x.phase
  let w := setField w 2 1 (bit (x.stopAt ≠ BitVec.allOnes 64))
  let w := setField (setField w 3 1 (bit x.mirror.delta.isSome)) 4 1 (bit (x.cut.state = 1))
  setField w 16 9 (s.arrivedCount j)

/-- `MIRROR_STATEj` (Table 13.9). -/
def State.mirrorState (s : State) (j : Nat) : BitVec 64 :=
  let m := (s.job j).mirror
  let w := setField (setField 0#64 0 3 m.state) 3 4 m.twinCtx
  setField (setField w 7 3 m.cause) 32 32 m.deltaMib

/-- `CKPT_STATEj` (Table 14.9). -/
def State.ckptState (s : State) (j : Nat) : BitVec 64 :=
  let c := (s.job j).cut
  let w := setField (setField 0#64 0 3 c.state) 3 1 (bit c.gen)
  setField (setField w 16 16 c.status.toNat) 32 32 c.written

/-- `TB_STATUS` (Table 15.10): offset signed and saturating. -/
def State.tbStatus (s : State) : BitVec 64 :=
  let o := max (-32767) (min 32767 s.clk.offset)
  let w := setField (setField 0#64 0 2 s.clk.source) 2 1 (bit s.clk.locked)
  setField (setField w 16 16 (o % 65536).toNat) 32 32 s.clk.delay

/-- The lowest tile clock of the last 1 ms (R428). -/
def Clock.lowest (c : Clock) : Nat := c.recent.foldl (fun m x => min m x.2.2) c.minMhz

/-- `PWR_NOW` (Table 15.10): averages over the ticks of the last 1 ms, and the highest of them. -/
def Clock.powerNow (c : Clock) : BitVec 64 :=
  let n := c.recent.length
  let avg (f : Nat × Nat × Nat → Nat) : Nat := if n = 0 then 0 else (c.recent.map f).foldl (· + ·) 0 / n
  let w := setField (0#64) 0 16 (avg (fun x => x.1))
  setField (setField w 16 16 (c.recent.foldl (fun m x => max m x.1) 0)) 32 16 (avg (fun x => x.2.1))

/-- A collective holds a context (R369). -/
def Coll.active (c : Coll) : Bool :=
  match c.phase with
  | .setup => true
  | .data => true
  | _ => false
def Coll.isQueued (c : Coll) : Bool := c.phase == .queued

/-- `COLL_CTX` (Table 12.11). -/
def State.collCtx (s : State) : BitVec 64 :=
  let all := s.jobs.flatMap (fun j => j.2.colls)
  setField (setField 0#64 0 5 (all.filter Coll.active).length) 16 11 (all.filter Coll.isQueued).length

/-- One BAR2 word as Skeka computes it now, for the port it is read through (Table 18.2). Words that only count are
held in `bar2` and returned as they stand; every other offset reads 0. -/
def State.bar2Live (s : State) (p : Port) (off : Nat) : BitVec 64 :=
  if off = 0x0 then s.devIdent
  else if 0x40 ≤ off && off < 0x60 then s.tileAvail ((off - 0x40) / 8)
  else if off = 0x60 then s.pkgStatus
  else if off = 0x80 then s.hearthStatus
  else if off = 0x88 then s.sec.failoverTime
  else if off = 0x90 then BitVec.ofNat 64 ((s.portA.session.map Session.lastCtr).getD 0)
  else if off = 0x98 then BitVec.ofNat 64 ((s.portB.session.map Session.lastCtr).getD 0)
  else if 0x140 ≤ off && off < 0x158 then SMap.get 0#64 s.store.memErr ((off - 0x140) / 8)
  else if off = 0x158 then BitVec.ofNat 64 s.store.poison.length
  else if off = 0x160 then
    let w := setField (setField 0#64 0 1 (bit s.store.mapped.isSome)) 1 8 (s.store.mapped.getD 0)
    setField (setField w 9 1 (bit (!s.store.later.isEmpty))) 10 8 (s.store.later.headD 0)
  else if off = 0x200 then
    setField (setField (setField 0#64 0 16 (s.fab.endpoint.getD 0)) 16 1 (bit s.fab.endpoint.isSome)) 17 5 s.fab.paths
  else if off = 0x208 then BitVec.ofNat 64 (s.fab.lanesUp.toNat % 2 ^ 64)
  else if off = 0x210 then BitVec.ofNat 64 (s.fab.lanesUp.toNat / 2 ^ 64)
  else if off = 0x218 then BitVec.ofNat 64 s.fab.porchUp.toNat
  else if off = 0x280 then s.collCtx
  else if 0x300 ≤ off && off < 0x380 then
    let x := s.job ((off - 0x300) / 8)
    setField (setField 0#64 0 28 x.lastTag) 28 2 x.tagState
  else if 0x400 ≤ off && off < 0x600 then s.slotState p ((off - 0x400) / 8)
  else if off = 0x600 then s.pairStatus
  else if off = 0x608 then BitVec.ofNat 64 s.pair.galleryUp.toNat
  else if 0x680 ≤ off && off < 0x780 then
    let j := (off - 0x680) / 16
    if off % 16 = 0 then s.mirrorState j else (s.job j).mirror.committed
  else if off = 0x808 then setField (setField 0#64 0 17 s.store.guardUsed) 32 32 s.store.guardWaits
  else if off = 0x810 then setField 0#64 0 48 (min (2 ^ 48 - 1) s.store.guardSaves)
  else if 0x880 ≤ off && off < 0x980 then
    let j := (off - 0x880) / 16
    if off % 16 = 0 then s.ckptState j else (s.job j).cut.boundary
  else if off = 0xA00 then setField (setField 0#64 0 16 s.clk.limit) 16 3 s.clk.powerState
  else if off = 0xA08 then s.clk.powerNow
  else if off = 0xA10 then
    let w := setField (setField (s.bar2Word 0xA10) 0 10 s.clk.ceil) 10 10 s.clk.lowest
    setField w 20 1 (bit s.clk.hot)
  else if off = 0xA28 then s.tbStatus
  else if off = 0xA30 then s.now
  else if 0xB00 ≤ off && off < 0xBA0 then
    let n := (off - 0xB00) / 8
    setField (setField 0#64 0 16 (SMap.get 0#16 s.clk.temps n).toNat) 16 16 (SMap.get 0#16 s.clk.tempMax n).toNat
  else if off = 0xC00 then s.secStatus p
  else if 0xC20 ≤ off && off < 0xC40 then BitVec.ofNat 64 (fieldAt (s.portOf p).chal (off - 0xC20) 8)
  else if 0xC40 ≤ off && off < 0xDC0 then
    BitVec.ofNat 64 (fieldAt (s.sec.mr.getD ((off - 0xC40) / 48) []) ((off - 0xC40) % 48) 8)
  else if 0x1000 ≤ off && off < 0x1200 then
    let x := s.job ((off - 0x1000) / 32)
    match off % 32 with
    | 0 => x.step
    | 8 => x.stopAt
    | 16 => s.jobStepState ((off - 0x1000) / 32)
    | _ => x.stepTime
  else s.bar2Word off

/-- The offsets of BAR2 that hold registers (Table 18.2), without the MSI-X structures. -/
def bar2Offsets : List Nat :=
  [0x0, 0x40, 0x48, 0x50, 0x58, 0x60, 0x80, 0x88, 0x90, 0x98, 0xA0] ++
  (List.range 8).map (fun i => 0x100 + 8 * i) ++ (List.range 5).map (fun i => 0x140 + 8 * i) ++
  (List.range 13).map (fun i => 0x200 + 8 * i) ++ (List.range 6).map (fun i => 0x280 + 8 * i) ++
  (List.range 16).map (fun i => 0x300 + 8 * i) ++ (List.range 64).map (fun i => 0x400 + 8 * i) ++
  (List.range 7).map (fun i => 0x600 + 8 * i) ++ (List.range 32).map (fun i => 0x680 + 8 * i) ++
  [0x800, 0x808, 0x810] ++ (List.range 32).map (fun i => 0x880 + 8 * i) ++
  (List.range 8).map (fun i => 0xA00 + 8 * i) ++ (List.range 20).map (fun i => 0xB00 + 8 * i) ++
  [0xC00] ++ (List.range 4).map (fun i => 0xC20 + 8 * i) ++ (List.range 48).map (fun i => 0xC40 + 8 * i) ++
  (List.range 64).map (fun i => 0x1000 + 8 * i)

/-- What a word of BAR2 reads as at reset. -/
def bar2Reset (p : Port) (off : Nat) : BitVec 64 := State.reset.bar2Live p off

/-- Skeka publishes the pages (R35, R308, R486): the words of port A at their offset, those of port B 1 MiB above, each
held as its difference from its reset value. -/
def State.publish (s : State) : State :=
  let put (m : SMap (BitVec 64)) (off : Nat) : SMap (BitVec 64) :=
    SMap.set 0#64 (SMap.set 0#64 m off (s.bar2Live .a off ^^^ bar2Reset .a off)) (0x100000 + off)
      (s.bar2Live .b off ^^^ bar2Reset .b off)
  { s with published := bar2Offsets.foldl put [] }

/-- The MSI-X structures of BAR2 (R284): the table as it stands, and the pending bits. Held as the table's difference from
the reset table, in which every vector is masked. -/
def PortState.msixWord (q : PortState) (off : Nat) : BitVec 64 :=
  if off = 0xF1000 then q.msixPending
  else
    let k := (off - 0xF0000) / 8
    SMap.get 0#64 q.msixTable k ^^^ (if k % 2 = 1 then 0x100000000#64 else 0#64)

/-- The package is in device reset or without power (R473, R477). -/
def State.inReset (s : State) : Bool := !s.board.pwrok || !s.board.sysRstN || !s.board.vaux || s.board.thermtrip

/-- A word of BAR2: of the MSI-X structures, else of the pages as published. `DEV_IDENT` is fused and stands from power on
(R6), `TB_NOW` is the timebase at the read (Table 15.10), and until Skeka is ready every register stands as the boot leaves
it (R464). -/
def State.pageWord (s : State) (p : Port) (off : Nat) : BitVec 64 :=
  if off = 0 then s.devIdent
  else if off = 0xA30 then s.now
  else if off = 0xF1000 || (0xF0000 ≤ off && off < 0xF0400) then (s.portOf p).msixWord off
  else if !s.sec.ready && !s.inReset then s.bar2Live p off
  else SMap.get 0#64 s.published (if p = .a then off else 0x100000 + off) ^^^ bar2Reset p off

/-- An aligned read of BAR2: 8 bytes, or the half of a register at a multiple of 4 (R486). -/
def State.pageHalf (s : State) (p : Port) (off : Nat) : BitVec 32 :=
  BitVec.ofNat 32 (fieldOf (s.pageWord p (off / 8 * 8)) (8 * (off / 4 % 2 * 4)) 32)

end Sys2Proof.Machine
end

