-- ==== Sys2Proof/Machine/Records.lean ====
section
/-! DEFINITION. Records.lean: answers and completion records of the mailbox slots (R295 to R297) and the records of
streams, halts and breakpoints (R235, R296). -/

namespace Sys2Proof.Machine

open Sys2Proof

/-- The outcome of a command of the block. -/
abbrev Reply := Host.Outcome State Fault Refusal

/-! ## The journal (R302) -/

/-- A journal entry's bytes, of which its CRC is made: its kind, then its fields (DESIGN CHOICE, log 5). -/
def JournalItem.bytes : JournalItem → List Byte
  | .hamper p n hdr body => [0#8, portByte p, BitVec.ofNat 8 n] ++ hdr ++ body
  | .session p none => [1#8, portByte p]
  | .session p (some x) => [1#8, portByte p] ++ x.key ++ leBytes 8 x.lastCtr ++ [BitVec.ofNat 8 x.ownerSlot]
  | .slot p n seq m => [2#8, portByte p, BitVec.ofNat 8 n] ++ leBytes 4 seq ++ [BitVec.ofNat 8 m.code]
  | .item r k => [3#8, portByte r.port, BitVec.ofNat 8 r.slot, BitVec.ofNat 8 r.pos, BitVec.ofNat 8 k]
  | .mr n v => [4#8, BitVec.ofNat 8 n] ++ v

/-- An item as the cellar's copy holds it: a session's key is encrypted (R454). -/
def JournalItem.inCellar (secret : List Byte) : JournalItem → JournalItem
  | .session p (some x) => .session p (some { x with key := Config.journalSeal secret x.key })
  | x => x

/-- An entry of the journal, with the CRC-64 of R261 without its address term. -/
def JournalItem.entry (x : JournalItem) : JournalEntry := ⟨x, BitVec.ofNat 64 (crc64 x.bytes)⟩

/-- A hearth holds the journal while it runs. -/
def State.noted (s : State) (h : Nat) (xs : List JournalEntry) (e : JournalEntry) : List JournalEntry :=
  if (s.hearth h).alive then xs ++ [e] else xs

/-- Skeka journals before it acts: in both hearths and in the cellar reserve. -/
def State.record (s : State) (x : JournalItem) : State :=
  let e := x.entry
  { s with journal :=
    { h0 := s.noted 0 s.journal.h0 e, h1 := s.noted 1 s.journal.h1 e
      cellar := s.journal.cellar ++ [(x.inCellar s.attic.secret).entry] } }

/-- Two items that say where the same thing stands: a slot's hamper, a port's session, a slot, an item, a measurement register. -/
def JournalItem.sameKey : JournalItem → JournalItem → Bool
  | .hamper p n _ _, .hamper q m _ _ => p == q && n == m
  | .session p _, .session q _ => p == q
  | .slot p n _ _, .slot q m _ _ => p == q && n == m
  | .item r _, .item r' _ => r == r'
  | .mr n _, .mr m _ => n == m
  | _, _ => false

/-- A copy of the journal without the entries that a later one of the same thing replaces. -/
def compactEntries (xs : List JournalEntry) : List JournalEntry :=
  xs.foldr (fun e acc => if acc.any (fun y => y.what.sameKey e.what) then acc else e :: acc) []

/-- Journal compaction (R440): which entries go the spec does not say (DESIGN CHOICE, log 5). -/
def State.compactJournal (s : State) : State :=
  { s with journal :=
    { h0 := compactEntries s.journal.h0, h1 := compactEntries s.journal.h1, cellar := compactEntries s.journal.cellar } }

/-- A hearth that comes back as the standby takes a copy of the active one's journal. -/
def State.copyJournal (s : State) (h : Nat) : State :=
  { s with journal := if h = 0 then { s.journal with h0 := s.journal.h1 } else { s.journal with h1 := s.journal.h0 } }

/-- A measurement register extended with a digest, and journaled (R451). -/
def State.extendMr (s : State) (k : Nat) (digest : List Byte) : State :=
  let v := sha384 (s.sec.mr.getD k [] ++ digest)
  State.record { s with sec := { s.sec with mr := s.sec.mr.set k v } } (.mr k v)

/-- A slot's `SEQ` and state are journaled. -/
def State.recordSlot (s : State) (p : Port) (n : Nat) : State :=
  s.record (.slot p n (s.slot p n).lastSeq (s.slot p n).mode)

/-! ## Answers and records -/

/-- The answer header of a hamper (R295): every position in use gets `OUTCOME` 0, then the header, then the message. The
positions `openAt` await their records. -/
def State.writeAnswer (s : State) (p : Port) (n seq : Nat) (st : Status) (items : Nat) (openAt : List Nat) (time : BitVec 64) :
    State :=
  let x := s.slot p n
  let recs := (List.range items).foldl (fun m k => SMap.modify {} m k (fun r : Record => { r with outcome := .none })) x.records
  let last := ((s.portOf p).session.map Session.lastCtr).getD 0
  let a : Answer :=
    { seq := seq, status := st, items := items, open_ := openAt.length, time := time, lastCtr := BitVec.ofNat 64 last }
  let s := (s.setSlot p n { x with
    records := recs, answer := a, openItems := openAt, mode := if openAt.isEmpty then .free else .opened }).msix p n
  openAt.foldl (fun s k => (s.record (.item ⟨p, n, k⟩ 0)).record (.item ⟨p, n, k⟩ 1)) (s.recordSlot p n)

/-- An item ends with its one record (R296): nothing happens for an item that is not open. With the last one the slot
becomes FREE. -/
def State.finishItem (s : State) (r : ItemRef) (o : ItemOutcome) (st : Status) (tile : Nat) (detail : BitVec 64) : State :=
  let x := s.slot r.port r.slot
  if !(x.openItems.contains r.pos) then s
  else
    let left := x.openItems.filter (· ≠ r.pos)
    let s := (s.setSlot r.port r.slot { x with
      records := SMap.set {} x.records r.pos ⟨o, st, tile, detail, s.now⟩
      openItems := left
      mode := if left.isEmpty && x.mode == .opened then .free else x.mode }).msix r.port r.slot
    (s.record (.item r 2)).recordSlot r.port r.slot

/-- Ending an item that may not exist. -/
def State.finishItem? (s : State) (r : Option ItemRef) (o : ItemOutcome) (st : Status) (tile : Nat) (detail : BitVec 64) :
    State :=
  match r with
  | some r => s.finishItem r o st tile detail
  | none => s

/-- A reply of a hamper with one record position (R295), written before its record. -/
def State.writeReply (s : State) (p : Port) (n : Nat) (bs : List Byte) : State :=
  s.modSlot p n (fun x => { x with reply := bs })

/-- `DETAIL` of a halt (Table 10.9): the failing address for class 0x3; else ordinal and tag, or all ones where it names no
command. After a failing gather it is the failing element's index, which R275 puts there (DEDUCED, log 112). -/
def haltDetail (h : HaltInfo) : BitVec 64 :=
  if let some k := h.elem then BitVec.ofNat 64 k
  else if statusClass h.reason = 3 then BitVec.ofNat 64 (h.failing.getD 0)
  else if h.named then setField (BitVec.ofNat 64 (h.ord % 2 ^ 48)) 48 16 h.tag.toNat else BitVec.allOnes 64

/-- The record of a breakpoint at its stream's break position (R235, R296). -/
def State.breakRecord (s : State) (t : Nat) (h : HaltInfo) : State :=
  match (s.tile t).breakItem with
  | none => s
  | some r =>
    ((s.modSlot r.port r.slot (fun x => { x with
      records := SMap.set {} x.records r.pos ⟨.done, stBreakHit, t, haltDetail h, s.now⟩ })).msix r.port r.slot).record (.item r 2)

/-- `TILE_RESUME` returns the break position to `OUTCOME` 0 (R296). -/
def State.clearBreak (s : State) (t : Nat) : State :=
  match (s.tile t).breakItem with
  | none => s
  | some r => (s.modSlot r.port r.slot (fun x => { x with
      records := SMap.modify {} x.records r.pos (fun y : Record => { y with outcome := .none }) })).record (.item r 1)

/-- A stream's own completion (R235). -/
def State.finishStream (s : State) (t : Nat) (o : ItemOutcome) (st : Status) (detail : BitVec 64) : State :=
  (s.finishItem? (s.tile t).streamItem o st t detail).modTile t (fun x => { x with streamItem := none })

end Sys2Proof.Machine
end

