-- ==== Sys2Proof/Machine/Conflict.lean ====
section
/-! DEFINITION. Conflict.lean: what overlaps in memory (R223, R263, R285, log 54): the numbers of commands and agents in
the order of their dispatch, the trails they leave, and the bytes and checks that a breach leaves undefined. -/

namespace Sys2Proof.Machine

open Sys2Proof

/-! ## Who runs -/

/-- Who works on memory: a number, a tile and engine (no tile for the host and the porches), and whether it is an epilogue,
whose tiles the matrix engine hands over while it runs (R127, R190). -/
structure Agent where
  id : Nat
  tile : Option Nat
  eng : Engine
  epi : Bool := false

/-- The numbers of all commands that are dispatched and have not retired. -/
def State.liveIds (s : State) : List Nat :=
  s.tiles.flatMap (fun x => x.2.engines.flatMap (fun e =>
    (e.2.running.map (fun r => r.cmd.id)).toList ++ (e.2.pending.map EngineCmd.id).toList))

/-- A trail whose command no longer runs ended before the next number. -/
def Trail.close (live : List Nat) (next : Nat) (x : Trail) : Trail :=
  if x.ended.isNone && !live.contains x.id then { x with ended := some next } else x
/-- A trail that a live command may still overlap. -/
def Trail.needed (live : List Nat) (x : Trail) : Bool :=
  match x.ended with
  | none => true
  | some n => live.any (fun k => decide (k < n))

/-- The next number is taken; trails that nobody overlaps any more go. -/
def State.takeId (s : State) : State :=
  let live := s.liveIds
  { s with races := { s.races with
      next := s.races.next + 1
      trails := (s.races.trails.map (Trail.close live s.races.next)).filter (Trail.needed live) } }

/-! ## Breaches -/

/-- The bytes that two lists of runs share. -/
def meet (a b : List (Nat × Nat)) : List (Nat × Nat) :=
  a.flatMap (fun x => b.filterMap (fun y =>
    let lo := max x.1 y.1
    let hi := min (x.1 + x.2) (y.1 + y.2)
    if lo < hi then some (lo, hi - lo) else none))

/-- A trail that overlaps an agent in time, of another engine or another tile (R223). -/
def Trail.overlaps (x : Trail) (a : Agent) : Bool :=
  x.id != a.id && !(x.tile == a.tile && x.eng == a.eng) && !(a.epi && x.eng == .me)
    && (match x.ended with
      | none => true
      | some n => decide (a.id < n))

/-- What a breach leaves undefined: bytes read, bytes written, and blocks written from both sides (R223, R263). -/
structure Breach where
  read : List (Nat × Nat)
  written : List (Nat × Nat)
  blocks : List Nat

def Breach.none (b : Breach) : Bool := b.read.isEmpty && b.written.isEmpty && b.blocks.isEmpty

/-- The breach of an agent's work against the trails. Where it writes what another command reads, all that this command
wrote is undefined with it; the bytes written are, where that command still runs. A block that both write while
both run keeps a check that disagrees (R263). -/
def State.breach (s : State) (a : Agent) (t : Touch) : Breach :=
  let live := s.liveIds
  let xs := s.races.trails.filter (fun x => x.overlaps a)
  { read := xs.flatMap (fun x => meet t.reads x.touch.writes)
    written := xs.flatMap (fun x =>
      let hit := meet t.writes x.touch.reads
      (if live.contains x.id then hit else []) ++ meet t.writes x.touch.writes ++ (if hit.isEmpty then [] else x.touch.writes))
    blocks := (xs.filter (fun x => live.contains x.id)).flatMap (fun x => t.blocks.filter (fun b => x.touch.blocks.contains b)) }

/-- Bytes become free values, and the checks of blocks written from both sides disagree with them. -/
def State.spoil (s : State) (rs : List (Nat × Nat)) (blks : List Nat) : State :=
  if rs.isEmpty && blks.isEmpty then s
  else ({ s with store := (s.store.spoil s.fresh rs).disagree s.fresh blks }).drawn

/-- An agent's trail takes what it has met; work it was part of goes on under watch. -/
def State.leaveTrail (s : State) (outer : Option Touch) (a : Agent) (t : Touch) : State :=
  let xs := s.races.trails
  let add (x : Trail) : Trail :=
    if x.id = a.id then { x with touch :=
      { reads := x.touch.reads ++ t.reads, writes := x.touch.writes ++ t.writes, blocks := x.touch.blocks ++ t.blocks } }
    else x
  { s with races := { s.races with
      now := outer
      trails := if t = {} then xs else if xs.any (fun x => x.id = a.id) then xs.map add else xs ++ [⟨a.id, a.tile, a.eng, t, none⟩] } }

/-- What the work under way has met. -/
def State.met (s : State) : Touch := s.races.now.getD {}
def State.watch (s : State) : State := { s with races := { s.races with now := some {} } }

/-- Work on memory with its breaches: it runs as it is where it meets none; otherwise it runs on free values where another
command writes what it reads, and leaves free values where it wrote what another reads or writes. -/
def State.watched {α : Type} (s : State) (a : Agent) (work : State → α × State) : α × State :=
  let r := work s.watch
  let b := s.breach a r.2.met
  if b.none then (r.1, r.2.leaveTrail s.races.now a r.2.met)
  else
    let r := work (s.spoil b.read []).watch
    let b := s.breach a r.2.met
    (r.1, (r.2.leaveTrail s.races.now a r.2.met).spoil b.written b.blocks)

/-- The state an access leaves. -/
def Access.left {α : Type} : Access α → State
  | .ok _ s => s
  | .fault _ _ s => s
  | .fail _ _ s => s
def Access.leaving {α : Type} (s : State) : Access α → Access α
  | .ok a _ => .ok a s
  | .fault va w _ => .fault va w s
  | .fail st a _ => .fail st a s

/-- A watched access. -/
def State.watchAccess {α : Type} (s : State) (a : Agent) (f : State → Access α) : Access α :=
  let r := s.watched a (fun s => let x := f s; (x, x.left))
  r.1.leaving r.2

/-- The blocks that the command of a number has written by the state `s1`, as they were in the state `s` (R141). -/
def State.imagesOf (s s1 : State) (id : Nat) : List BlockImage :=
  match s1.races.trails.find? (fun x => x.id = id) with
  | none => []
  | some x =>
    (dedup (x.touch.writes.flatMap (fun r =>
      (List.range ((r.1 + r.2 - 1) / 4096 + 1 - r.1 / 4096)).map (fun i => r.1 / 4096 + i)))).map
      (fun b => (s.store.settle b).imageOf b)

/-- The addresses of a block that the command of a number has written. -/
def State.writtenIn (s : State) (id blk : Nat) : List Nat :=
  match s.races.trails.find? (fun x => x.id = id) with
  | none => []
  | some x => (meet x.touch.writes [(blk * 4096, 4096)]).flatMap (fun r => (List.range r.2).map (fun i => r.1 + i))

/-- The agent of an engine command. -/
def EngineCmd.agent (c : EngineCmd) (t : Nat) : Agent := ⟨c.id, some t, c.op.engine, c.op == .veEpi⟩
/-- An access by an agent that takes a number for it: a sequencer, a porch, a collective or the host. -/
def State.instantly {α : Type} (s : State) (tile : Option Nat) (e : Engine) (f : State → α × State) : α × State :=
  s.takeId.watched ⟨s.races.next, tile, e, false⟩ f
def State.accessNow {α : Type} (s : State) (tile : Option Nat) (e : Engine) (f : State → Access α) : Access α :=
  s.takeId.watchAccess ⟨s.races.next, tile, e, false⟩ f

/-- A write that met a full guard area has not happened, and its wait is counted (R414, log 28). -/
def State.guardWait (s s' : State) : State :=
  if s'.store.guardFull then s.withStore { s.store with guardWaits := min 0xFFFFFFFF (s.store.guardWaits + 1) }
  else s'

end Sys2Proof.Machine
end

