-- ==== Sys2Proof/Machine/Numeric.lean ====
section
/-! DEFINITION. Numeric.lean: exact values, the seventeen element formats, and the one rounding of an exact value to a
format (R58 to R81, R90 to R107). An exact finite value is a rational with a power of two, so nothing rounds before the
one rounding of R74 or R91. -/

namespace Sys2Proof

/-! ## Exact rationals -/

/-- The exact number `num / den * 2 ^ exp`, with `den` at least 1. -/
structure Q where
  num : Int
  den : Nat
  exp : Int
  deriving DecidableEq, Repr

/-- Shift left by an integer that is not negative. -/
def shl (n : Nat) (k : Int) : Nat := n * 2 ^ k.toNat

/-- An integer as an exact number. -/
def Q.ofInt (n : Int) : Q := ⟨n, 1, 0⟩
/-- `n * 2 ^ k`. -/
def Q.scaled (n : Int) (k : Int) : Q := ⟨n, 1, k⟩
/-- A power of two. -/
def Q.pow2 (k : Int) : Q := ⟨1, 1, k⟩
/-- The number zero. -/
def Q.zero : Q := ⟨0, 1, 0⟩
def Q.neg (q : Q) : Q := { q with num := -q.num }
def Q.abs (q : Q) : Q := { q with num := q.num.natAbs }
def Q.isZero (q : Q) : Bool := decide (q.num = 0)
def Q.isNeg (q : Q) : Bool := decide (q.num < 0)

/-- Lowest terms of the fraction, so that long sums stay small. -/
def Q.reduce (q : Q) : Q :=
  if q.den = 1 then q
  else
    let g := Nat.gcd q.num.natAbs q.den
    if g ≤ 1 then q else ⟨q.num / (g : Int), q.den / g, q.exp⟩

def Q.mul (a b : Q) : Q := Q.reduce ⟨a.num * b.num, a.den * b.den, a.exp + b.exp⟩

/-- The inverse of a number that is not zero. -/
def Q.inv (q : Q) : Q :=
  ⟨if q.num < 0 then -(q.den : Int) else (q.den : Int), q.num.natAbs, -q.exp⟩

def Q.div (a b : Q) : Q := Q.mul a b.inv

/-- The numerator of `q` over the weight `2 ^ e`, for `e` at most `q.exp`. -/
def Q.alignNum (q : Q) (e : Int) : Int := q.num * ((2 ^ (q.exp - e).toNat : Nat) : Int)

def Q.add (a b : Q) : Q :=
  if a.num = 0 then b
  else if b.num = 0 then a
  else
    let e := min a.exp b.exp
    Q.reduce ⟨a.alignNum e * (b.den : Int) + b.alignNum e * (a.den : Int), a.den * b.den, e⟩

def Q.sub (a b : Q) : Q := Q.add a b.neg

/-- `a < b`. -/
def Q.lt (a b : Q) : Bool := (Q.sub a b).isNeg
def Q.le (a b : Q) : Bool := !Q.lt b a
def Q.eq (a b : Q) : Bool := (Q.sub a b).isZero
def Q.max (a b : Q) : Q := if Q.lt a b then b else a

/-- The magnitude of `q` over `2 ^ g` as a numerator and a denominator. -/
def Q.over (q : Q) (g : Int) : Nat × Nat :=
  if g ≤ q.exp then (shl q.num.natAbs (q.exp - g), q.den)
  else (q.num.natAbs, shl q.den (g - q.exp))

/-- `⌊log2 |q|⌋` of a number that is not zero, exact for every number (R84). -/
def Q.floorLog2 (q : Q) : Int :=
  let n := q.num.natAbs
  let k : Int := (Nat.log2 n : Int) - (Nat.log2 q.den : Int)
  let (a, b) := Q.over ⟨q.num, q.den, 0⟩ k
  (if a < b then k - 1 else k) + q.exp

/-- `⌈log2 |q|⌉`. -/
def Q.ceilLog2 (q : Q) : Int :=
  let k := q.floorLog2
  if Q.eq q.abs (Q.pow2 k) then k else k + 1

/-- `⌊q / 2 ^ g⌋` as an integer, toward minus infinity. -/
def Q.floorAt (q : Q) (g : Int) : Int :=
  let (n, d) := Q.over q g
  if q.num < 0 then -(((n + d - 1) / d : Nat) : Int) else ((n / d : Nat) : Int)

/-- Integer square root by bits: the largest `r` with `r * r ≤ n`. -/
def natSqrtAux (n : Nat) : Nat → Nat → Nat
  | 0, r => r
  | k + 1, r =>
    let c := r + 2 ^ k
    natSqrtAux n k (if c * c ≤ n then c else r)

def natSqrt (n : Nat) : Nat := natSqrtAux n (Nat.log2 n / 2 + 1) 0

/-- `sqrt q` for `q > 0` to `bits` bits below its leading bit, with a sticky bit lowest, so that any rounding of at most
`bits - 40` bits rounds it as the exact root. -/
def Q.sqrtSticky (q : Q) (bits : Nat) : Q :=
  let e := q.floorLog2
  let g0 : Int := e / 2 - (bits : Int)
  let (n, d) := Q.over q (2 * g0)
  let r := natSqrt (n / d)
  let exact := decide (r * r * d = n)
  ⟨((2 * r + (if exact then 0 else 1) : Nat) : Int), 1, g0 - 1⟩

/-! ## Values -/

/-- A value of an element: a NaN (quiet or signalling), an infinity, a signed zero, or a finite number that is not 0. -/
inductive Val where
  | nan (signalling : Bool)
  | inf (neg : Bool)
  | zero (neg : Bool)
  | fin (q : Q)
  deriving DecidableEq, Repr

/-- The four flags OF, UF, NX, NV in the bits 0 to 3 (R108 Table 4.6). -/
abbrev Flags := BitVec 4

def flagOF : Flags := 1#4
def flagUF : Flags := 2#4
def flagNX : Flags := 4#4
def flagNV : Flags := 8#4

def Val.isNan : Val → Bool
  | .nan _ => true
  | _ => false
def Val.isSnan : Val → Bool
  | .nan true => true
  | _ => false
def Val.isInf : Val → Bool
  | .inf _ => true
  | _ => false
def Val.isZero : Val → Bool
  | .zero _ => true
  | _ => false
def Val.isFinite : Val → Bool
  | .zero _ => true
  | .fin _ => true
  | _ => false
def Val.isNeg : Val → Bool
  | .nan _ => false
  | .inf n => n
  | .zero n => n
  | .fin q => q.isNeg
/-- The exact number of a finite value; 0 for the others. -/
def Val.q : Val → Q
  | .fin q => q
  | _ => Q.zero
/-- An exact number as a value; zero has the sign given. -/
def Val.ofQ (q : Q) (negZero : Bool) : Val := if q.isZero then .zero negZero else .fin q
def Val.neg : Val → Val
  | .nan s => .nan s
  | .inf n => .inf (!n)
  | .zero n => .zero (!n)
  | .fin q => .fin q.neg
def Val.abs : Val → Val
  | .nan s => .nan s
  | .inf _ => .inf false
  | .zero _ => .zero false
  | .fin q => .fin q.abs

/-- A value times an exact scale that is not zero (R488: every element is q × s). DEDUCED (log 98): the product of a zero or
an infinity with a negative scale has the sign of a product, the opposite one. -/
def Val.scale (v : Val) (s : Q) : Val :=
  match v with
  | .fin q => .fin (Q.mul q s)
  | .zero n => .zero (n != s.isNeg)
  | .inf n => .inf (n != s.isNeg)
  | v => v

/-! ## Formats (R58, R60, R64) -/

/-- The seventeen element formats (Table 3.1). -/
inductive Fmt where
  | fp64 | fp32 | fp16 | bf16 | e4m3 | e5m2 | int8 | uint8 | int4 | uint4
  | mxE4m3 | mxE5m2 | mxInt8 | int32 | int64 | fx192 | int16
  deriving DecidableEq, Repr

/-- The format of a code of Table 3.1; codes 0x11 to 0x1F are reserved. -/
def Fmt.ofCode (c : Nat) : Option Fmt :=
  match c with
  | 0 => some .fp64 | 1 => some .fp32 | 2 => some .fp16 | 3 => some .bf16
  | 4 => some .e4m3 | 5 => some .e5m2 | 6 => some .int8 | 7 => some .uint8
  | 8 => some .int4 | 9 => some .uint4 | 10 => some .mxE4m3 | 11 => some .mxE5m2
  | 12 => some .mxInt8 | 13 => some .int32 | 14 => some .int64 | 15 => some .fx192
  | 16 => some .int16 | _ => none

/-- The code of a format (Table 3.1). -/
def Fmt.code : Fmt → Nat
  | .fp64 => 0 | .fp32 => 1 | .fp16 => 2 | .bf16 => 3 | .e4m3 => 4 | .e5m2 => 5 | .int8 => 6 | .uint8 => 7
  | .int4 => 8 | .uint4 => 9 | .mxE4m3 => 10 | .mxE5m2 => 11 | .mxInt8 => 12 | .int32 => 13 | .int64 => 14
  | .fx192 => 15 | .int16 => 16

/-- Bits of one stored element (Table 3.1, without block scales). -/
def Fmt.bits : Fmt → Nat
  | .fp64 | .int64 => 64
  | .fp32 | .int32 => 32
  | .fp16 | .bf16 | .int16 => 16
  | .e4m3 | .e5m2 | .int8 | .uint8 | .mxE4m3 | .mxE5m2 | .mxInt8 => 8
  | .int4 | .uint4 => 4
  | .fx192 => 192

/-- The scale kinds that Table 3.1 permits. -/
def Fmt.kinds : Fmt → List Nat
  | .fp64 | .fp32 | .int32 | .int64 => [0]
  | .fp16 | .bf16 | .e4m3 | .e5m2 | .int8 | .uint8 | .int16 => [0, 1]
  | .int4 | .uint4 => [0, 1, 3, 4]
  | .mxE4m3 | .mxE5m2 | .mxInt8 => [2]
  | .fx192 => [5]

/-- A short format (Table 3.1). -/
def Fmt.isShort : Fmt → Bool
  | .fp64 | .fp32 | .int32 | .int64 | .fx192 => false
  | _ => true

def Fmt.isMx : Fmt → Bool
  | .mxE4m3 | .mxE5m2 | .mxInt8 => true
  | _ => false

def Fmt.is4bit : Fmt → Bool
  | .int4 | .uint4 => true
  | _ => false

/-- Range of an integer format; MXINT8 counts as the integers of R78. -/
def Fmt.intRange : Fmt → Option (Int × Int)
  | .int4 => some (-8, 7) | .uint4 => some (0, 15)
  | .int8 => some (-128, 127) | .uint8 => some (0, 255)
  | .int16 => some (-32768, 32767)
  | .int32 => some (-2147483648, 2147483647)
  | .int64 => some (-9223372036854775808, 9223372036854775807)
  | .mxInt8 => some (-127, 127)
  | _ => none

/-- A plain integer format of R64. -/
def Fmt.isInt : Fmt → Bool
  | .int4 | .uint4 | .int8 | .uint8 | .int16 | .int32 | .int64 => true
  | _ => false

def Fmt.isSignedInt : Fmt → Bool
  | .int4 | .int8 | .int16 | .int32 | .int64 | .mxInt8 => true
  | _ => false

/-- Parameters of a floating-point format (R60 Table 3.3). -/
structure FloatFmt where
  ebits : Nat
  mbits : Nat
  bias : Nat
  hasInf : Bool
  deriving DecidableEq, Repr

/-- The floating-point parameters of a format's elements; MXFP8 elements are FP8 values (R66). -/
def Fmt.float : Fmt → Option FloatFmt
  | .fp64 => some ⟨11, 52, 1023, true⟩
  | .fp32 => some ⟨8, 23, 127, true⟩
  | .fp16 => some ⟨5, 10, 15, true⟩
  | .bf16 => some ⟨8, 7, 127, true⟩
  | .e4m3 | .mxE4m3 => some ⟨4, 3, 7, false⟩
  | .e5m2 | .mxE5m2 => some ⟨5, 2, 15, true⟩
  | _ => none

/-- Sign-extend an unsigned reading of `n` bits. -/
def signExt (n v : Nat) : Int := if v % 2 ^ n < 2 ^ (n - 1) then (v % 2 ^ n : Nat) else (v % 2 ^ n : Nat) - (2 ^ n : Nat)

/-- A bit field `[lo + len - 1 : lo]` of a number. -/
def bitsOf (v lo len : Nat) : Nat := v / 2 ^ lo % 2 ^ len

/-- The value of a floating-point encoding (R60 to R63). -/
def decodeFloat (f : FloatFmt) (b : Nat) : Val :=
  let m := b % 2 ^ f.mbits
  let e := bitsOf b f.mbits f.ebits
  let neg := decide (bitsOf b (f.mbits + f.ebits) 1 = 1)
  let top := 2 ^ f.ebits - 1
  if e = top && !f.hasInf && m = 2 ^ f.mbits - 1 then .nan false
  else if e = top && f.hasInf then
    if m = 0 then .inf neg
    else if 7 ≤ f.mbits && bitsOf m (f.mbits - 1) 1 = 0 then .nan true
    else .nan false
  else
    let sig := if e = 0 then m else 2 ^ f.mbits + m
    let x : Int := (if e = 0 then 1 else (e : Int)) - f.bias - f.mbits
    if sig = 0 then .zero neg
    else .fin ⟨if neg then -(sig : Int) else sig, 1, x⟩

/-- The limb integer of an FX192 element (R68), without the anchor's factor. -/
def limbInt (b : Nat) : Int :=
  signExt 64 (bitsOf b 128 64) * (2 ^ 112 : Nat) + signExt 64 (bitsOf b 64 64) * (2 ^ 56 : Nat)
    + signExt 64 (bitsOf b 0 64)

/-- The unscaled value of a stored element. -/
def decodeElem (f : Fmt) (b : Nat) : Val :=
  match f.float with
  | some ff => decodeFloat ff b
  | none =>
    match f with
    | .mxInt8 => Val.ofQ ⟨signExt 8 b, 1, -6⟩ false
    | .fx192 => Val.ofQ (Q.ofInt (limbInt b)) false
    | f => Val.ofQ (Q.ofInt (if f.isSignedInt then signExt f.bits b else (b % 2 ^ f.bits : Nat))) false

/-! ## Rounding (R74 to R81) -/

/-- Rounding of the magnitude `n / d` to an integer in the mode of Table 3.5; `r` is the random word of R80. -/
def roundMag (mode : Nat) (neg : Bool) (r n d : Nat) : Nat :=
  let k := n / d
  let rem := n % d
  if rem = 0 then k
  else
    match mode with
    | 0 => if 2 * rem > d then k + 1 else if 2 * rem = d then k + k % 2 else k
    | 1 => k
    | 2 => if neg then k else k + 1
    | 3 => if neg then k + 1 else k
    | _ => if rem * 2 ^ 32 / d + r ≥ 2 ^ 32 then k + 1 else k

/-- What became of a converted element, for the counts of R55 and R88. -/
inductive NarrowKind where
  | ordinary
  | saturated
  | underflow
  | nonfinite
  deriving DecidableEq, Repr

/-- A stored element and what its conversion raised. -/
structure Narrowed where
  bits : Nat
  flags : Flags
  kind : NarrowKind
  deriving DecidableEq, Repr

/-- Rounding mode, SAT bit and random word of a conversion. -/
structure Round where
  mode : Nat
  sat : Bool
  r : Nat
  deriving DecidableEq, Repr

def FloatFmt.signBit (f : FloatFmt) (neg : Bool) : Nat := if neg then 2 ^ (f.ebits + f.mbits) else 0
/-- The canonical NaN, sign 0 (R62). -/
def FloatFmt.nanBits (f : FloatFmt) : Nat :=
  if f.hasInf then (2 ^ f.ebits - 1) * 2 ^ f.mbits + 2 ^ (f.mbits - 1) else 2 ^ (f.ebits + f.mbits) - 1
def FloatFmt.infBits (f : FloatFmt) (neg : Bool) : Nat := f.signBit neg + (2 ^ f.ebits - 1) * 2 ^ f.mbits
def FloatFmt.maxBits (f : FloatFmt) (neg : Bool) : Nat :=
  f.signBit neg + (if f.hasInf then (2 ^ f.ebits - 1) * 2 ^ f.mbits - 1 else 2 ^ (f.ebits + f.mbits) - 2)
/-- The largest finite value. -/
def FloatFmt.maxFin (f : FloatFmt) : Q :=
  if f.hasInf then Q.scaled ((2 ^ (f.mbits + 1) - 1 : Nat) : Int) ((f.bias : Int) - f.mbits)
  else Q.scaled ((2 ^ (f.mbits + 1) - 2 : Nat) : Int) ((f.bias : Int) + 1 - f.mbits)
/-- The exponent of the smallest normal value. -/
def FloatFmt.emin (f : FloatFmt) : Int := 1 - (f.bias : Int)

/-- Table 3.6: the stored result on overflow. -/
def overflowBits (f : FloatFmt) (neg : Bool) (rd : Round) : Nat :=
  let away := match rd.mode with
    | 0 => true
    | 1 => false
    | 2 => !neg
    | 3 => neg
    | _ => true
  if rd.sat || !away then f.maxBits neg else if f.hasInf then f.infBits neg else f.nanBits

/-- Conversion to a floating-point format of a quotient (R74 to R77, R79). -/
def narrowFloat (f : FloatFmt) (v : Val) (rd : Round) : Narrowed :=
  match v with
  | .nan s => ⟨f.nanBits, if s then flagNV else 0#4, .nonfinite⟩
  | .inf n =>
    if f.hasInf then ⟨f.infBits n, 0#4, .nonfinite⟩
    else if rd.sat then ⟨f.maxBits n, flagNV, .nonfinite⟩ else ⟨f.nanBits, flagNV, .nonfinite⟩
  | .zero n => ⟨f.signBit n, 0#4, .ordinary⟩
  | .fin q =>
    let neg := q.isNeg
    let e := q.floorLog2
    let gy := e - f.mbits
    let (ny, dy) := Q.over q gy
    let y := Q.scaled (roundMag rd.mode neg rd.r ny dy : Nat) gy
    if Q.lt f.maxFin y then ⟨overflowBits f neg rd, flagOF ||| flagNX, .saturated⟩
    else
      let g := max e f.emin - f.mbits
      let (n, d) := Q.over q g
      let k := roundMag rd.mode neg rd.r n d
      let inexact := decide (n % d ≠ 0)
      let tiny := Q.lt y (Q.pow2 f.emin)
      let fl := (if inexact then flagNX else 0#4) ||| (if inexact && tiny then flagUF else 0#4)
      ⟨f.signBit neg + (((g + f.mbits + f.bias - 1).toNat) * 2 ^ f.mbits + k), fl,
        if k = 0 then .underflow else .ordinary⟩

/-- Conversion to an integer destination (R78); `unit` is the weight of an integer, 2^-6 for MXINT8. A finite result out
of range raises NV, and NX by Table 4.7 (log 12). DESIGN CHOICE (log 137): a negative source that saturates to 0 on an
unsigned destination is `saturated`, so the statistics count it in `SAT_COUNT` alone, and in no count of elements converted
to zero. -/
def narrowInt (nbits : Nat) (lo hi unit : Int) (v : Val) (rd : Round) : Narrowed :=
  let wrap (x : Int) : Nat := (x % ((2 ^ nbits : Nat) : Int)).toNat
  match v with
  | .nan _ => ⟨0, flagNV, .nonfinite⟩
  | .inf n => ⟨wrap (if n then lo else hi), flagNV, .nonfinite⟩
  | .zero _ => ⟨0, 0#4, .ordinary⟩
  | .fin q =>
    let neg := q.isNeg
    let (n, d) := Q.over q unit
    let k := roundMag rd.mode neg rd.r n d
    let x : Int := if neg then -(k : Int) else k
    let inexact := decide (n % d ≠ 0)
    if x < lo then ⟨wrap lo, flagNV ||| flagNX, .saturated⟩
    else if hi < x then ⟨wrap hi, flagNV ||| flagNX, .saturated⟩
    else ⟨wrap x, if inexact then flagNX else 0#4, if x = 0 then .underflow else .ordinary⟩

/-- The one rounding of a quotient to an element of a format. FX192 is no destination of it (R70): it stores 0. -/
def narrow (f : Fmt) (v : Val) (rd : Round) : Narrowed :=
  match f.float with
  | some ff => narrowFloat ff v rd
  | none =>
    match f.intRange with
    | some (lo, hi) => narrowInt f.bits lo hi (if f = .mxInt8 then -6 else 0) v rd
    | none => ⟨0, 0#4, .ordinary⟩

/-- A value divided by the destination scale (R74). The scale acts on no zero and no infinity (R63, R79). -/
def Val.quot (v : Val) (s : Q) : Val :=
  match v with
  | .fin q => .fin (Q.div q s)
  | v => v

/-- R74: the exact source value over the destination scale, rounded once. A zero that a value underflows to has the sign
of that value, whatever the sign of the scale (R63). -/
def convert (f : Fmt) (s : Q) (v : Val) (rd : Round) : Narrowed :=
  let r := narrow f (v.quot s) rd
  match f.float with
  | some ff => if r.kind == .underflow then { r with bits := ff.signBit v.isNeg } else r
  | none => r

/-- The FP64 bits of a value under a mode, no flags kept. -/
def toF64 (mode : Nat) (v : Val) : Nat := (narrow .fp64 v ⟨mode, false, 0⟩).bits

/-- The largest finite value of a format in element units (Table 3.9 MAXFIN). -/
def Fmt.maxFin (f : Fmt) : Q :=
  match f.float with
  | some ff => ff.maxFin
  | none =>
    match f with
    | .mxInt8 => Q.scaled 127 (-6)
    | f => match f.intRange with
      | some (_, hi) => Q.ofInt hi
      | none => Q.zero

/-- EMAX of Table 3.9; none for a format without a row there. -/
def Fmt.emaxCal : Fmt → Option Int
  | .fp16 => some 15 | .bf16 => some 127
  | .e4m3 | .mxE4m3 => some 8
  | .e5m2 | .mxE5m2 => some 15
  | .int8 => some 6 | .uint8 => some 7 | .int16 => some 14 | .int4 => some 2 | .uint4 => some 3 | .mxInt8 => some 0
  | _ => none

/-! ## Element operations (R109, R181) -/

/-- Product of two values with the special cases of Table 4.5. -/
def Val.mul (a b : Val) : Val × Flags :=
  if a.isSnan || b.isSnan then (.nan false, flagNV)
  else if a.isNan || b.isNan then (.nan false, 0#4)
  else
    let neg := a.isNeg != b.isNeg
    if a.isInf || b.isInf then
      if a.isZero || b.isZero then (.nan false, flagNV) else (.inf neg, 0#4)
    else if a.isZero || b.isZero then (.zero neg, 0#4)
    else (.fin (Q.mul a.q b.q), 0#4)

/-- Sum of two values; an exact zero of unlike parts is +0, or -0 under RDN (R107, R181). -/
def Val.add (mode : Nat) (a b : Val) : Val × Flags :=
  if a.isSnan || b.isSnan then (.nan false, flagNV)
  else if a.isNan || b.isNan then (.nan false, 0#4)
  else
    match a, b with
    | .inf n, .inf m => if n = m then (.inf n, 0#4) else (.nan false, flagNV)
    | .inf n, _ => (.inf n, 0#4)
    | _, .inf m => (.inf m, 0#4)
    | .zero n, .zero m => (.zero (if n = m then n else decide (mode = 3)), 0#4)
    | a, b => (Val.ofQ (Q.add a.q b.q) (decide (mode = 3)), 0#4)

/-- Comparison of two values that are no NaN, with -0 equal to +0. -/
def Val.lt (a b : Val) : Bool :=
  match a, b with
  | .nan _, _ => false
  | _, .nan _ => false
  | .inf n, .inf m => n && !m
  | .inf n, _ => n
  | _, .inf m => !m
  | a, b => Q.lt a.q b.q

def Val.eq (a b : Val) : Bool :=
  match a, b with
  | .nan _, _ => false
  | _, .nan _ => false
  | .inf n, .inf m => n == m
  | .inf _, _ => false
  | _, .inf _ => false
  | a, b => Q.eq a.q b.q

/-! ## Exact accumulation (R90 to R107) -/

/-- The state of an exact sum: what special addends were seen, the exact finite part, and whether every addend so far
was -0 (R106, R107). -/
structure Acc where
  nan : Bool
  nv : Bool
  pinf : Bool
  ninf : Bool
  sum : Q
  allNegZero : Bool
  count : Nat
  deriving DecidableEq, Repr

def Acc.empty : Acc := ⟨false, false, false, false, Q.zero, true, 0⟩

/-- One addend enters the sum (Table 4.5). -/
def Acc.addVal (a : Acc) (v : Val) (fl : Flags) : Acc :=
  let a := { a with nv := a.nv || decide (fl &&& flagNV ≠ 0#4), count := a.count + 1 }
  match v with
  | .nan s => { a with nan := true, nv := a.nv || s, allNegZero := false }
  | .inf false => { a with pinf := true, allNegZero := false }
  | .inf true => { a with ninf := true, allNegZero := false }
  | .zero n => { a with allNegZero := a.allNegZero && n }
  | .fin q => { a with sum := Q.add a.sum q, allNegZero := false }

/-- The exact result of the sum and the flags its special addends raise. -/
def Acc.value (mode : Nat) (a : Acc) : Val × Flags :=
  let nv := if a.nv || (a.pinf && a.ninf) then flagNV else 0#4
  if a.nan || (a.pinf && a.ninf) then (.nan false, nv)
  else if a.pinf then (.inf false, nv)
  else if a.ninf then (.inf true, nv)
  else if a.count = 0 then (.zero false, 0#4)
  else if a.sum.isZero then (.zero (a.allNegZero || decide (mode = 3)), nv)
  else (.fin a.sum, nv)

/-- The sum of a list of addends with the flags of their products. -/
def sumExact (mode : Nat) (vs : List (Val × Flags)) : Val × Flags :=
  Acc.value mode (vs.foldl (fun a v => a.addVal v.1 v.2) Acc.empty)

/-! ### Straggler passes (R96 to R102) -/

/-- The wide accumulator of R96: the 512-bit window C, the anchor and the sticky bit. -/
structure Wide where
  c : Int
  anchor : Option Int
  sticky : Bool
  deriving DecidableEq, Repr

/-- One addend enters the wide accumulator (R97, R98). -/
def Wide.addend (x : Wide) (p : Q) : Wide :=
  if p.isZero then x
  else
    let l := p.floorLog2
    let a := x.anchor.getD l
    let rise : Int := if l ≤ a then 0 else (l - a + 255) / 256 * 256
    let pw : Int := ((2 ^ rise.toNat : Nat) : Int)
    let kept := x.c / pw
    let lost1 := decide (kept * pw ≠ x.c)
    let a := a + rise
    let f := p.floorAt (a - 478)
    let lost2 := !(Q.eq (Q.scaled f (a - 478)) p)
    ⟨kept + f, some a, x.sticky || lost1 || lost2⟩

/-- The breakpoints of one destination (R100): the least one above a value. -/
def ulpExp (f : FloatFmt) (e : Int) : Int := max e f.emin - f.mbits

/-- The step between breakpoints as an exponent below the grid step. -/
def bpShift (mode : Nat) : Int := if mode = 0 then 1 else if mode = 4 then 32 else 0

/-- The least breakpoint above `x` on a grid of step `2 ^ g`. -/
def gridAbove (x : Q) (g : Int) : Q := Q.scaled (x.floorAt g + 1) g

/-- The least breakpoint of a format above `x`, destination scale 1, for a random word `r` (R80, R100). -/
def breakpointAbove (f : Fmt) (mode r : Nat) (x : Q) : Q :=
  match f.float with
  | none => gridAbove x ((if f = .mxInt8 then -6 else 0) - bpShift mode)
  | some ff =>
    let e := if x.isZero then ff.emin else
      let l := x.floorLog2
      if x.isNeg && Q.eq x.abs (Q.pow2 l) then l - 1 else l
    let cand := gridAbove x (ulpExp ff e - bpShift mode)
    -- the least magnitude that rounds, with unbounded exponent, to the smallest normal
    let sub := ff.emin - 1 - ff.mbits
    let t := match mode with
      | 0 => Q.sub (Q.pow2 ff.emin) (Q.pow2 (sub - 1))
      | 4 => Q.sub (Q.pow2 ff.emin) (Q.scaled r (sub - 32))
      | _ => Q.sub (Q.pow2 ff.emin) (Q.pow2 sub)
    let extra := match mode with
      | 1 => []
      | 2 => [t]
      | 3 => [t.neg]
      | _ => [t, t.neg]
    extra.foldl (fun c p => if Q.lt x p && Q.lt p c then p else c) cand

/-- The least breakpoint above `x` for a destination scale `s` that may be negative (R74, R100). -/
def breakpointScaled (f : Fmt) (mode r : Nat) (s : Q) (x : Q) : Q :=
  if s.isNeg then
    -- the grid is mirrored: its breakpoints are symmetric but for the directed modes' normal threshold
    let m := if mode = 2 then 3 else if mode = 3 then 2 else mode
    Q.mul (breakpointAbove f m r (Q.div x s.neg)) s.neg
  else Q.mul (breakpointAbove f mode r (Q.div x s)) s

/-- One pass over the addends with the anchor fixed and the sum taken modulo 2^512 (R101). -/
def stragglerSum (addends : List Q) (alpha : Int) : Int × Bool :=
  let w := alpha - 478
  let step (acc : Int × Bool) (p : Q) : Int × Bool :=
    let f := p.floorAt w
    (acc.1 + f, acc.2 || !(Q.eq (Q.scaled f w) p))
  let (c, s) := addends.foldl step (0, false)
  let m : Int := ((2 ^ 512 : Nat) : Int)
  let r := c % m
  (if r < m / 2 then r else r - m, s)

/-- The straggler passes of one output (R101), at most `fuel`; `next` is the least breakpoint above a value. -/
def stragglerPasses (next : Q → Q) (addends : List Q) (n : Nat) : Nat → Q → Bool → Int → Nat
  | 0, _, _, _ => 0
  | fuel + 1, x, s, w =>
    if !s then 0
    else
      let tail := Q.scaled ((n + 32 : Nat) : Int) w
      let b0 := next x
      if Q.lt b0 (Q.add x tail) then
        let alpha := tail.ceilLog2
        let (c, s') := stragglerSum (b0.neg :: addends) alpha
        1 + stragglerPasses next addends n fuel (Q.add b0 (Q.scaled c (alpha - 478))) s' (alpha - 478)
      else 0

/-- A wide accumulator's value C × w (R98). -/
def Wide.value (x : Wide) : Q := Q.scaled x.c (x.anchor.getD 0 - 478)

/-- The wide accumulator of an output whose addends enter one accumulator for each member of a reduction split, in their
order; the master then adds the others' as further addends (R99). Without a split the list has one entry. -/
def Wide.merged (parts : List (List Q)) : Wide :=
  match parts.map (fun xs => xs.foldl Wide.addend ⟨0, none, false⟩) with
  | [] => ⟨0, none, false⟩
  | x :: rest => rest.foldl (fun x y => let z := x.addend y.value; { z with sticky := z.sticky || y.sticky }) x

/-- How many straggler passes an output takes whose `n` addends enter wide accumulators as the lists `parts`: at most 9
by R102. -/
def countStragglers (next : Q → Q) (n : Nat) (parts : List (List Q)) : Nat :=
  let x := Wide.merged parts
  stragglerPasses next parts.flatten n 9 x.value x.sticky (x.anchor.getD 0 - 478)

end Sys2Proof
end

