-- ==== Sys2Proof/Machine/Flags.lean ====
section
/-! DEFINITION. Flags.lean: every flag and comparison computation of the spec: the commit of flags to `ENG_FLAGS` (R108,
R111, R112), the sequencer's arithmetic and comparisons (R218), and the element operations of the divide unit, the
vector engine and the update engine with the flags of Table 4.7 (R109, R110, R151, R181, R182, R188, R200). -/

namespace Sys2Proof.Machine

open Sys2Proof

/-! ## ENG_FLAGS -/

/-- A retirement commits flags: ORed into the register and written to `LAST` (R111). The sequencer has none (R108). -/
def Tile.commitFlags (x : Tile) (e : Engine) (f : BitVec 4) : Tile :=
  if e = .sq then x
  else
    let r := x.reg e 0x00
    x.setReg e 0x00 (setField (setField r 0 4 (fieldOf r 0 4 ||| f.toNat)) 8 4 f.toNat)

/-- The flags of an implied fence or wait (R340, R374): ORed into `ENG_FLAGS` of the tile mover. No command of the tile mover
retires, so `LAST` is left (DEDUCED, log 142). -/
def Tile.raiseFlags (x : Tile) (f : BitVec 4) : Tile :=
  if f = 0#4 then x
  else x.setReg .tm 0x00 (setField (x.reg .tm 0x00) 0 4 (fieldOf (x.reg .tm 0x00) 0 4 ||| f.toNat))

/-! ## Sequencer arithmetic (R218) -/

/-- The result of an `ALU` operation of code `op`. -/
def aluResult (op : Nat) (a b : BitVec 64) : BitVec 64 :=
  let sh := b.toNat % 64
  match op with
  | 0 => a + b
  | 1 => a - b
  | 2 => a * b
  | 3 => a &&& b
  | 4 => a ||| b
  | 5 => a ^^^ b
  | 6 => a <<< sh
  | 7 => a >>> sh
  | 8 => a.sshiftRight sh
  | 9 => if b.slt a then b else a
  | 10 => if a.slt b then b else a
  | 11 => if b.ult a then b else a
  | _ => if a.ult b then b else a

/-- A relation by its code (R218): EQ, NE, LT, LE, GT, GE of an order given by its strict part and equality. -/
def relHolds (rel : Nat) (lt eq gt : Bool) : Bool :=
  match rel with
  | 0 => eq
  | 1 => !eq
  | 2 => lt
  | 3 => lt || eq
  | 4 => gt
  | _ => gt || eq

/-- `CMP` on two's-complement or unsigned values. -/
def cmpInt (uns : Bool) (rel : Nat) (a b : BitVec 64) : Bool :=
  if uns then relHolds rel (a.ult b) (a == b) (b.ult a) else relHolds rel (a.slt b) (a == b) (b.slt a)

/-- A comparison of two values with −0 equal to +0; with a NaN every relation is false but NE (R182, R218). -/
def cmpVal (rel : Nat) (a b : Val) : Bool :=
  if a.isNan || b.isNan then rel = 1 else relHolds rel (Val.lt a b) (Val.eq a b) (Val.lt b a)

/-- `CMP` under `FPC`, on FP64 bit patterns. -/
def cmpFp (rel : Nat) (a b : BitVec 64) : Bool :=
  cmpVal rel (decodeElem .fp64 a.toNat) (decodeElem .fp64 b.toNat)

/-! ## Element operations -/

/-- NV of a signalling operand. -/
def snanFlag (vs : List Val) : Flags := if vs.any Val.isSnan then flagNV else 0#4

/-- Division (R110): a finite non-zero x over a zero is an infinity with OF; infinity over zero raises nothing. -/
def divVal (x y : Val) : Val × Flags :=
  if x.isNan || y.isNan then (.nan false, snanFlag [x, y])
  else
    let neg := x.isNeg != y.isNeg
    match x, y with
    | .zero _, .zero _ => (.nan false, flagNV)
    | .inf _, .inf _ => (.nan false, flagNV)
    | .inf _, _ => (.inf neg, 0#4)
    | _, .inf _ => (.zero neg, 0#4)
    | .fin _, .zero _ => (.inf neg, flagOF)
    | .zero _, _ => (.zero neg, 0#4)
    | .fin a, .fin b => (.fin (Q.div a b), 0#4)
    | _, _ => (.nan false, 0#4)

/-- Bits kept of a root before its one rounding: enough for every destination format. -/
def rootBits : Nat := 160

/-- Square root (R110): −0 for −0, NV below zero. -/
def sqrtVal (x : Val) : Val × Flags :=
  match x with
  | .nan s => (.nan false, if s then flagNV else 0#4)
  | .zero n => (.zero n, 0#4)
  | .inf false => (.inf false, 0#4)
  | .inf true => (.nan false, flagNV)
  | .fin q => if q.isNeg then (.nan false, flagNV) else (.fin (q.sqrtSticky rootBits), 0#4)

/-- Reciprocal square root (R110): ±∞ with OF for ±0, +0 for +∞. -/
def rsqrtVal (x : Val) : Val × Flags :=
  match x with
  | .nan s => (.nan false, if s then flagNV else 0#4)
  | .zero n => (.inf n, flagOF)
  | .inf false => (.zero false, 0#4)
  | .inf true => (.nan false, flagNV)
  | .fin q => if q.isNeg then (.nan false, flagNV) else (.fin (q.inv.sqrtSticky rootBits), 0#4)

/-- `a × b + c` exactly, with the zero rule of R181. -/
def fmaVal (mode : Nat) (a b c : Val) : Val × Flags :=
  let p := Val.mul a b
  let r := Val.add mode p.1 c
  (r.1, p.2 ||| r.2 ||| snanFlag [c])

/-- The order of `VE_MAX` and `VE_MIN`, in which −0 is below +0. -/
def ltZero (a b : Val) : Bool :=
  match a, b with
  | .zero n, .zero m => n && !m
  | a, b => Val.lt a b

/-- Larger of two values; any NaN gives the canonical NaN (R182). -/
def maxVal (a b : Val) : Val × Flags :=
  if a.isNan || b.isNan then (.nan false, snanFlag [a, b]) else (if ltZero a b then b else a, 0#4)
/-- Smaller of two values. -/
def minVal (a b : Val) : Val × Flags :=
  if a.isNan || b.isNan then (.nan false, snanFlag [a, b]) else (if ltZero b a then b else a, 0#4)
/-- Magnitude; a NaN gives the canonical NaN. -/
def absVal (a : Val) : Val × Flags :=
  if a.isNan then (.nan false, snanFlag [a]) else (a.abs, 0#4)

/-- The exact result of a floating-point vector operation (R181, R182); the conversion keeps a signalling NaN, whose
NV comes from Table 3.7. -/
def veResult (op : Op) (mode : Nat) (a b c : Val) : Val × Flags :=
  match op with
  | .veAdd => Val.add mode a b
  | .veSub => Val.add mode a b.neg
  | .veMul => Val.mul a b
  | .veFma => fmaVal mode a b c
  | .veMax => maxVal a b
  | .veMin => minVal a b
  | .veAbs => absVal a
  | _ => (a, 0#4)

/-- Rounding an exact fraction `n / 2 ^ sh` to an integer in a mode (R188). -/
def roundShift (mode : Nat) (n : Int) (sh : Nat) : Int :=
  let k := roundMag mode (decide (n < 0)) 0 n.natAbs (2 ^ sh)
  if n < 0 then -(k : Int) else k

/-- Saturation to a range: the value and whether it saturated. -/
def saturate (lo hi x : Int) : Int × Bool :=
  if x < lo then (lo, true) else if hi < x then (hi, true) else (x, false)

/-- The exact result of a fixed-point operation before saturation (R188). -/
def fixedResult (op : Op) (mode sh : Nat) (a b : Int) : Int :=
  match op with
  | .veQadd => a + b
  | .veQsub => a - b
  | .veQmulr => roundShift mode (a * b) sh
  | _ => roundShift mode a sh

end Sys2Proof.Machine
end

