-- ==== Sys2Proof/Machine/Operands.lean ====
section
/-! DEFINITION. Operands.lean: tensor descriptors (R212, R213), operand slots (R211, R214), element addresses, reading
values with every scale kind (R58 to R73), and writing the elements of a destination block by block (R141, R187). -/

namespace Sys2Proof.Machine

open Sys2Proof

/-! ## Descriptors -/

/-- Number of elements. -/
def Desc.size (d : Desc) : Nat := d.ext.foldl (· * ·) 1
/-- Extent of a dimension; 1 above `NDIM` (R213). -/
def Desc.extOf (d : Desc) (k : Nat) : Nat := d.ext.getD k 1
/-- Byte stride of dimension 1, 2 or 3. -/
def Desc.strideOf (d : Desc) (k : Nat) : Int := d.stride.getD (k - 1) 0
/-- The format; a descriptor that passed `parseDesc` has one. -/
def Desc.format (d : Desc) : Fmt := (Fmt.ofCode d.fmt).getD .fp64
def Desc.checked (d : Desc) : Bool := d.ckpol = 0
def Desc.calibrated (d : Desc) : Bool := d.calPtr ≠ 0
/-- Group length of kind 4 (Table 8.4). -/
def Desc.group (d : Desc) : Nat := 32 * 2 ^ d.glen

/-- A descriptor from its 64 bytes; none where it breaks R58, R59, R64, R66, R68, R72 or R213, or has a reserved bit. -/
def parseDesc (b : List Byte) : Option Desc :=
  let w (i : Nat) : Nat := fieldAt b (8 * i) 8
  let ndim := bitsOf (w 0) 56 2
  let raw := [bitsOf (w 1) 0 32, bitsOf (w 1) 32 32, bitsOf (w 2) 0 32, bitsOf (w 2) 32 32]
  let sraw := [bitsOf (w 3) 0 40, bitsOf (w 4) 0 40, bitsOf (w 5) 0 40]
  let d : Desc :=
    { base := bitsOf (w 0) 0 48
      fmt := bitsOf (w 0) 48 5
      skind := bitsOf (w 0) 53 3
      ndim := ndim
      ckpol := bitsOf (w 0) 58 2
      glen := bitsOf (w 0) 60 2
      ext := raw.take (ndim + 1)
      stride := (sraw.take ndim).map (fun x => signExt 40 x)
      tid := bitsOf (w 3) 40 24
      aglen := bitsOf (w 4) 40 24
      scalePtr := bitsOf (w 6) 0 48
      calPtr := bitsOf (w 7) 0 48 }
  let reserved := bitsOf (w 0) 62 2 = 0 && bitsOf (w 5) 40 24 = 0 && bitsOf (w 6) 48 16 = 0 && bitsOf (w 7) 48 16 = 0
  let above := (raw.drop (ndim + 1)).all (· = 0) && (sraw.drop ndim).all (· = 0)
  match Fmt.ofCode d.fmt with
  | none => none
  | some f =>
    let e0 := d.extOf 0
    let ok := reserved && above && f.kinds.contains d.skind && decide (d.ckpol ≤ 1)
      && (d.skind = 4 || d.glen = 0) && ((d.skind = 5) = (d.aglen ≠ 0)) && (d.skind ≠ 0 || d.scalePtr = 0)
      && d.ext.all (fun x => decide (1 ≤ x)) && decide (d.size ≤ 2 ^ 42)
      && (!f.is4bit || e0 % 2 = 0) && (!f.isMx || e0 % 32 = 0) && (d.skind ≠ 4 || e0 % d.group = 0)
    if ok then some d else none

/-- The destination rule of a calibrated descriptor (R83). -/
def Desc.calOk (d : Desc) : Bool :=
  !d.calibrated || (d.format.emaxCal.isSome && (d.skind = 1 || d.skind = 2) && d.calPtr % 64 = 0)

/-- The indices of a linear element: dimension 0 fastest (R213). -/
def Desc.index (d : Desc) (e : Nat) : Nat × Nat × Nat × Nat :=
  let e0 := d.extOf 0
  let e1 := d.extOf 1
  let e2 := d.extOf 2
  (e % e0, e / e0 % e1, e / (e0 * e1) % e2, e / (e0 * e1 * e2))

/-- Byte address of the first byte of a linear element, modulo 2^48. -/
def Desc.addr (d : Desc) (e : Nat) : Nat :=
  let (i0, i1, i2, i3) := d.index e
  let off : Int := ((i0 * d.format.bits / 8 : Nat) : Int) + d.strideOf 1 * i1 + d.strideOf 2 * i2 + d.strideOf 3 * i3
  ((d.base + off) % ((2 ^ 48 : Nat) : Int)).toNat

/-- Bytes one element touches. -/
def Desc.elemBytes (d : Desc) : Nat := if d.format.is4bit then 1 else d.format.bits / 8

/-- Whether a 4-bit element is the upper nibble of its byte (R64). -/
def Desc.upper (d : Desc) (e : Nat) : Bool := d.format.is4bit && (d.index e).1 % 2 = 1

/-- The byte addresses of an element. -/
def Desc.bytesOf (d : Desc) (e : Nat) : List Nat := vaRange (d.addr e) d.elemBytes

/-- The linear index of an element by its indices. -/
def Desc.linear (d : Desc) (i0 i1 i2 i3 : Nat) : Nat :=
  i0 + d.extOf 0 * (i1 + d.extOf 1 * (i2 + d.extOf 2 * i3))

/-- Rows start on 16-byte boundaries (R114). -/
def Desc.aligned (d : Desc) : Bool :=
  d.base % 16 = 0 && [1, 2, 3].all (fun k => d.extOf k ≤ 1 || d.strideOf k % 16 = 0)

/-- Equal extents in every dimension. -/
def Desc.sameExt (a b : Desc) : Bool := [0, 1, 2, 3].all (fun k => a.extOf k = b.extOf k)
/-- Extents of `b` equal `a`'s, or 1 (R180). -/
def Desc.broadcastOf (b a : Desc) : Bool := [0, 1, 2, 3].all (fun k => b.extOf k = a.extOf k || b.extOf k = 1)
/-- The element of a broadcast operand that serves element `e` of `a` (R180). -/
def Desc.broadcastIndex (b a : Desc) (e : Nat) : Nat :=
  let (i0, i1, i2, i3) := a.index e
  let f (k i : Nat) : Nat := if b.extOf k = 1 then 0 else i
  b.linear (f 0 i0) (f 1 i1) (f 2 i2) (f 3 i3)

/-! ## Slots (R211, R214) -/

/-- The effective base of a slot: `BASE + A[AIDX] + OFF`, `OFF` sign-extended, modulo 2^48. -/
def effective (base : Nat) (a : BitVec 64) (x : OpSlot) : Nat :=
  ((base + (a.toNat : Int) + signExt 32 x.off.toNat) % ((2 ^ 48 : Nat) : Int)).toNat

/-- The 64 bytes of descriptor `i` of a tile's table (R208). -/
def State.descBytes (s : State) (t i : Nat) : List Byte :=
  let base := fieldOf ((s.tile t).reg .sq 0x98) 0 22
  (List.range 64).map (fun k => s.storeByte t (base + 64 * i + k))

/-- Descriptor `i` as the engine reads it at dispatch; none where it is bad or beyond `SQ_DESC_COUNT` (R213). -/
def State.descAt (s : State) (t i : Nat) : Option Desc :=
  if i < fieldOf ((s.tile t).reg .sq 0xA0) 0 13 then parseDesc (s.descBytes t i) else none

/-- The page of an address has its frame in a range of physical memory, whatever accesses it allows. A page without a frame
lies nowhere. -/
def State.pageIn (s : State) (j lo size va : Nat) : Bool :=
  let e := SMap.get {} (s.job j).pages (va % 2 ^ 48 / 0x200000)
  if e.mapped then
    let pa := e.frame * 0x200000 + va % 0x200000
    decide (lo ≤ pa) && decide (pa < lo + size)
  else false

/-- The page of an address is not mapped, and `DEFER` does not promise it a frame: its access is left to the probe. -/
def State.unplaced (s : State) (j va : Nat) : Bool :=
  let e := SMap.get {} (s.job j).pages (va % 2 ^ 48 / 0x200000)
  !e.mapped && !e.defer

/-- A `LOCAL` tensor lies wholly in the issuing tile's own store (R213). -/
def State.localOk (s : State) (t j : Nat) (d : Desc) : Bool :=
  d.checked || (List.range d.size).all (fun e => (d.bytesOf e).all (s.pageIn j (tileBase t) 0x400000))

/-- All bytes of a piece, or none where one is missing. -/
def allBytes (bs : List (Option Byte)) : Option (List Byte) :=
  if bs.all Option.isSome then some (bs.filterMap id) else none

/-- The bytes of a field as memory shows them, unverified; none where a page of it does not translate. -/
def State.peekField (s : State) (j va n : Nat) : Option (List Byte) :=
  allBytes ((vaRange va n).map (fun a =>
    match s.translate j a false with
    | .ok pa c => some (s.store.byte c pa)
    | _ => none))

/-- What a slot gives a command at dispatch; none for a bad descriptor. `sreg` and `areg` are the issuing registers. -/
def State.slotVal (s : State) (t j : Nat) (areg : Nat → BitVec 64) (u : SlotUse) (x : OpSlot) : Option SlotVal :=
  let tensor : Option SlotVal :=
    match s.descAt t x.didx.toNat with
    | none => none
    | some d =>
      let d := { d with base := effective d.base (areg x.aidx.toNat) x }
      if s.localOk t j d then some (.tensor d) else none
  match u with
  | .reserved => some .none
  | .ignored => some .none
  | .imm _ => some (.imm x.off)
  | .address => some (.address (effective 0 (areg x.aidx.toNat) x))
  | .scalar => some (.scalar ((s.tile t).sreg (x.off.toNat % 32)))
  | .operand => if x.didx = 0xFFF#12 then some (.scalar ((s.tile t).sreg (x.off.toNat % 32))) else tensor
  | .tensor => tensor

/-- The descriptor of a slot value. -/
def SlotVal.desc : SlotVal → Option Desc
  | .tensor d => some d
  | _ => Option.none
def SlotVal.addrVal : SlotVal → Nat
  | .address a => a
  | _ => 0
def SlotVal.immVal : SlotVal → BitVec 32
  | .imm v => v
  | _ => 0#32

/-! ## Reading -/

/-- The first failure of a read, with its address (R142, R187). -/
abbrev ReadErr := Option (Status × Nat)

/-- The earlier of two failures. -/
def firstErr (a b : ReadErr) : ReadErr := if a.isSome then a else b

/-- Verifying blocks one after another: the ones that fail and the first failure. -/
def State.verifyAll (s : State) (checked : Bool) : List (Nat × Bool) → List Nat × ReadErr × State
  | [] => ([], none, s)
  | (blk, cached) :: bs =>
    let r : Option Status × State :=
      if checked then
        match s.store.verify cached blk with
        | (some e, st) => (some e, s.takeStore st)
        | (none, st) => (none, s.withStore st)
      else if s.store.poisonedAt cached blk then (some stPoisoned, s)
      else (none, s)
    let rest := State.verifyAll r.2 checked bs
    match r.1 with
    | some e => (blk :: rest.1, some (e, blk * 4096), rest.2.2)
    | none => rest

/-- The pages of a list of addresses, with what translation says of each. -/
def State.pageList (s : State) (j : Nat) (write : Bool) (vas : List Nat) : List (Nat × Xlate) :=
  (pagesOf vas).map (fun va => (va, s.translate j va write))

/-- The first page that a fault could resolve (R249). -/
def deferred (ps : List (Nat × Xlate)) : Option Nat := (ps.find? (fun p => p.2 == .defer)).map Prod.fst
/-- The first page that fails. -/
def pageErr (ps : List (Nat × Xlate)) : ReadErr :=
  match ps.find? (fun p => p.2 == .fault || p.2 == .lost) with
  | some (va, .lost) => some (stTileLost, va)
  | some (va, _) => some (stTranslation, va)
  | none => none

/-- Reading bytes of a job's virtual space so that a failure spares the bytes that do not meet it. -/
def State.readLenient (s : State) (j : Nat) (checked : Bool) (vas : List Nat) :
    Access (List (Option Byte) × ReadErr) :=
  let pages := s.pageList j false vas
  match deferred pages with
  | some va => .fault va false s
  | none =>
    let xs := vas.map (fun va => s.translate j va false)
    let ok := xs.filterMap (fun x => match x with | .ok pa c => some (pa, c) | _ => none)
    let (bad, err, s) := s.verifyAll checked (blocksOf ok)
    let bytes := xs.map (fun x =>
      match x with
      | .ok pa c => if bad.contains (pa / 4096) then none else some (s.store.byte c pa)
      | _ => none)
    .ok (bytes, firstErr (pageErr pages) err) (s.sawRead (ok.map Prod.fst))

/-- Consecutive pieces of `n` items. -/
def chunksOf {α : Type} (n : Nat) : Nat → List α → List (List α)
  | 0, _ => []
  | k + 1, xs => xs.take n :: chunksOf n k (xs.drop n)

/-- The stored bits of elements of a tensor, in the order asked for. -/
def State.readElems (s : State) (j : Nat) (d : Desc) (idx : List Nat) : Access (List (Option Nat) × ReadErr) :=
  (s.readLenient j d.checked (idx.flatMap d.bytesOf)).bind fun r s =>
    let pieces := chunksOf d.elemBytes idx.length r.1
    let vals := (idx.zip pieces).map (fun x =>
      (allBytes x.2).map (fun bs =>
        let v := leNat bs
        if d.format.is4bit then (if d.upper x.1 then v / 16 else v % 16) else v))
    .ok (vals, r.2) s

/-- The record of a scale kind: bytes per record and the record that serves an element (Table 3.2). -/
def Desc.scaleRec (d : Desc) (e : Nat) : Nat × Nat :=
  match d.skind with
  | 1 => (8, 0)
  | 2 => (1, e / 32)
  | 3 => (32, 0)
  | 4 => (4, e / d.group)
  | 5 => (2, e / d.aglen)
  | _ => (0, 0)

/-- The bytes of the scale record that serves an element. -/
def Desc.scaleBytes (d : Desc) (e : Nat) : List Nat :=
  let r := d.scaleRec e
  if d.skind = 0 then [] else vaRange (d.scalePtr + r.1 * r.2) r.1

/-- Probing places element by element, each with whether it is written (R185, R275): a page that a fault may resolve stops it,
and the first that fails gives its element, status and address. -/
def State.probeElems (s : State) (j : Nat) : List (Nat × List (Nat × Bool)) → Access (Option (Nat × Status × Nat))
  | [] => .ok none s
  | (k, xs) :: rest =>
    match (xs.map (fun x => (x, s.translate j x.1 x.2))).find? (fun y => match y.2 with | .ok _ _ => false | _ => true) with
    | none => State.probeElems s j rest
    | some ((va, w), .defer) => .fault va w s
    | some ((va, _), .lost) => .ok (some (k, stTileLost, va)) s
    | some ((va, _), _) => .ok (some (k, stTranslation, va)) s

/-- The scale records that serve elements, each read once, as the bytes stored. The scale data follow the tensor's own
checksum policy (log 17). -/
def State.readScales (s : State) (j : Nat) (d : Desc) (idx : List Nat) :
    Access (SMap (Option Nat) × ReadErr) :=
  if d.skind = 0 || idx.isEmpty then .ok ([], none) s
  else
    let recs := dedup (idx.map (fun e => (d.scaleRec e).2))
    let n := (d.scaleRec 0).1
    (s.readLenient j d.checked (recs.flatMap (fun r => vaRange (d.scalePtr + n * r) n))).bind fun r s =>
      let pieces := chunksOf n recs.length r.1
      let m := (recs.zip pieces).foldl (fun (m : SMap (Option Nat)) x =>
        SMap.put m x.1 ((allBytes x.2).map leNat)) []
      .ok (m, r.2) s

/-- A tensor-scale slot's scale, if valid (R488). -/
def slotScale (w : Nat) : Option Q :=
  match decodeElem .fp32 (w % 2 ^ 32) with
  | .fin q => some q
  | _ => none

/-- The zero point of a group record (R72): none outside the element format's range. -/
def groupZero (f : Fmt) (w : Nat) : Option Int :=
  let z : Int := if f = .int4 then signExt 8 (w / 2 ^ 16) else ((w / 2 ^ 16 % 256 : Nat) : Int)
  match f.intRange with
  | some (lo, hi) => if lo ≤ z && z ≤ hi then some z else none
  | none => none

/-- The value of a stored element under its scale record (Table 3.2, R66 to R73); none where the record is invalid and
the command must halt (R72, R488). A product with a non-finite group scale follows IEEE 754 without a flag (log 18). Bits
[31:24] of a group record, which are reserved, are ignored (DESIGN CHOICE, log 114). -/
def elemValue (d : Desc) (bits sc : Nat) : Option Val :=
  let v := decodeElem d.format bits
  match d.skind with
  | 0 => some v
  | 1 => (slotScale sc).map v.scale
  | 2 => if sc = 255 then some (.nan false) else some (v.scale (Q.pow2 ((sc : Int) - 127)))
  | 3 => some (decodeElem .fp16 (bitsOf sc (16 * bits) 16))
  | 4 =>
    (groupZero d.format sc).map (fun z =>
      (Val.mul (Val.ofQ (Q.ofInt (v.q.num - z)) false) (decodeElem .fp16 (sc % 2 ^ 16))).1)
  | _ => some (v.scale (Q.pow2 (signExt 16 sc - 166)))

/-- Values read from a tensor, with the stored bits they came from. -/
structure ReadVals where
  vals : List (Option Val)
  err : ReadErr
  bits : List (Option Nat)

/-- The values of elements of a tensor (R71): elements, then the scale records that serve them. -/
def State.readVals (s : State) (j : Nat) (d : Desc) (idx : List Nat) : Access ReadVals :=
  (s.readElems j d idx).bind fun r s =>
    (s.readScales j d idx).bind fun m s =>
      let known := (idx.zip r.1).map (fun x =>
        (x.2, if d.skind = 0 then some 0 else SMap.get none m.1 (d.scaleRec x.1).2))
      let bad := (idx.zip known).find? (fun x =>
        match x.2 with
        | (some b, some sc) => (elemValue d b sc).isNone
        | _ => false)
      match bad with
      | some x => .fail stDescBad ((d.scalePtr + (d.scaleRec x.1).1 * (d.scaleRec x.1).2) % 2 ^ 48) s
      | none =>
        .ok ⟨known.map (fun x =>
          match x with
          | (some b, some sc) => elemValue d b sc
          | _ => none), firstErr r.2 m.2, r.1⟩ s

/-- All elements of a tensor. -/
def Desc.all (d : Desc) : List Nat := List.range d.size

/-- A contiguous field that must be read whole: its bytes, or the failure. -/
def State.readWhole (s : State) (j va n : Nat) : Access (List Byte) := s.readField j va n

/-! ## Writing -/

/-- An element as it is to be written: its index, its bits if known, and the flags of its rounding. -/
structure OutElem where
  e : Nat
  bits : Option Nat
  flags : Flags

/-- The byte writes of elements of a tensor; the other nibble of a 4-bit element's byte keeps its value. -/
def State.elemWrites (s : State) (j : Nat) (d : Desc) (outs : List OutElem) : List (Nat × Byte) :=
  let old (va : Nat) : Byte :=
    match s.translate j va true with
    | .ok pa c => s.store.byte c pa
    | _ => 0#8
  if d.format.is4bit then
    let m : SMap (Option Byte) := outs.foldl (fun m o =>
      match o.bits with
      | none => m
      | some b =>
        let va := d.addr o.e
        let cur := ((SMap.get none m va).getD (old va)).toNat
        let v := if d.upper o.e then cur % 16 + 16 * (b % 16) else cur / 16 * 16 + b % 16
        SMap.put m va (some (BitVec.ofNat 8 v))) []
    (dedup (outs.map (fun o => d.addr o.e))).filterMap (fun va => (SMap.get none m va).map (fun b => (va, b)))
  else
    outs.flatMap (fun o =>
      match o.bits with
      | none => []
      | some b => (d.bytesOf o.e).zip (leBytes d.elemBytes b))

/-- What a destination comes to: the flags of the results it holds, the failure, and the elements written. -/
structure Written where
  flags : Flags
  err : ReadErr
  outs : List OutElem := []

/-- The bytes of a 4-bit tensor of which only one nibble is written: the other keeps its value, so that their blocks are
verified like partly written ones (R262). -/
def Desc.halfBytes (d : Desc) (outs : List OutElem) : List Nat :=
  if !d.format.is4bit then []
  else
    let ws := outs.filter (fun o => o.bits.isSome)
    (ws.filter (fun o => !(ws.any (fun p => d.addr p.e = d.addr o.e && d.upper p.e != d.upper o.e)))).map (fun o => d.addr o.e)

/-- Physical writes of virtual ones that translate. -/
def State.physWrites (s : State) (j : Nat) (ws : List (Nat × Byte)) : List (Nat × Bool × Byte) :=
  ws.filterMap (fun w =>
    match s.translate j w.1 true with
    | .ok pa c => some (pa, c, w.2)
    | _ => none)

/-- Blocks that must be read before they are written: those not covered whole by bytes other than the `half` ones, which
keep a part of their old value (R262). -/
def partialBlocks (half : List Nat) (ps : List (Nat × Bool × Byte)) : List (Nat × Bool) :=
  (blocksOf (ps.map (fun p => (p.1, p.2.1)))).filter (fun b =>
    !(coversBlock b.1 ((ps.filter (fun p => p.1 / 4096 = b.1 && !(half.contains p.1))).map (fun p => (p.1, p.2.2)))))

/-- Whether the free choice of R141 gives block number `i` of a failing command its new contents. -/
def State.choice (s : State) (i : Nat) : Bool := Config.freeBool (s.fresh + i)

/-- Writing a destination (R141, R187). All pages are probed first (R185) and all blocks that a partial write must read
are verified; without a failure every block is written. With one, no block is written, or under `mixed` each block whose
results are all known holds, by a free choice, its old or its new contents. `scales` are the scale bytes that go with
the elements, under their checksum policy: they are written with them, and a block scale is known only where all 32 results of
its block are. `recs` are the bytes of records, written only on success. What is kept of a failing command are the elements
whose block, and whose block scale's block, are new. -/
def State.putDest (s : State) (j : Nat) (d : Desc) (outs : List OutElem) (scales recs : List (Nat × Byte))
    (mixed : Bool) (failed : ReadErr) : Access Written :=
  let short := dedup ((outs.filter (fun o => o.bits.isNone)).map (fun o => o.e / 32))
  let outs := if d.skind = 2 then outs.map (fun o => if short.contains (o.e / 32) then { o with bits := none } else o) else outs
  let gone := if d.skind = 2 then short.map (fun b => (d.scalePtr + b) % 2 ^ 48) else []
  let scales := scales.filter (fun x => !(gone.contains x.1))
  let ws := s.elemWrites j d outs
  let missing := (outs.filter (fun o => o.bits.isNone)).flatMap (fun o => d.bytesOf o.e) ++ gone
  let pages := s.pageList j true (ws.map Prod.fst ++ missing ++ (scales ++ recs).map Prod.fst)
  match deferred pages with
  | some va => .fault va true s
  | none =>
    let ps := s.physWrites j (ws ++ scales)
    let rs := s.physWrites j recs
    let half := (s.physWrites j ((d.halfBytes outs).map (fun va => (va, 0#8)))).map (fun p => p.1)
    let (bad, err, s) := s.verifyAll d.checked (partialBlocks half ps)
    let (_, err2, s) := s.verifyAll true (partialBlocks [] rs)
    let err := firstErr failed (firstErr (pageErr pages) (firstErr err err2))
    match err with
    | none =>
      let put (s : State) (checked : Bool) (xs : List (Nat × Bool × Byte)) : Access Unit :=
        s.writeBlocks checked (xs.map (fun p => (p.1, p.2.2))) (blocksOf (xs.map (fun p => (p.1, p.2.1))))
      (put s d.checked ps).bind fun _ s => (put s true rs).bind fun _ s =>
        .ok ⟨outs.foldl (fun f o => f ||| o.flags) 0#4, none, outs⟩ s
    | some e =>
      if !mixed then .ok { flags := 0#4, err := some e } s
      else
        let missed := (s.physWrites j (missing.map (fun va => (va, 0#8)))).map (fun p => p.1 / 4096)
        -- a tensor scale follows its conversion, which has not completed
        let fs := s.physWrites j (if d.skind = 2 then ws ++ scales else ws)
        let blocks := blocksOf (fs.map (fun p => (p.1, p.2.1)))
        let chosen := ((List.range blocks.length).zip blocks).filter (fun b =>
          !(bad.contains b.2.1) && !(missed.contains b.2.1) && s.choice b.1)
        let new := chosen.map Prod.snd
        let isNew (va : Nat) : Bool :=
          match s.translate j va true with
          | .ok pa _ => new.any (fun b => b.1 = pa / 4096)
          | _ => false
        let kept := outs.filter (fun o =>
          o.bits.isSome && isNew (d.addr o.e) && (d.skind ≠ 2 || isNew ((d.scalePtr + o.e / 32) % 2 ^ 48)))
        let s := { s with fresh := s.fresh + blocks.length }
        (s.writeBlocks d.checked (fs.map (fun p => (p.1, p.2.2))) new).bind fun _ s =>
          .ok ⟨kept.foldl (fun f o => f ||| o.flags) 0#4, some e, kept⟩ s

end Sys2Proof.Machine
end

