-- ==== Sys2Proof/Machine/Convert.lean ====
section
/-! DEFINITION. Convert.lean: the one conversion that every engine uses to write a destination (R74 to R81), with block
scales (R82, R119), calibration records and their merge (R83 to R89), the in-step redo, and the statistics of R55. -/

namespace Sys2Proof.Machine

open Sys2Proof

/-! ## The block rule (R82) -/

/-- Largest of exact magnitudes. -/
def maxQ (qs : List Q) : Q := qs.foldl Q.max Q.zero

/-- The magnitudes of the finite values. -/
def magnitudes (vs : List Val) : List Q := (vs.filter Val.isFinite).map (fun v => v.q.abs)

def clampInt (lo hi x : Int) : Int := max lo (min hi x)

/-- The block rule: k of a block's largest magnitude. -/
def blockK (f : Fmt) (m : Q) : Int :=
  if m.isZero then 0
  else
    let k := m.floorLog2 - f.emaxCal.getD 0
    let k := if Q.lt f.maxFin (Q.mul m (Q.pow2 (-k))) then k + 1 else k
    clampInt (-127) 127 k

/-! ## Calibration records (R83 Table 3.10) -/

/-- A calibration record as its fields. `amax` holds the stored FP64 bits of the 16 slots. -/
structure CalRec where
  depth : Nat
  clip : Bool
  delayed : Bool
  margin : Nat
  hbase : Int
  satLimit : Nat
  clipCount : Nat
  histPtr : Nat
  valid : Nat
  head : Nat
  zeros : Nat
  nonfinite : Nat
  amax : List Nat
  steps : List Nat
  cur : List Nat
  last : List Nat

/-- Slots held, newest first. -/
def CalRec.held (r : CalRec) : List Nat := (List.range r.valid).map (fun i => (r.head + 16 - i) % 16)

/-- The amax of a slot; −0 counts as 0. -/
def CalRec.amaxOf (r : CalRec) (k : Nat) : Val := decodeElem .fp64 (r.amax.getD k 0)

/-- A record from its 576 bytes; none where it is bad (R83). -/
def parseCal (b : List Byte) : Option CalRec :=
  let cfg := fieldAt b 0 8
  let r : CalRec :=
    { depth := bitsOf cfg 0 5
      clip := cfg.testBit 5
      delayed := cfg.testBit 6
      margin := bitsOf cfg 8 4
      hbase := signExt 16 (bitsOf cfg 16 16)
      satLimit := fieldAt b 0x08 8
      clipCount := fieldAt b 0x10 8
      histPtr := fieldAt b 0x18 8
      valid := fieldAt b 0x20 2
      head := fieldAt b 0x22 2
      zeros := fieldAt b 0x28 8
      nonfinite := fieldAt b 0x30 8
      amax := (List.range 16).map (fun i => fieldAt b (0x40 + 16 * i) 8)
      steps := (List.range 16).map (fun i => fieldAt b (0x48 + 16 * i) 8)
      cur := (List.range 32).map (fun i => fieldAt b (0x140 + 4 * i) 4)
      last := (List.range 32).map (fun i => fieldAt b (0x1C0 + 4 * i) 4) }
  let reserved := bitsOf cfg 32 32 = 0 && bitsOf cfg 7 1 = 0 && bitsOf cfg 12 4 = 0 && fieldAt b 0x24 4 = 0
    && fieldAt b 0x38 8 = 0
  let held := r.held.all (fun k =>
    match r.amaxOf k with
    | .zero _ => true
    | .fin q => !q.isNeg
    | _ => false)
  if reserved && decide (1 ≤ r.depth) && decide (r.depth ≤ 16) && decide (r.valid ≤ 16) && decide (r.head ≤ 15) && held
  then some r else none

/-- The bytes of a record's fields that the device maintains, from offset 0x20. -/
def CalRec.bytes (r : CalRec) : List Byte :=
  leBytes 2 r.valid ++ leBytes 2 r.head ++ leBytes 4 0 ++ leBytes 8 r.zeros ++ leBytes 8 r.nonfinite ++ leBytes 8 0
    ++ (r.amax.zip r.steps).flatMap (fun x => leBytes 8 x.1 ++ leBytes 8 x.2)
    ++ r.cur.flatMap (leBytes 4) ++ r.last.flatMap (leBytes 4)

/-- One set of the histogram store (R84, R195). -/
structure HistSet where
  buckets : List Nat
  amax : Q
  zeros : Nat
  nonfinite : Nat

/-- The set filled from the source elements of a conversion (R84). -/
def histOf (hbase : Int) (vs : List Val) : HistSet :=
  let nz := vs.filter (fun v => v.isFinite && !v.isZero)
  let bucket (v : Val) : Nat := (clampInt 0 31 (v.q.floorLog2 - hbase)).toNat
  { buckets := (List.range 32).map (fun b => min 0xFFFFFFFF ((nz.filter (fun v => bucket v = b)).length))
    amax := maxQ (nz.map (fun v => v.q.abs))
    zeros := (vs.filter Val.isZero).length
    nonfinite := (vs.filter (fun v => !v.isFinite)).length }

/-- The update opens a new entry (R85). -/
def CalRec.opens (r : CalRec) (n : Nat) : Bool := r.valid = 0 || r.steps.getD r.head 0 ≠ n

/-- The merge of a conversion into the record (R85). DESIGN CHOICE (log 116): an amax that FP64 does not hold, which an exact
result may be, is stored rounded once by RNE. -/
def CalRec.merge (r : CalRec) (n : Nat) (h : HistSet) : CalRec :=
  let r :=
    if r.opens n then
      let head := (r.head + 1) % 16
      { r with last := r.cur, cur := List.replicate 32 0, head := head, amax := r.amax.set head 0
               steps := r.steps.set head n, valid := min (r.valid + 1) 16 }
    else r
  let old := (r.amaxOf r.head).q
  { r with
    amax := r.amax.set r.head (toF64 0 (Val.ofQ (Q.max old h.amax) false))
    cur := (r.cur.zip h.buckets).map (fun x => min 0xFFFFFFFF (x.1 + x.2))
    zeros := (r.zeros + h.zeros) % 2 ^ 64
    nonfinite := (r.nonfinite + h.nonfinite) % 2 ^ 64 }

/-- Entries stamped before step n, newest first, at most `DEPTH` (R86). -/
def CalRec.history (r : CalRec) (n : Nat) : List Nat :=
  (r.held.filter (fun k => decide (r.steps.getD k 0 < n))).take r.depth

/-- The exponent of an amax with `MARGIN` and the mantissa test (R86). -/
def CalRec.amaxK (r : CalRec) (f : Fmt) (a : Q) : Int :=
  if a.isZero then 0
  else
    let k := a.floorLog2 - f.emaxCal.getD 0 + r.margin
    if Q.lt f.maxFin (Q.mul a (Q.pow2 (-k))) then k + 1 else k

/-- The largest bucket from which more than `CLIP_COUNT` elements lie (R86). -/
def clipBucket (g : List Nat) (limit : Nat) : Option Nat :=
  ((List.range 32).reverse).find? (fun b => decide (limit < (g.drop b).foldl (· + ·) 0))

/-- The first-pass exponent of a kind 1 destination (R86); `own` is this conversion's amax, used with no history. -/
def CalRec.tensorK (r : CalRec) (f : Fmt) (n : Nat) (own : Q) : Int :=
  let h := r.history n
  let a := if h.isEmpty then own else maxQ (h.map (fun k => (r.amaxOf k).q))
  let k := r.amaxK f a
  let stamp := r.steps.getD r.head 0
  let g : Option (List Nat) := if stamp < n then some r.cur else if stamp = n then some r.last else none
  let k :=
    if r.clip && !h.isEmpty then
      match g with
      | none => k
      | some g =>
        match clipBucket g r.clipCount with
        | some b => if b < 31 then min k (r.hbase + b - f.emaxCal.getD 0 + r.margin) else k
        | none => k
    else k
  clampInt (-149) 127 k

/-- The redo exponent of a kind 1 destination (R88). -/
def CalRec.redoK (r : CalRec) (f : Fmt) (own : Q) : Int := clampInt (-149) 127 (r.amaxK f own)

/-- The delayed exponent of a block from its 16 history bytes (R87). -/
def CalRec.delayedK (r : CalRec) (f : Fmt) (n : Nat) (hist : List Byte) : Option Int :=
  let bs := ((r.history n).map (fun k => (hist.getD k 0#8).toNat)).filter (· ≠ 0xFF)
  if bs.isEmpty then none
  else some (clampInt (-127) 127 (((bs.foldl max 0 : Nat) : Int) - 127 - f.emaxCal.getD 0 + r.margin))

/-- The history byte of a block's largest magnitude (R87). -/
def histByte (m : Q) : Nat := if m.isZero then 0xFF else (clampInt 0 254 (m.floorLog2 + 127)).toNat

/-- Merging history bytes: the larger, 0xFF below every other (R87). -/
def mergeHist (a b : Nat) : Nat := if a = 0xFF then b else if b = 0xFF then a else max a b

/-! ## Rounding context -/

/-- How a command rounds: mode, SAT, and what the random words of R81 take. -/
structure RoundCtx where
  mode : Nat
  sat : Bool
  seed : Nat
  step : Nat
  entropy : Bool
  draw : Nat

/-- The random word for element e of a destination with tensor id tid (R80, R81): the generator, or a free value when
the job takes hardware entropy. -/
def RoundCtx.word (r : RoundCtx) (tid e : Nat) : Nat :=
  if r.mode ≠ 4 then 0
  else if r.entropy then (Config.freeWord (r.draw + e)).toNat % 2 ^ 32
  else rscWord r.seed tid 1 r.step e

def RoundCtx.round (r : RoundCtx) (tid e : Nat) : Round := ⟨r.mode, r.sat, r.word tid e⟩

/-- The rounding context of a command of a tile (R34, R81): DET forces the generator. -/
def State.roundCtx (s : State) (j : Nat) (step : BitVec 64) (mode : Nat) (sat : Bool) : RoundCtx :=
  let jb := s.job j
  { mode := mode, sat := sat, seed := jb.seed.toNat, step := step.toNat, entropy := jb.entropy && !jb.det
    draw := s.fresh }

/-- After a command that drew from hardware entropy, the draws are spent. -/
def State.spent (s : State) (r : RoundCtx) (n : Nat) : State :=
  if r.mode = 4 && r.entropy then { s with fresh := s.fresh + n } else s

/-! ## A destination -/

/-- A result for a destination: linear index, exact value if known, flags of the operation before rounding, and whether
the element is active. -/
structure Result where
  e : Nat
  v : Option Val
  flags : Flags
  act : Bool

/-- A conversion pass over results under scales by element. -/
def convertPass (d : Desc) (r : RoundCtx) (scale : Nat → Q) (rs : List Result) : List (Result × Option Narrowed) :=
  rs.map (fun x =>
    (x, x.v.map (fun v =>
      if x.act then convert d.format (scale x.e) v (r.round d.tid x.e) else ⟨0, 0#4, .ordinary⟩)))

/-- Overflows from finite sources (R88). -/
def overflows (ps : List (Result × Option Narrowed)) : Nat :=
  (ps.filter (fun p =>
    match p.2 with
    | some n => n.kind == .saturated && p.1.act
    | none => false)).length

/-- A planned destination: the pass, the scale of each element, and the bytes that go with it. -/
structure DestPlan where
  pass : List (Result × Option Narrowed)
  scale : Nat → Q
  scales : List (Nat × Byte)
  recs : List (Nat × Byte)
  redone : Bool

/-- Contiguous bytes as addressed writes. -/
def atVa (va : Nat) (bs : List Byte) : List (Nat × Byte) := (vaRange va bs.length).zip bs

/-- The destination's blocks of 32 that results touch. -/
def touched (rs : List Result) : List Nat := dedup (rs.map (fun x => x.e / 32))

/-- The largest magnitude of the active results of a block. -/
def blockMax (rs : List Result) (b : Nat) : Q :=
  maxQ (magnitudes (rs.filterMap (fun x => if x.e / 32 = b && x.act then x.v else none)))

/-- The record of a calibrated destination, read and checked (R83). -/
def State.readCal (s : State) (j : Nat) (d : Desc) : Access CalRec :=
  (s.readWhole j d.calPtr 576).bind fun b s =>
    match parseCal b with
    | some r => .ok r s
    | none => .fail stDescBad d.calPtr s

/-- The bytes a record's merge writes (R85). -/
def calWrites (d : Desc) (r : CalRec) : List (Nat × Byte) := atVa (d.calPtr + 0x20) r.bytes

/-- The record after a conversion is merged, with its block histories (R85, R87): the bytes to write. -/
def mergeWrites (d : Desc) (r : CalRec) (n : Nat) (h : HistSet) (hist : Nat → List Byte) (rs : List Result) :
    List (Nat × Byte) :=
  let r' := r.merge n h
  if d.skind = 2 && r.delayed then
    let opens := r.opens n
    let blocks := if opens then List.range (d.size / 32) else touched rs
    calWrites d r' ++ blocks.map (fun b =>
      let old := if opens then 0xFF else ((hist b).getD r'.head 0xFF#8).toNat
      ((r.histPtr + 16 * b + r'.head) % 2 ^ 48, BitVec.ofNat 8 (mergeHist old (histByte (blockMax rs b)))))
  else calWrites d r'

/-- The exponent scale of an FP32 slot (R86). -/
def slotBytes (k : Int) : List Byte := leBytes 4 (narrow .fp32 (.fin (Q.pow2 k)) ⟨0, false, 0⟩).bits

/-- Planning a destination of kind 0, 1 or 2 (R74, R82 to R89). Nothing is written yet. `redo` is set for the tile mover
alone (R88), `tile` stamps the slot (R89). -/
def State.planDest (s : State) (j tile : Nat) (d : Desc) (r : RoundCtx) (redo : Bool) (rs : List Result) :
    Access DestPlan :=
  let f := d.format
  let n := r.step
  let known := rs.filterMap (fun x => if x.act then x.v else none)
  let finish (scale : Nat → Q) (scales recs : List (Nat × Byte)) (redone : Bool) (s : State) : Access DestPlan :=
    .ok ⟨convertPass d r scale rs, scale, scales, recs, redone⟩ (s.spent r d.size)
  if d.skind = 0 then finish (fun _ => Q.ofInt 1) [] [] false s
  else if d.skind = 1 then
    (s.readScales j d [0]).bind fun m s =>
      match SMap.get none m.1 0, m.2 with
      | some w, none =>
        if !d.calibrated then
          match slotScale w with
          | some q => finish (fun _ => q) [] [] false s
          | none => .fail stDescBad d.scalePtr s
        else
          (s.readCal j d).bind fun c s =>
            if w % 2 ^ 32 ≠ 0 && bitsOf w 48 16 = n % 2 ^ 16 && bitsOf w 32 16 ≠ tile then
              .fail stDescBad d.scalePtr s
            else
              let h := histOf c.hbase known
              let k := c.tensorK f n h.amax
              let first := convertPass d r (fun _ => Q.pow2 k) rs
              let again := redo && decide (c.satLimit < overflows first)
              let k := if again then c.redoK f h.amax else k
              let slot := slotBytes k ++ leBytes 2 tile ++ leBytes 2 n
              finish (fun _ => Q.pow2 k) (atVa d.scalePtr slot)
                (mergeWrites d c n h (fun _ => []) rs) again s
      | _, e =>
        let (st, a) := e.getD (stDescBad, d.scalePtr)
        .fail st a s
  else
    let blocks := touched rs
    let byte (k : Int) : Byte := BitVec.ofNat 8 (k + 127).toNat
    let scalesOf (ks : SMap Int) : List (Nat × Byte) :=
      blocks.map (fun b => ((d.scalePtr + b) % 2 ^ 48, byte (SMap.get 0 ks b)))
    let scaleOf (ks : SMap Int) (e : Nat) : Q := Q.pow2 (SMap.get 0 ks (e / 32))
    let rule : SMap Int := blocks.foldl (fun m b => SMap.put m b (blockK f (blockMax rs b))) []
    if !d.calibrated then finish (scaleOf rule) (scalesOf rule) [] false s
    else
      (s.readCal j d).bind fun c s =>
        let h := histOf c.hbase known
        let all := List.range (d.size / 32)
        let readHist : Access (SMap (List Byte)) :=
          if c.delayed then
            (s.readWhole j c.histPtr (16 * all.length)).bind fun bs s =>
              .ok (all.foldl (fun m b => SMap.put m b (slice bs (16 * b) 16)) []) s
          else .ok [] s
        readHist.bind fun hist s =>
          let first : SMap Int :=
            if c.delayed then
              blocks.foldl (fun m b => SMap.put m b
                ((c.delayedK f n (SMap.get [] hist b)).getD (SMap.get 0 rule b))) []
            else rule
          let again := redo && decide (c.satLimit < overflows (convertPass d r (scaleOf first) rs))
          let ks := if again then rule else first
          finish (scaleOf ks) (scalesOf ks) (mergeWrites d c n h (SMap.get [] hist) rs) again s

/-- The elements of a plan as they are written. -/
def DestPlan.outs (p : DestPlan) : List OutElem :=
  p.pass.map (fun x =>
    match x.2 with
    | some n => ⟨x.1.e, some n.bits, x.1.flags ||| n.flags⟩
    | none => ⟨x.1.e, none, 0#4⟩)

/-- A destination written from results (R74, R141). A failure of a source leaves a calibrated or redone destination and
its record as they were. -/
def State.writeResults (s : State) (j tile : Nat) (d : Desc) (r : RoundCtx) (redo mixed : Bool) (rs : List Result)
    (failed : ReadErr) : Access (Written × Bool × DestPlan) :=
  if failed.isSome && (!mixed || d.calibrated) then
    .ok ({ flags := 0#4, err := failed }, false, ⟨[], fun _ => Q.zero, [], [], false⟩) s
  else
    (s.planDest j tile d r redo rs).bind fun p s =>
      (s.putDest j d p.outs p.scales p.recs mixed failed).bind fun w s => .ok (w, p.redone, p) s

/-! ## Statistics (R55 Table 2.9) -/

/-- The statistics record of a down conversion. DESIGN CHOICE (log 137): where no element qualifies for `MAX_REL_ERR`, the spec
gives 0 for it and nothing for `MAX_REL_INDEX`, which is 0 here. -/
def statsBytes (d : Desc) (p : DestPlan) : List Byte :=
  let rows := p.pass.filterMap (fun x =>
    match x.1.v, x.2 with
    | some v, some n => some (x.1.e, v, n)
    | _, _ => none)
  let err (x : Nat × Val × Narrowed) : Option (Nat × Q) :=
    match x.2.1 with
    | .fin q =>
      if x.2.2.kind == .saturated then none
      else
        let y := Q.mul (decodeElem d.format x.2.2.bits).q (p.scale x.1)
        some (x.1, Q.div (Q.sub y q).abs q.abs)
    | _ => none
  let best := (rows.filterMap err).foldl (fun (b : Option (Nat × Q)) x =>
    match b with
    | none => some x
    | some y => if Q.lt y.2 x.2 then some x else some y) none
  let count (k : NarrowKind) : Nat := (rows.filter (fun x => x.2.2.kind == k)).length
  let under := (rows.filter (fun x => x.2.2.kind == .underflow && !x.2.1.isZero)).length
  leBytes 8 (toF64 2 (Val.ofQ ((best.map Prod.snd).getD Q.zero) false)) ++ leBytes 8 ((best.map Prod.fst).getD 0)
    ++ leBytes 8 (count .saturated) ++ leBytes 8 under ++ leBytes 8 (count .nonfinite) ++ leBytes 8 rows.length
    ++ leBytes 4 (bit p.redone) ++ leBytes 12 0

end Sys2Proof.Machine
end

