-- ==== Sys2Proof/Machine/Product.lean ====
section
/-! DEFINITION. Product.lean: the exact sums that the matrix engine, the FP64 engine and the reduction unit share (R90 to
R107): the addends of an output, the folding of the short accumulators (R93 to R95), and the straggler passes that an
output takes (R100 to R103, R119). -/

namespace Sys2Proof.Machine

open Sys2Proof

/-- One addend as it arises: its exact value with every scale, the flags of its product, and the scale factor it was
formed under, by the records that served it. -/
structure Addend where
  v : Val
  flags : Flags
  key : Nat × Nat

/-- Ranges of Table 4.2: l and h of an operand. -/
def operandRange (d : Desc) : Int × Int :=
  match d.format with
  | .fp16 => (-24, 16)
  | .e4m3 | .mxE4m3 => (-9, 9)
  | .e5m2 | .mxE5m2 => (-16, 16)
  | .mxInt8 => (-6, 2)
  | .int8 | .uint8 => (0, 8)
  | .int16 => (0, 16)
  | .int4 | .uint4 => if d.skind = 3 || d.skind = 4 then (-24, 20) else (0, 4)
  | _ => (0, 1)

/-- The segment limit of an operand pair (R94). -/
def segmentLimit (a b : Int × Int) : Nat :=
  let span := a.2 + b.2 - a.1 - b.1
  min (2 ^ (95 - span).toNat) (2 ^ 32)

/-- The element enters a wide accumulator directly: BF16 and the formats that are not short (R90, R118). -/
def wideDirect (d : Desc) : Bool := d.format == .bf16 || !d.format.isShort

/-- The finite addends as they enter the wide accumulator: partials folded at the segment limit and where the factor
changes (R94). `cur` is the partial so far, with its key and count. -/
def foldPartials (limit : Nat) : Option (Nat × Nat) → Nat → Q → List Addend → List Q
  | key, _, cur, [] => if key.isNone then [] else [cur]
  | key, n, cur, a :: as =>
    match key with
    | none => foldPartials limit (some a.key) 1 a.v.q as
    | some k =>
      if k = a.key && n < limit then foldPartials limit (some k) (n + 1) (Q.add cur a.v.q) as
      else cur :: foldPartials limit (some a.key) 1 a.v.q as

/-- An output's sum: its exact result, the flags of its addends, and what the straggler test needs: the addends and the
merged partials counted, and what enters each member's wide accumulator. -/
structure OutSum where
  v : Val
  flags : Flags
  n : Nat
  wide : List (List Q)

/-- The exact sum of the addends of each member of a reduction split, one list without one (R99). `first` is the accumulate
input, which enters the master's wide accumulator by itself. A limit of 0 stands for addends that enter it directly.
DESIGN CHOICE (log 113): the accumulate input enters first, then the addends in the order of the list. -/
def sumAddends (mode limit : Nat) (first : Option Val) (parts : List (List Addend)) : OutSum :=
  let pre : List Val := match first with | some v => [v] | none => []
  let as := parts.flatten
  let all := pre.map (fun v => (v, 0#4)) ++ as.map (fun a => (a.v, a.flags))
  let (v, fl) := sumExact mode all
  let finite := all.all (fun x => x.1.isFinite)
  let enter (as : List Addend) : List Q :=
    if limit = 0 then as.map (fun a => a.v.q) else foldPartials limit none 0 Q.zero as
  let wide : List (List Q) :=
    if !finite then []
    else
      match parts.map enter with
      | [] => [pre.map Val.q]
      | x :: rest => (pre.map Val.q ++ x) :: rest
  ⟨v, fl, all.length + (parts.length - 1), wide⟩

/-- The further breakpoints of a block's largest output under scale kind 2 (R119): the powers of two and `MAXFIN` over
them, on both sides. -/
def scaleBreaks (f : Fmt) (x : Q) : List Q :=
  let l := if x.isZero then -1100 else x.floorLog2
  let mags := [l - 1, l, l + 1].flatMap (fun k => [Q.pow2 k, Q.mul f.maxFin (Q.pow2 (k - f.emaxCal.getD 0))])
  (mags ++ mags.map Q.neg).filter (fun b => Q.lt x b)

/-- Straggler passes of one output of a destination (R101), for its random word `r`. -/
def passesOf (d : Desc) (mode r : Nat) (scale : Q) (blockLargest : Bool) (o : OutSum) : Nat :=
  let next (x : Q) : Q :=
    let b := breakpointScaled d.format mode r scale x
    if blockLargest then (scaleBreaks d.format x).foldl (fun b c => if Q.lt c b then c else b) b else b
  if o.wide.isEmpty then 0 else countStragglers next o.n o.wide

/-- Straggler passes of each output of a planned destination. -/
def planPasses (d : Desc) (r : RoundCtx) (p : DestPlan) (outs : List (Nat × OutSum)) : List (Nat × Nat) :=
  outs.map (fun o =>
    let largest := d.skind = 2 && (outs.all (fun x =>
      x.1 / 32 ≠ o.1 / 32 || !(Q.lt o.2.v.q.abs x.2.v.q.abs)))
    (o.1, passesOf d r.mode (r.word d.tid o.1) (p.scale o.1) largest o.2))

/-- The straggler passes that a command ran: those of every output it wrote, and where it fails, by a free choice, those of
an output that was summed but not kept (R105, log 8). -/
def State.ranPasses (s : State) (d : Desc) (r : RoundCtx) (w : Written × Bool × DestPlan) (known : List (Nat × OutSum)) :
    List (Nat × Nat) × State :=
  let ps := planPasses d r w.2.2 known
  if w.1.err.isNone then (ps, s)
  else
    (((List.range ps.length).zip ps).filterMap (fun x =>
      if w.1.outs.any (fun o => o.e = x.2.1) || s.choice x.1 then some x.2 else none), { s with fresh := s.fresh + ps.length })

/-- The sum of the straggler passes of some outputs. -/
def sumPasses (ps : List (Nat × Nat)) : Nat := (ps.map Prod.snd).foldl (· + ·) 0

/-- Values by linear index. -/
def valueMap (idx : List Nat) (vs : List (Option Val)) : SMap (Option Val) :=
  (idx.zip vs).foldl (fun m x => SMap.put m x.1 x.2) []

/-- A successful result. -/
def okResult : CmdResult := ⟨.done, stOK, 0#4, 0, 0, [], [], 0, 0⟩
/-- A failed result. -/
def failResult (st : Status) (addr : Nat) : CmdResult := { okResult with outcome := .failed, status := st, addr := addr }

/-- The result of a command from what its destination came to. -/
def writtenResult (w : Written) (passes : Nat) : CmdResult :=
  match w.err with
  | none => { okResult with flags := w.flags, passes := passes }
  | some (st, a) => { failResult st a with flags := w.flags, passes := passes }

/-- The stage a command's work leads to. -/
def Access.stage (x : Access Stage) : Stage × State :=
  match x with
  | .ok st s => (st, s)
  | .fault va w s => (.fault va w, s)
  | .fail st a s => (.ready (failResult st a), s)

/-- A failure that comes after results were written: the command fails and commits the flags of those results (R111). -/
def Access.keeping (f : Flags) (x : Access Stage) : Access Stage :=
  match x with
  | .fail st a s => .ok (.ready { failResult st a with flags := f }) s
  | x => x

end Sys2Proof.Machine
end

