-- ==== Sys2Proof/Machine/Divide.lean ====
section
/-! DEFINITION. Divide.lean: the work of the divide and square-root unit (R150 to R154) and its forwarding buffer (R153). -/

namespace Sys2Proof.Machine

open Sys2Proof

/-- The exact result of a DSU operation with the flags of its special values (R110, R151). -/
def dsuValue (op : Op) (x y : Val) : Val × Flags :=
  match op with
  | .dsDiv => divVal x y
  | .dsSqrt => sqrtVal x
  | .dsRsqrt => rsqrtVal x
  | _ => divVal (.fin (Q.ofInt 1)) x

/-- FP64 or FP32 with scale kind 0 (R150). -/
def Desc.isFloat (d : Desc) : Bool := (d.format == .fp64 || d.format == .fp32) && d.skind = 0

/-- Checks 4 and 5 on a DSU command (R150, R114). -/
def dsuCheck (op : Op) (w : CmdWord) (v0 v1 v2 : SlotVal) : Option Status :=
  let ds := [v0.desc] ++ (if op == .dsDiv then [v1.desc] else []) ++ (if w.flag 4 then [] else [v2.desc])
  if ds.any Option.isNone then some stDescBad
  else
    let ds := ds.filterMap id
    let x := ds.headD ⟨0, 0, 0, 0, 0, 0, [], [], 0, 0, 0, 0⟩
    let dOk := match v2.desc with
      | some d => w.flag 4 || !d.calibrated
      | none => true
    if !(ds.all Desc.isFloat && ds.all (fun d => d.sameExt x) && dOk) then some stDescBad
    else if ds.all Desc.aligned then none
    else some stAlignment

/-- The results of a DSU command over all elements. -/
def State.dsuResults (s : State) (j : Nat) (c : EngineCmd) : Access (List Result × ReadErr) :=
  match c.s0.desc with
  | none => .fail stDescBad 0 s
  | some d =>
    (s.readVals j d d.all).bind fun vx s =>
      let readY : Access ReadVals :=
        match c.op, c.s1.desc with
        | .dsDiv, some y => s.readVals j y y.all
        | _, _ => .ok ⟨vx.vals, none, vx.bits⟩ s
      readY.bind fun vy s =>
        let rs := (d.all.zip (vx.vals.zip vy.vals)).map (fun x =>
          match x.2.1, x.2.2 with
          | some a, some b =>
            let r := dsuValue c.op a b
            (⟨x.1, some r.1, r.2, true⟩ : Result)
          | _, _ => ⟨x.1, none, 0#4, true⟩)
        .ok (rs, firstErr vx.err vy.err) s

/-- Results as forwarded: FP64, rounded once in the command's mode. -/
def forwardValues (mode : Nat) (rs : List Result) : List (BitVec 64) × Flags :=
  let ns := rs.map (fun x => (x.flags, narrow .fp64 (x.v.getD (.nan false)) ⟨mode, false, 0⟩))
  (ns.map (fun n => BitVec.ofNat 64 n.2.bits), ns.foldl (fun f n => f ||| n.1 ||| n.2.flags) 0#4)

/-- The groups of 16 of a list of results (R153). -/
def groupsOf (vs : List (BitVec 64)) : List (List (BitVec 64)) := chunksOf 16 ((vs.length + 15) / 16) vs

/-- The stage of a forwarding command that has put groups up to `next` into the buffer of 64 groups. -/
def State.forwardStage (s : State) (t : Nat) (groups : List (List (BitVec 64))) (next : Nat) (r : CmdResult) :
    Stage × State :=
  let x := s.tile t
  let room := 64 - x.fwd.length
  let now := (groups.drop next).take room
  let s := s.setTile t { x with fwd := x.fwd ++ now }
  let next := next + now.length
  (if groups.length ≤ next then .ready r else .forward next r, s)

/-- A failed producer's place in the buffer: behind the values that are in it or taken from it (R189). -/
def Tile.forwardFails (st : Status) (x : Tile) : Tile :=
  { x with fwdFail := x.fwdFail ++ [(x.taken.length + x.fwd.flatten.length, st)] }

/-- The work of a DSU command: to memory, or under `FWD` into the forwarding buffer. A failed forwarding command marks
the buffer, for its consumer fails with the same status (R189). -/
def State.dsuWork (s : State) (t j : Nat) (c : EngineCmd) : Stage × State :=
  let r := s.dsuResults j c
  if c.w.flag 4 then
    match r with
    | .fault va w s => (.fault va w, s)
    | .fail st a s => (.ready (failResult st a), s.modTile t (Tile.forwardFails st))
    | .ok (_, some (st, a)) s => (.ready (failResult st a), s.modTile t (Tile.forwardFails st))
    | .ok (rs, none) s =>
      let (vs, fl) := forwardValues c.w.mode rs
      s.forwardStage t (groupsOf vs) 0 { okResult with flags := fl }
  else
    Access.stage (r.bind fun x s =>
      match c.s2.desc with
      | none => .fail stDescBad 0 s
      | some d =>
        (s.writeResults j t d (s.roundCtx j c.step c.w.mode false) false true x.1 x.2).bind fun w s =>
          .ok (.ready (writtenResult w.1 0)) s)

/-- Going on with a forwarding command: its results are formed again from its sources, which nothing may have changed
(R223). -/
def State.dsuForward (s : State) (t j : Nat) (c : EngineCmd) (next : Nat) (r : CmdResult) : Stage × State :=
  match s.dsuResults j c with
  | .ok (rs, none) s => s.forwardStage t (groupsOf (forwardValues c.w.mode rs).1) next r
  | _ => (.forward next r, s)

end Sys2Proof.Machine
end

