-- ==== Sys2Proof/Machine/Matrix.lean ====
section
/-! DEFINITION. Matrix.lean: the work of the matrix engine and of the FP64 engine (chapter 5, R145 to R149): operand rules,
dense, 2:4 and block-sparse products, their destinations, the finished-tile queue, and cascades. -/

namespace Sys2Proof.Machine

open Sys2Proof

/-- A matrix problem: operands, destination, metadata or bitmap, mode 0 dense, 1 2:4, 2 block-sparse (Table 5.2), the
accumulate input and the rounding. -/
structure MatProblem where
  de : Bool
  a : Desc
  b : Desc
  d : Desc
  x : Option Desc
  mode : Nat
  accD : Bool
  rmode : Nat
  sat : Bool

/-- Rows and columns of an output tile (R115, R145). -/
def MatProblem.unit (p : MatProblem) : Nat := if p.de then 32 else 128
def MatProblem.k (p : MatProblem) : Nat := p.a.extOf 0
def MatProblem.m (p : MatProblem) : Nat := p.d.extOf 1
def MatProblem.n (p : MatProblem) : Nat := p.d.extOf 0
def MatProblem.batches (p : MatProblem) : Nat := p.d.extOf 2 * p.d.extOf 3

/-- The mode of a matrix command (Tables 5.1, 5.2). -/
def matMode (op : Op) (w : CmdWord) : Nat :=
  match op with
  | .mmS24 => 1
  | .mmBs => 2
  | .mmCasc => w.imm 1 2
  | _ => 0

/-- The problem of a command from its slots. -/
def matProblem (op : Op) (w : CmdWord) (v0 v1 v2 v3 : SlotVal) : Option MatProblem :=
  match v0.desc, v1.desc, v2.desc with
  | some a, some b, some d =>
    some ⟨op.engine == .de, a, b, d, v3.desc, matMode op w, w.imm 0 1 = 1, w.mode, w.flag 3⟩
  | _, _, _ => none

/-- Operand formats (R116, R145). -/
def MatProblem.formatsOk (p : MatProblem) : Bool :=
  if p.de then
    [p.a, p.b, p.d].all (fun x => (x.format == .fp64 || x.format == .fp32) && x.skind = 0) && !p.d.calibrated
  else
    p.a.format.isShort && p.b.format.isShort && p.d.format != .fx192 && decide (p.d.skind ≤ 2) && p.d.calOk

/-- Extents of the batch dimensions (R113). -/
def MatProblem.batchOk (p : MatProblem) : Bool :=
  [2, 3].all (fun k => p.a.extOf k = p.d.extOf k && (p.b.extOf k = p.a.extOf k || p.b.extOf k = 1))

/-- Blocks of 16 in a length (R132). -/
def blocks16 (n : Nat) : Nat := (n + 15) / 16
/-- Bitmap bytes per batch index of B (R132). -/
def MatProblem.mapBytes (p : MatProblem) : Nat := (blocks16 p.n * blocks16 p.k + 7) / 8

/-- The K limit of the A panel (R134), for `s` slices. -/
def MatProblem.panelK (p : MatProblem) : Nat := 262144 * 8 / (128 * p.a.format.bits)

/-- Indices of a slice of K in a reduction split of `members` (R137, R148). -/
def MatProblem.sliceLen (p : MatProblem) (members : Nat) : Nat :=
  let g := if p.de then 32 else 64
  (p.k + g * members - 1) / (g * members) * g

/-- The limits of R92 and R134, which a load tests apart (Table 8.15); `slices` divide K in a reduction split (R139). -/
def MatProblem.limitsOk (p : MatProblem) (slices : Nat) : Bool :=
  decide (p.k + bit p.accD ≤ 2 ^ 32)
    && (decide (p.mode ≤ 1) || decide (min p.k (if slices ≤ 1 then p.k else p.sliceLen slices) ≤ p.panelK))

/-- The mode's own rules (R130, R132). -/
def MatProblem.modeOk (p : MatProblem) : Bool :=
  match p.mode with
  | 0 => p.b.extOf 0 = p.k
  | 1 =>
    match p.x with
    | none => false
    | some x =>
      p.k % 4 = 0 && p.b.extOf 0 = p.k / 2 && (!p.b.format.isMx || p.k % 64 = 0)
        && x.format == .uint4 && x.skind = 0 && x.extOf 0 = p.k / 4 && x.extOf 1 = p.n
        && x.extOf 2 = p.b.extOf 2 && x.extOf 3 = p.b.extOf 3
  | _ =>
    match p.x with
    | none => false
    | some x =>
      p.b.extOf 0 = p.k && x.format == .uint8 && x.ndim = 0
        && decide (p.mapBytes * (p.b.extOf 2 * p.b.extOf 3) ≤ x.extOf 0)

/-- Checks 4 and 5 on a matrix command: `DESCRIPTOR_BAD` for a breach of R92, R113, R116, R117, R121, R130, R132 or R134,
`ALIGNMENT` for a misaligned row (R114). The limits are tested where `lim` says so. -/
def MatProblem.check (p : MatProblem) (lim : Bool) (slices : Nat) : Option Status :=
  let shape := p.batchOk && p.a.extOf 1 = p.m && p.b.extOf 1 = p.n
  let acc := !p.accD || (!p.d.calibrated && p.d.skind ≠ 2)
  if !(p.formatsOk && shape && p.modeOk && acc && (!lim || p.limitsOk slices)) then some stDescBad
  else
    let metaOk := match p.x with
      | some x => if p.mode = 1 then x.aligned else true
      | none => true
    if p.a.aligned && p.b.aligned && p.d.aligned && metaOk then none else some stAlignment

/-! ## Products -/

/-- The A, B and batch coordinates of an output of D. -/
def MatProblem.coords (p : MatProblem) (e : Nat) : Nat × Nat × Nat × Nat := p.d.index e
def MatProblem.aIndex (p : MatProblem) (e k : Nat) : Nat :=
  let (_, m, b2, b3) := p.coords e
  p.a.linear k m b2 b3
/-- Batch indices of B, broadcast where its extent is 1. -/
def MatProblem.bBatch (p : MatProblem) (e : Nat) : Nat × Nat :=
  let (_, _, b2, b3) := p.coords e
  (if p.b.extOf 2 = 1 then 0 else b2, if p.b.extOf 3 = 1 then 0 else b3)
def MatProblem.bIndex (p : MatProblem) (e k : Nat) : Nat :=
  let (n, _, _, _) := p.coords e
  let (c2, c3) := p.bBatch e
  p.b.linear k n c2 c3
/-- The metadata element of group g of an output's column (R130). -/
def MatProblem.xIndex (p : MatProblem) (x : Desc) (e g : Nat) : Nat :=
  let (n, _, _, _) := p.coords e
  let (c2, c3) := p.bBatch e
  x.linear g n c2 c3
/-- Byte and bit of the bitmap for block (nb, kb) of B at a batch (R132). -/
def MatProblem.mapBit (p : MatProblem) (batch nb kb : Nat) : Nat × Nat :=
  let i := nb * blocks16 p.k + kb
  (batch * p.mapBytes + i / 8, i % 8)
def MatProblem.bLinearBatch (p : MatProblem) (e : Nat) : Nat :=
  let (c2, c3) := p.bBatch e
  c2 + p.b.extOf 2 * c3

/-- The scale records that serve a pair of elements, where a fold must separate them (R94). DESIGN CHOICE (log 139): every
boundary of a kind 4 group folds, though the product's factor, which holds no group scale (R95), does not change there. -/
def pairKey (a b : Desc) (ia ib : Nat) : Nat × Nat :=
  let f (d : Desc) (i : Nat) : Nat :=
    match d.skind with
    | 2 => i / 32
    | 4 => i / d.group
    | _ => 0
  (f a ia, f b ib)

/-- Operands as read: values by linear index, metadata or bitmap bytes, D's present values. -/
structure MatOperands where
  a : SMap (Option Val)
  b : SMap (Option Val)
  x : SMap (Option Nat)
  d : SMap (Option Val)
  err : ReadErr

/-- A bit of the bitmap; none where its byte could not be read. -/
def MatProblem.bitOf (p : MatProblem) (x : SMap (Option Nat)) (batch nb kb : Nat) : Option Bool :=
  let (by_, bi) := p.mapBit batch nb kb
  (SMap.get none x by_).map (fun v => v.testBit bi)

/-- Reading the operands of some outputs: all of A's rows they use; of B, in block-sparse mode, only elements of blocks
whose bit is set (R133). DESIGN CHOICE (log 115): where several operands fail, the failure reported is the first in the order
metadata or bitmap, A, B, D, and within an operand a page before a block. -/
def State.matRead (s : State) (j : Nat) (p : MatProblem) (outs : List Nat) : Access MatOperands :=
  let ks := List.range p.k
  let readX : Access (SMap (Option Nat) × ReadErr) :=
    match p.x with
    | none => .ok ([], none) s
    | some x =>
      let idx :=
        if p.mode = 1 then dedup (outs.flatMap (fun e => (List.range (p.k / 4)).map (fun g => p.xIndex x e g)))
        else if p.mode = 2 then
          dedup (outs.flatMap (fun e => (List.range (blocks16 p.k)).map (fun kb =>
            (p.mapBit (p.bLinearBatch e) ((p.coords e).1 / 16) kb).1)))
        else []
      (s.readElems j x idx).bind fun r s =>
        .ok ((idx.zip r.1).foldl (fun m y => SMap.put m y.1 y.2) [], r.2) s
  readX.bind fun rx s =>
    let ia := dedup (outs.flatMap (fun e => ks.map (fun k => p.aIndex e k)))
    let kb := if p.mode = 1 then List.range (p.k / 2) else ks
    let ib := dedup (outs.flatMap (fun e => (kb.filter (fun k =>
      p.mode ≠ 2 || p.bitOf rx.1 (p.bLinearBatch e) ((p.coords e).1 / 16) (k / 16) = some true)).map
        (fun k => p.bIndex e k)))
    (s.readVals j p.a ia).bind fun va s =>
      (s.readVals j p.b ib).bind fun vb s =>
        let id := if p.accD then outs else []
        (s.readVals j p.d id).bind fun vd s =>
          .ok ⟨valueMap ia va.vals, valueMap ib vb.vals, rx.1, valueMap id vd.vals,
            firstErr rx.2 (firstErr va.err (firstErr vb.err vd.err))⟩ s

/-- One product of elements; a missing element makes it unknown. -/
def MatProblem.product (p : MatProblem) (o : MatOperands) (ia ib : Nat) : Option Addend :=
  match SMap.get none o.a ia, SMap.get none o.b ib with
  | some a, some b =>
    let r := Val.mul a b
    some ⟨r.1, r.2, pairKey p.a p.b ia ib⟩
  | _, _ => none

/-- The addends of an output in ascending k, from the reduction indices `lo` up to `hi` (R131, R133): a 2:4 value of zero
and a clear block give none. -/
def MatProblem.addends (p : MatProblem) (o : MatOperands) (e lo hi : Nat) : List (Option Addend) :=
  let within (k : Nat) : Bool := decide (lo ≤ k) && decide (k < hi)
  match p.mode with
  | 1 =>
    match p.x with
    | none => []
    | some x =>
      ((List.range (p.k / 2)).filter (fun c => within (2 * c))).filterMap (fun c =>
        let ib := p.bIndex e c
        match SMap.get none o.b ib, SMap.get none o.x (p.xIndex x e (c / 2)) with
        | some v, some nib =>
          if v.isZero then none
          else some (p.product o (p.aIndex e (4 * (c / 2) + bitsOf nib (2 * (c % 2)) 2)) ib)
        | _, _ => some none)
  | 2 =>
    ((List.range p.k).filter within).filterMap (fun k =>
      match p.bitOf o.x (p.bLinearBatch e) ((p.coords e).1 / 16) (k / 16) with
      | some true => some (p.product o (p.aIndex e k) (p.bIndex e k))
      | some false => none
      | none => some none)
  | _ => ((List.range p.k).filter within).map (fun k => p.product o (p.aIndex e k) (p.bIndex e k))

/-- The segment limit of the problem; 0 where products enter the wide accumulator directly (R118, R145). -/
def MatProblem.limit (p : MatProblem) : Nat :=
  if wideDirect p.a || wideDirect p.b then 0 else segmentLimit (operandRange p.a) (operandRange p.b)

/-- The slices of K of a reduction split among `members`, as bounds (R137, R148); one without a split. -/
def MatProblem.slices (p : MatProblem) (members : Nat) : List (Nat × Nat) :=
  if members ≤ 1 then [(0, p.k)]
  else (List.range members).map (fun q => (q * p.sliceLen members, min p.k ((q + 1) * p.sliceLen members)))

/-- Every block of B that an output's tile takes is clear (R133). -/
def MatProblem.tileClear (p : MatProblem) (x : SMap (Option Nat)) (e : Nat) : Bool :=
  let c := (p.coords e).1 / p.unit
  p.mode = 2 && ((List.range 8).filter (fun i => decide (c * 8 + i < blocks16 p.n))).all (fun i =>
    (List.range (blocks16 p.k)).all (fun kb => p.bitOf x (p.bLinearBatch e) (c * 8 + i) kb = some false))

/-- An output's sum, if all it needs was read. Under `ACC_D` an output of a tile whose blocks are all clear is D's present
value, exact and without a flag (R133). -/
def MatProblem.sumOf (p : MatProblem) (o : MatOperands) (slices : List (Nat × Nat)) (e : Nat) : Option OutSum :=
  let parts := slices.map (fun k => p.addends o e k.1 k.2)
  let first : Option (Option Val) := if p.accD then (SMap.get none o.d e).map some else some none
  match first with
  | none => none
  | some f =>
    match f, p.tileClear o.x e with
    | some v, true => some ⟨if v.isNan then .nan false else v, 0#4, 1, []⟩
    | _, _ =>
      if parts.all (fun as => as.all Option.isSome) then
        some (sumAddends p.rmode p.limit f (parts.map (fun as => as.filterMap id)))
      else none

/-- Computing and writing D, K cut into `slices`: what was written, and the straggler passes of each output. All operands are
read before anything is written, so that a command that restarts after a page fault meets them as they were (R142). -/
def State.matOutputs (s : State) (j tile : Nat) (step : BitVec 64) (p : MatProblem) (slices : List (Nat × Nat)) :
    Access (Written × List (Nat × Nat)) :=
  (s.matRead j p p.d.all).bind fun o s =>
    let sums := p.d.all.map (fun e => (e, p.sumOf o slices e))
    let r := s.roundCtx j step p.rmode p.sat
    let rs := sums.map (fun x => (⟨x.1, x.2.map OutSum.v, (x.2.map OutSum.flags).getD 0#4, true⟩ : Result))
    (s.writeResults j tile p.d r false true rs o.err).bind fun w s =>
      let (ps, s) := s.ranPasses p.d r w (sums.filterMap (fun x => x.2.map (fun y => (x.1, y))))
      .ok (w.1, ps) s

/-! ## Output tiles and shares -/

/-- The output tiles of a problem: row, column, batch. -/
def MatProblem.tiles (p : MatProblem) : List (Nat × Nat × Nat) :=
  let u := p.unit
  (List.range p.batches).flatMap (fun b =>
    (List.range ((p.m + u - 1) / u)).flatMap (fun r =>
      (List.range ((p.n + u - 1) / u)).map (fun c => (r, c, b))))

/-- A member of ordinal q computes an output tile (R137): `SHAPE` 1 by its place in the 2 × 2, 2 by its row of four, 0 the
master alone writes. -/
def ownsTile (shape q r c : Nat) : Bool :=
  match shape with
  | 1 => r % 2 = q / 2 && c % 2 = q % 2
  | 2 => r % 4 = q
  | _ => q = 0

/-- The outputs of D in some tiles. -/
def MatProblem.outsIn (p : MatProblem) (ts : List (Nat × Nat × Nat)) : List Nat :=
  (List.range p.d.size).filter (fun e =>
    let (n, m, b2, b3) := p.coords e
    ts.any (fun t => t.1 = m / p.unit && t.2.1 = n / p.unit && t.2.2 = b2 + p.d.extOf 2 * b3))

/-- Blocks over some output tiles and block indices along K whose bit is as asked (R133). -/
def MatProblem.blocksWith (p : MatProblem) (ask : Option Bool → Bool) (x : SMap (Option Nat)) (ts : List (Nat × Nat × Nat))
    (kbs : List Nat) : Nat :=
  if p.mode ≠ 2 then 0
  else
    (ts.flatMap (fun t =>
      let e := p.d.linear (t.2.1 * p.unit) (t.1 * p.unit) (t.2.2 % p.d.extOf 2) (t.2.2 / p.d.extOf 2)
      let nbs := (List.range 8).filter (fun i => decide (t.2.1 * 8 + i < blocks16 p.n))
      nbs.flatMap (fun i => kbs.filter (fun kb => ask (p.bitOf x (p.bLinearBatch e) (t.2.1 * 8 + i) kb))))).length

/-- Blocks skipped (R133). -/
def MatProblem.skips (p : MatProblem) (x : SMap (Option Nat)) (ts : List (Nat × Nat × Nat)) (kbs : List Nat) : Nat :=
  p.blocksWith (· == some false) x ts kbs

/-- The bitmap bytes that a block-sparse problem reads (R132), for the count of skipped blocks. -/
def State.mapBytesOf (s : State) (j : Nat) (p : MatProblem) : SMap (Option Nat) :=
  match p.x with
  | none => []
  | some x =>
    if p.mode ≠ 2 then []
    else
      let idx := List.range (p.mapBytes * (p.b.extOf 2 * p.b.extOf 3))
      match s.readElems j x idx with
      | .ok r _ => (idx.zip r.1).foldl (fun m y => SMap.put m y.1 y.2) []
      | _ => []

/-! ## The finished-tile queue (R127 to R129) -/

/-- A queue entry (Table 5.6). -/
def ftEntry (trow tcol batch : Nat) (st : Status) (tag : BitVec 16) (last term : Bool) : FtEntry :=
  BitVec.ofNat 128 (trow % 2 ^ 16 + tcol % 2 ^ 16 * 2 ^ 16 + batch % 2 ^ 32 * 2 ^ 32 + st.toNat * 2 ^ 64
    + tag.toNat * 2 ^ 80 + bit last * 2 ^ 96 + bit term * 2 ^ 97)

/-- A field of an entry. -/
def ftField (e : FtEntry) (lo len : Nat) : Nat := e.toNat / 2 ^ lo % 2 ^ len

/-- Pushing the entries of a queued command that still has to push the tiles `left`: those it wrote. The order in which
tiles finish is open (R127): a free value picks among those left. A failed command's terminal entry follows its tiles, and a
command without a tile has that entry alone (R128). Ends when the queue is full or the last entry is in; where `more` tiles
follow that straggler passes still hold, it ends before the last entry. -/
def State.pushTiles (t : Nat) (tag : BitVec 16) (r : CmdResult) (more : Bool) :
    Nat → List (Nat × Nat × Nat) → State → List (Nat × Nat × Nat) × Bool × State
  | 0, left, s => (left, false, s)
  | fuel + 1, left, s =>
    if 16 ≤ (s.tile t).ftq.length then (left, false, s)
    else
      let push (e : FtEntry) : State := s.modTile t (fun x => { x with ftq := x.ftq ++ [e] })
      if left.isEmpty then (if more then ([], false, s) else ([], true, push (ftEntry 0 0 0 r.status tag true true)))
      else
        let i := s.freeWord.toNat % left.length
        let (a, b, c) := left.getD i (0, 0, 0)
        let rest := left.eraseIdx i
        let last := rest.isEmpty && r.outcome != .failed && !more
        let s' := (push (ftEntry a b c stOK tag last false)).drawn
        if last then ([], true, s') else State.pushTiles t tag r more fuel rest s'

/-- The stage after pushing: waiting for room or for the tiles `late` that straggler passes still hold, or ready. -/
def State.queueStage (s : State) (t : Nat) (left late : List (Nat × Nat × Nat)) (tag : BitVec 16) (r : CmdResult) :
    Stage × State :=
  let (left, done, s) := State.pushTiles t tag r (!late.isEmpty) (left.length + 1) left s
  (if done then .ready r else .queue left late r, s)

/-- The stage of a queued command whose finished tiles are `ts`, with the straggler passes of its outputs: the tiles of which
an output still takes a pass come late (R127). -/
def State.tilesStage (s : State) (t : Nat) (p : MatProblem) (ts : List (Nat × Nat × Nat)) (passes : List (Nat × Nat))
    (tag : BitVec 16) (r : CmdResult) : Stage × State :=
  let held (x : Nat × Nat × Nat) : Bool :=
    (p.outsIn [x]).any (fun e => passes.any (fun y => y.1 = e && y.2 ≠ 0))
  s.queueStage t (ts.filter (fun x => !(held x))) (ts.filter held) tag r

/-! ## Commands of one tile -/

/-- Registers of a matrix command's retirement: skipped blocks. -/
def skipReg (n : Nat) : List RegEff := if n = 0 then [] else [⟨0x20, 0, 48, true, n⟩]

/-- The blocks that a command skipped over some tiles and block indices. How many it came to skip before it failed is open: a
free value up to the blocks whose bit is clear or was not read (log 8). -/
def State.skipped (s : State) (j : Nat) (p : MatProblem) (failed : Bool) (ts : List (Nat × Nat × Nat)) (kbs : List Nat) : Nat :=
  let x := s.mapBytesOf j p
  if failed then (Config.cycles s.fresh) % (p.blocksWith (· != some true) x ts kbs + 1) else p.skips x ts kbs

/-- What a matrix command that fails before its results are known leaves beside its status: the blocks it skipped. -/
def State.lostSkips (s : State) (j : Nat) (c : EngineCmd) : List RegEff :=
  match matProblem c.op c.w c.s0 c.s1 c.s2 c.s3 with
  | some p => if c.op.engine = .me then skipReg (s.skipped j p true p.tiles (List.range (blocks16 p.k))) else []
  | none => []

/-- The tiles of which every output is written. -/
def MatProblem.finished (p : MatProblem) (w : Written) (ts : List (Nat × Nat × Nat)) : List (Nat × Nat × Nat) :=
  if w.err.isNone then ts else ts.filter (fun t => (p.outsIn [t]).all (fun e => w.outs.any (fun o => o.e = e)))

/-- The work of `MM`, `MM_S24`, `MM_BS` and `DMM`. A page fault that may be resolved leaves everything as it was: the work
is done again from its start (R142). -/
def State.matWork (s : State) (t j : Nat) (c : EngineCmd) : Stage × State :=
  match matProblem c.op c.w c.s0 c.s1 c.s2 c.s3 with
  | none =>
    let r := failResult stDescBad 0
    if c.op.engine = .me && c.w.flag 4 then s.queueStage t [] [] c.w.tag r else (.ready r, s)
  | some p =>
    let queued := !p.de && c.w.flag 4
    match s.matOutputs j t c.step p (p.slices 1) with
    | .fault va w _ => (.fault va w, s)
    | .fail st a s =>
      let r := { failResult st a with regs := s.lostSkips j c }
      if queued then s.drawn.queueStage t [] [] c.w.tag r else (.ready r, s.drawn)
    | .ok w s =>
      let skips := s.skipped j p w.1.err.isSome p.tiles (List.range (blocks16 p.k))
      let res : CmdResult := { writtenResult w.1 (sumPasses w.2) with regs := skipReg skips }
      let s := if w.1.err.isSome then s.drawn else s
      if queued then s.tilesStage t p (p.finished w.1 p.tiles) w.2 c.w.tag res else (.ready res, s)

/-! ## Cascades (R135 to R140, R148, R174) -/

/-- The cascade class of a command: it belongs to a cascade as master or member. -/
def cascMaster (op : Op) (w : CmdWord) : Bool :=
  match op with
  | .mmCasc | .dmmCasc => true
  | .seFact | .seSolve => w.imm 11 1 = 1
  | _ => false
def cascMember (op : Op) : Bool :=
  match op with
  | .mmJoin | .dmmJoin | .seJoin => true
  | _ => false

/-- The S register that names a cascade. -/
def cascReg (c : EngineCmd) : BitVec 64 := c.sreg.getD (c.w.imm 12 4) 0#64

/-- Cascade id of a command (Table 5.2, R174). -/
def cascId (c : EngineCmd) : Nat :=
  match c.op with
  | .seFact | .seSolve | .seResume => fieldOf (cascReg c) 32 4
  | _ => c.w.imm 8 4

/-- The member mask of a master. -/
def cascMask (c : EngineCmd) : Nat := fieldOf (cascReg c) 0 32

/-- The members of a mask on a die, as logical tiles. -/
def State.maskTiles (s : State) (die mask : Nat) : List Nat :=
  ((List.range 32).filter (fun p => mask.testBit p)).map (fun p => die * s.tilesPerDie + p)

/-- Number of set bits. -/
def popCount (mask : Nat) : Nat := ((List.range 32).filter (fun p => mask.testBit p)).length

/-- The mask rule of R135 for a master on tile t; solver cascades take 1 to 16 members (R174). -/
def State.maskOk (s : State) (t : Nat) (c : EngineCmd) : Bool :=
  let mask := cascMask c
  let place := t % s.tilesPerDie
  let n := popCount mask
  mask.testBit place && decide (mask < 2 ^ s.tilesPerDie)
    && (match c.op with
        | .seFact | .seSolve | .seResume => decide (1 ≤ n) && decide (n ≤ 16)
        | _ =>
          if c.w.imm 3 2 = 0 then
            decide (1 ≤ c.w.imm 5 3) && decide (c.w.imm 5 3 ≤ 4) && n = 2 ^ c.w.imm 5 3
          else n = 4)

/-- Members in the order of their ordinals: the master first, the others ascending (R137). -/
def membersOf (t : Nat) (ts : List Nat) : List Nat := t :: ts.filter (· ≠ t)

/-- A slice of K of member q of a reduction split (R137, R148): the block indices along K it skips or runs. -/
def sliceKbs (p : MatProblem) (members q : Nat) : List Nat :=
  let len := p.sliceLen members
  (List.range (blocks16 p.k)).filter (fun kb => decide (q * len ≤ kb * 16) && decide (kb * 16 < (q + 1) * len))

/-- The output tiles of member q. -/
def MatProblem.share (p : MatProblem) (shape q : Nat) : List (Nat × Nat × Nat) :=
  p.tiles.filter (fun t => ownsTile shape q t.1 t.2.1)

/-- The outputs of D that member q computes: those of its share under a spatial split, all of them the master's under a
reduction split (R137, R139). -/
def MatProblem.memberOuts (p : MatProblem) (shape q : Nat) : List Nat := p.outsIn (p.share shape q)

/-- The flags and passes of one member from what the whole cascade wrote (R138, R139): its own outputs' under a spatial
split; under a reduction split the master has all flags, and every member runs every pass. -/
def MatProblem.memberPart (p : MatProblem) (shape q : Nat) (w : Written × List (Nat × Nat)) : Flags × Nat :=
  let mine := p.memberOuts shape q
  ((w.1.outs.filter (fun o => mine.contains o.e)).foldl (fun f o => f ||| o.flags) 0#4,
    if shape = 0 then sumPasses w.2 else sumPasses (w.2.filter (fun x => mine.contains x.1)))

end Sys2Proof.Machine
end

