-- ==== Sys2Proof/Machine/Vector.lean ====
section
/-! DEFINITION. Vector.lean: the work of the vector engine (R179 to R190): element operations with masks and forwarded
operands, comparisons into masks, fixed-point operations, and epilogues on finished output tiles. -/

namespace Sys2Proof.Machine

open Sys2Proof

/-! ## Operand rules -/

/-- A format a vector command takes (R180). -/
def Desc.vectorOk (d : Desc) : Bool := d.format != .fx192 && decide (d.skind ≤ 2)
/-- A mask tensor over E elements (R183). -/
def Desc.maskOk (d : Desc) (e : Nat) : Bool :=
  d.format == .uint8 && d.skind = 0 && d.ndim = 0 && decide ((e + 7) / 8 ≤ d.extOf 0)
/-- A format of the fixed-point commands (R188). -/
def Desc.fixedOk (d : Desc) : Bool :=
  (d.format == .int8 || d.format == .uint8 || d.format == .int16 || d.format == .int32) && d.skind = 0

/-- A fixed-point vector command. -/
def isFixed (op : Op) : Bool := op == .veQadd || op == .veQsub || op == .veQmulr || op == .veQshr

/-- The tensor operands a, b, c of a vector command. -/
def vectorSources (c : EngineCmd) : List Desc :=
  let s2 := if c.op == .veFma || c.op == .veEpi then c.s2.desc.toList else []
  c.s0.desc.toList ++ c.s1.desc.toList ++ s2

/-- The shape of a command: D's, but of a comparison that of its tensor operands together (R182, R183). -/
def vectorShape (op : Op) (srcs : List Desc) (d : Desc) : Option Desc :=
  if op == .veCmp then
    match srcs with
    | [] => none
    | a :: as =>
      let ext := [0, 1, 2, 3].map (fun k => as.foldl (fun m x => max m (x.extOf k)) (a.extOf k))
      some { a with ext := ext, stride := [0, 0, 0] }
  else some d

/-- Checks 4 and 5 on a vector command (R180, R183, R184, R188, R190). -/
def vectorCheck (op : Op) (w : CmdWord) (srcs : List Desc) (d : Desc) (mask : Option Desc) : Option Status :=
  let men := op != .veEpi && w.imm 12 1 = 1
  let zmask := w.imm 13 1 = 1
  match vectorShape op srcs d with
  | none => some stDescBad
  | some shape =>
    let e := shape.size
    let srcOk := srcs.all (fun x => x.broadcastOf shape && (if isFixed op then x.fixedOk else x.vectorOk))
    let dOk :=
      if op == .veCmp then d.maskOk e && !d.calibrated
      else if isFixed op then d.fixedOk && !d.calibrated && !w.flag 4
      else d.vectorOk && d.calOk
    let maskOk :=
      if men then
        match mask with
        | some m => m.maskOk e
        | none => false
      else true
    let mergeOk := !men || zmask || op == .veCmp || (d.skind ≠ 2 && !d.calibrated)
    let epiOk := op != .veEpi || (match srcs with
      | x :: _ => x.sameExt d
      | [] => false)
    if !(srcOk && dOk && maskOk && mergeOk && epiOk) then some stDescBad
    else if srcs.all Desc.aligned && d.aligned && (mask.all Desc.aligned || !men) then none
    else some stAlignment

/-! ## Reading -/

/-- A command's b operand when it is forwarded: element e takes the e-th value (R189). -/
def forwardedAt (fwd : List (BitVec 64)) (e : Nat) : Val := decodeElem .fp64 (fwd.getD e 0#64).toNat

/-- A scalar operand: an FP64 bit pattern, or an INT64 for fixed-point commands (R180). -/
def scalarVal (fixed : Bool) (v : BitVec 64) : Val :=
  if fixed then Val.ofQ (Q.ofInt v.toInt) false else decodeElem .fp64 v.toNat

/-- The values of an operand at the elements `es` of the shape. -/
def State.operandAt (s : State) (j : Nat) (fixed : Bool) (shape : Desc) (v : SlotVal) (es : List Nat) :
    Access (List (Option Val) × ReadErr) :=
  match v with
  | .tensor d =>
    let idx := dedup (es.map (d.broadcastIndex shape))
    (s.readVals j d idx).bind fun r s =>
      let m := valueMap idx r.vals
      .ok (es.map (fun e => SMap.get none m (d.broadcastIndex shape e)), r.err) s
  | .scalar x => .ok (es.map (fun _ => some (scalarVal fixed x)), none) s
  | _ => .ok (es.map (fun _ => some (.zero false)), none) s

/-- Operands of a vector command at its active elements. -/
structure VecOperands where
  a : List (Option Val)
  b : List (Option Val)
  c : List (Option Val)
  err : ReadErr

def State.vectorOperands (s : State) (j : Nat) (cmd : EngineCmd) (shape : Desc) (fwd : List (BitVec 64))
    (es : List Nat) : Access VecOperands :=
  let fixed := isFixed cmd.op
  (s.operandAt j fixed shape cmd.s0 es).bind fun a s =>
    let rb : Access (List (Option Val) × ReadErr) :=
      if cmd.w.flag 4 then .ok (es.map (fun e => some (forwardedAt fwd e)), none) s
      else s.operandAt j fixed shape cmd.s1 es
    rb.bind fun b s =>
      let third := cmd.op == .veFma || cmd.op == .veEpi
      (s.operandAt j fixed shape (if third then cmd.s2 else .none) es).bind fun c s =>
        .ok ⟨a.1, b.1, c.1, firstErr a.2 (firstErr b.2 c.2)⟩ s

/-- The mask bits of a command over E elements: none where a mask byte could not be read. -/
def State.maskBits (s : State) (j : Nat) (mask : Option Desc) (e : Nat) : Access (List (Option Bool) × ReadErr) :=
  match mask with
  | none => .ok (List.replicate e (some true), none) s
  | some m =>
    (s.readElems j m (List.range ((e + 7) / 8))).bind fun r s =>
      .ok ((List.range e).map (fun i => (r.1.getD (i / 8) none).map (fun v => v.testBit (i % 8))), r.2) s

/-! ## Results -/

/-- A conversion to FP64 from another format is widening and raises no flag (R71). -/
def quietWiden (src : SlotVal) (d : Desc) (v : Val) : Val :=
  match src with
  | .tensor a => if d.format == .fp64 && a.format != .fp64 && v.isNan then .nan false else v
  | _ => v

/-- The operation of a command: its own, or the one that `EOP` names (R190). -/
def vectorOp (c : EngineCmd) : Op := if c.op == .veEpi then epiOp (c.w.imm 0 4) else c.op

/-- The exact results at elements. -/
def vectorResults (c : EngineCmd) (d : Desc) (es : List Nat) (o : VecOperands) : List Result :=
  let op := vectorOp c
  (es.zip (o.a.zip (o.b.zip o.c))).map (fun x =>
    match x.2.1, x.2.2.1, x.2.2.2 with
    | some a, some b, some z =>
      let r := veResult op c.w.mode a b z
      ⟨x.1, some (if op == .veCvt then quietWiden c.s0 d r.1 else r.1), r.2, true⟩
    | _, _, _ => ⟨x.1, none, 0#4, true⟩)

/-- Whether a failing vector command leaves each block old or new: nothing is written over a translation fault (R186), a
failed check may leave either (R187). -/
def mixedOn (e : ReadErr) : Bool :=
  match e with
  | some (st, _) => st == stChecksum || st == stPoisoned
  | none => true

/-- Two tensors share bytes. -/
def sharesBytes (a b : Desc) : Bool :=
  let xs := a.all.flatMap a.bytesOf
  b.all.any (fun e => (b.bytesOf e).any (fun y => xs.contains y))
/-- D overlaps a source in another way than coinciding with it exactly, which leaves D undefined (R180). -/
def badOverlap (srcs : List Desc) (d : Desc) : Bool :=
  srcs.any (fun x => !(x.base = d.base && x.sameExt d && x.stride = d.stride) && sharesBytes x d)

/-- What a vector command reads beside its destination: its operands and its mask. -/
def vectorReads (c : EngineCmd) (mask : Option Desc) : List Desc := vectorSources c ++ mask.toList

/-- The results of a command whose destination is undefined: free values (log 1). -/
def State.freeResults (s : State) (rs : List Result) : List Result :=
  (List.range rs.length).zip rs |>.map (fun x =>
    { x.2 with v := some (decodeElem .fp64 (Config.freeWord (s.fresh + x.1)).toNat), flags := 0#4 })

/-- Open results where D overlaps a source. -/
def State.settleOverlap (s : State) (srcs : List Desc) (d : Desc) (rs : List Result) : List Result × State :=
  if badOverlap srcs d then (s.freeResults rs, { s with fresh := s.fresh + rs.length }) else (rs, s)

/-- Destinations of a floating-point command: active elements, those whose mask byte could not be read, and under `ZMASK`
the masked ones as +0 (R184, R187). -/
def maskedResults (zmask : Bool) (bits : List (Option Bool)) (rs : List Result) : List Result :=
  let at_ (b : Option Bool) : List Nat := (List.range bits.length).filter (fun e => bits.getD e none = b)
  rs ++ (at_ none).map (fun e => ⟨e, none, 0#4, true⟩)
    ++ (if zmask then (at_ (some false)).map (fun e => ⟨e, some (.zero false), 0#4, false⟩) else [])

/-! ### The probe (R185, R186) -/

/-- The addresses an operand gives for element `e` of the shape. -/
def SlotVal.reach (v : SlotVal) (shape : Desc) (e : Nat) : List (Nat × Bool) :=
  match v with
  | .tensor d => (d.bytesOf (d.broadcastIndex shape e) ++ d.scaleBytes (d.broadcastIndex shape e)).map (fun va => (va, false))
  | _ => []

/-- Where a delayed calibration keeps its block histories (R87), as memory shows its record. -/
def State.historyAt (s : State) (j : Nat) (d : Desc) : Option Nat :=
  if d.calibrated && d.skind = 2 then
    ((s.peekField j d.calPtr 576).bind parseCal).bind (fun c => if c.delayed then some c.histPtr else none)
  else none

/-- The addresses a destination takes with its element `e`: the element; its scale record, which a kind 1 destination without
calibration only reads (R89); with the first element the calibration record, and with a block's first its history, if one is
kept at `hist`. -/
def Desc.destReach (d : Desc) (hist : Option Nat) (e : Nat) : List (Nat × Bool) :=
  let written := d.bytesOf e ++ (if d.calibrated && e = 0 then vaRange d.calPtr 576 else [])
    ++ (match hist with
        | some h => if e % 32 = 0 then vaRange (h + 16 * (e / 32)) 16 else []
        | none => [])
  written.map (fun va => (va, true)) ++ (d.scaleBytes e).map (fun va => (va, decide (d.skind ≠ 1) || d.calibrated))

/-- A mask bit as memory shows it, unverified. -/
def State.peekMask (s : State) (j : Nat) (mask : Option Desc) (e : Nat) : Bool :=
  match mask with
  | none => true
  | some m =>
    match s.translate j (m.addr (e / 8)) false with
    | .ok pa c => (s.store.byte c pa).toNat.testBit (e % 8)
    | _ => true

/-- What the probe of a vector command tries for each element of its shape: the mask; for an active element its operands and
its destination; for a masked one the destination alone, where it is written. -/
def State.vectorReach (s : State) (j : Nat) (c : EngineCmd) (shape d : Desc) (mask : Option Desc) :
    List (Nat × List (Nat × Bool)) :=
  let third := c.op == .veFma || c.op == .veEpi
  let hist := s.historyAt j d
  shape.all.map (fun e =>
    let m := (mask.map (fun m => (m.bytesOf (e / 8)).map (fun va => (va, false)))).getD []
    let de := if c.op == .veCmp then e / 8 else e
    let active := s.peekMask j mask e
    let ops := if active then c.s0.reach shape e ++ (if c.w.flag 4 then [] else c.s1.reach shape e)
        ++ (if third then c.s2.reach shape e else []) else []
    (e, m ++ ops ++ (if active || c.w.imm 13 1 = 1 then d.destReach hist de else [])))

/-! ### Chunks (R185, R186, R231) -/

/-- Tile cycles of 20 µs at the nominal tile clock, 700 MHz (R231). -/
def chunkCycles : Nat := 14000

/-- Bytes per element of a tensor in units of 1/256 byte, 1/32 byte of scale with an MX format (R179, R204). -/
def Desc.elemCost (d : Desc) : Nat := d.format.bits * 32 + (if d.format.isMx then 8 else 0)

/-- The elements of a planned chunk: those of its cycles at the rate of R179 for `w` lanes and the bytes read and written per
element, whole blocks of 32. DEDUCED (log 129). -/
def chunkElems (w reads writes cycles : Nat) : Nat :=
  let most (c : Nat) : Nat := if c = 0 then w * cycles else 1024 * 256 * cycles / c
  max 32 (min (w * cycles) (min (most reads) (most writes)) / 32 * 32)

/-- The elements of a chunk of a vector command: each chunk takes the fixed cycles of R179, with the pages probed. -/
def vectorChunk (c : EngineCmd) (shape d : Desc) (reach : List (Nat × List (Nat × Bool))) : Nat :=
  let pages := (pagesOf (reach.flatMap (fun x => x.2.map Prod.fst))).length
  let srcs := vectorSources c
  let w := if (d :: srcs).any (fun x => x.format.bits = 64) then 64 else 128
  let reads := (srcs.filter (fun x => x.sameExt shape)).foldl (fun a x => a + x.elemCost) 0
  chunkElems w reads (if c.op == .veCmp then d.elemCost / 8 else d.elemCost) (chunkCycles - 20 - 4 * pages)

/-- The first place of a reach whose page holds an address. -/
def placeOf (reach : List (Nat × List (Nat × Bool))) (va : Nat) : Nat :=
  ((reach.find? (fun x => x.2.any (fun y => y.1 / 0x200000 = va / 0x200000))).map Prod.fst).getD 0

/-- Work over a command's results, as many as its probe lets through. A chunk is probed before it is written: where the probe
fails at place `k`, or a fault it met there failed (`lost`), the command fails and `start k` says how many results the chunks
before hold, which keep their writes (R185, R186); 0 where the whole command is one conversion. DEDUCED (log 129): chunks are
those of the plan of R231. They are written together: a restart of the chunk in progress (R186) runs the work from its first
result again, and gives what the chunks before gave, since nothing may have changed what they read (R223). -/
def State.chunked (s : State) (j : Nat) (lost : Option (Status × Nat)) (start : Nat → Nat)
    (reach : List (Nat × List (Nat × Bool))) (n : Nat) (work : Nat → State → Access Stage) : Access Stage :=
  let probe : Access (Option (Nat × Status × Nat)) :=
    match lost with
    | some (st, va) => .ok (some (placeOf reach va, st, va)) s
    | none => s.probeElems j reach
  probe.bind fun p s =>
    match p with
    | none => work n s
    | some (k, st, va) =>
      let m := start k
      if m = 0 then .ok (.ready (failResult st va)) s
      else
        (work m s).bind fun stage s => .ok (match stage with
          | .ready r => if r.outcome == .failed then stage else .ready { failResult st va with flags := r.flags, regs := r.regs }
          | stage => stage) s

/-- The work of a floating-point vector command on its first `n` elements. -/
def State.vectorFloat (s : State) (t j : Nat) (c : EngineCmd) (d : Desc) (mask : Option Desc) (fwd : List (BitVec 64)) (n : Nat) :
    Access Stage :=
  (s.maskBits j mask n).bind fun mb s =>
    let es := (List.range n).filter (fun e => mb.1.getD e none = some true)
    (s.vectorOperands j c d fwd es).bind fun o s =>
      let rs := maskedResults (c.w.imm 13 1 = 1) mb.1 (vectorResults c d es o)
      -- an undefined D is undefined in every element, masked ones too
      let rs := if badOverlap (vectorReads c mask) d then (List.range n).map (fun e => ⟨e, none, 0#4, true⟩) else rs
      let (rs, s) := s.settleOverlap (vectorReads c mask) d rs
      let err := firstErr mb.2 o.err
      (s.writeResults j t d (s.roundCtx j c.step c.w.mode (c.w.flag 3)) false (mixedOn err) rs err).bind fun w s =>
        .ok (.ready (writtenResult w.1 0)) s

/-- The places of elements in byte `k` of a mask over `e` elements. -/
def maskPlaces (e k : Nat) : List Nat := (List.range 8).filter (fun i => decide (8 * k + i < e))

/-- The bytes of its mask that a comparison writes: under `ZMASK` all; under merge those with an element that is not masked,
and a last byte that has bits beyond the last element and whose block is written for others (R183, R184). -/
def cmpWritten (d : Desc) (e : Nat) (zmask : Bool) (bits : List (Option Bool)) : List Nat :=
  let active (k : Nat) : Bool := (maskPlaces e k).any (fun i => bits.getD (8 * k + i) none ≠ some false)
  let n := (e + 7) / 8
  (List.range n).filter (fun k => zmask || active k
    || (k + 1 = n && e % 8 ≠ 0 && (List.range n).any (fun i => active i && d.addr i / 4096 = d.addr k / 4096)))

/-- The written bytes of a comparison's mask: bits beyond the last element are 0; under merge a masked element keeps its bit. A
byte carries the flags of its own elements. -/
def cmpBytes (e : Nat) (zmask : Bool) (bits : List (Option Bool)) (hits : Nat → Option Bool) (flags : Nat → Flags)
    (old : Nat → Option Nat) (written : List Nat) : List OutElem :=
  written.map (fun k =>
      let places := maskPlaces e k
      let bitAt (i : Nat) : Option Bool :=
        match bits.getD (8 * k + i) none with
        | some true => hits (8 * k + i)
        | some false => if zmask then some false else (old k).map (fun v => v.testBit i)
        | none => none
      let bs := places.map (fun i => (i, bitAt i))
      ⟨k, if bs.all (fun b => b.2.isSome) then
        some (bs.foldl (fun v b => v + (if b.2 = some true then 2 ^ b.1 else 0)) 0) else none,
        places.foldl (fun f i => f ||| flags (8 * k + i)) 0#4⟩)

/-- The written mask bytes of a comparison under merge of which some bits keep their old value: those with a masked element
(R184). -/
def cmpOld (e : Nat) (bits : List (Option Bool)) (written : List Nat) : List Nat :=
  written.filter (fun k => (maskPlaces e k).any (fun i => bits.getD (8 * k + i) none ≠ some true))

/-- The work of `VE_CMP` on its first `n` elements. -/
def State.vectorCmp (s : State) (j : Nat) (c : EngineCmd) (shape d : Desc) (mask : Option Desc) (fwd : List (BitVec 64)) (n : Nat) :
    Access Stage :=
  (s.maskBits j mask n).bind fun mb s =>
    let es := (List.range n).filter (fun i => mb.1.getD i none = some true)
    (s.vectorOperands j c shape fwd es).bind fun o s =>
      let rel := c.s2.immVal.toNat % 8
      let rows := es.zip (o.a.zip o.b)
      let hits : SMap (Option Bool) := rows.foldl (fun m x =>
        SMap.put m x.1 (match x.2.1, x.2.2 with
          | some a, some b => some (cmpVal rel a b)
          | _, _ => none)) []
      let flags : SMap Flags := rows.foldl (fun m x =>
        match x.2.1, x.2.2 with
        | some a, some b => SMap.put m x.1 (snanFlag [a, b])
        | _, _ => m) []
      let zmask := c.w.imm 13 1 = 1
      let written := cmpWritten d n zmask mb.1
      let ks := if mask.isSome && !zmask then cmpOld n mb.1 written else []
      (s.readElems j d ks).bind fun old s =>
        let err := firstErr mb.2 (firstErr o.err old.2)
        let m : SMap (Option Nat) := (ks.zip old.1).foldl (fun m x => SMap.put m x.1 x.2) []
        let outs := cmpBytes n zmask mb.1 (SMap.get none hits) (SMap.get 0#4 flags) (SMap.get none m) written
        -- a D that overlaps a source otherwise than by coinciding with it is undefined (R180)
        let free := badOverlap (vectorReads c mask) d
        let outs : List OutElem := if free then (List.range ((n + 7) / 8)).map (fun k =>
            ⟨k, some ((Config.freeByte s.fresh k).toNat), 0#4⟩) else outs
        let s := if free then s.drawn else s
        (s.putDest j d outs [] [] (mixedOn err) err).bind fun w s => .ok (.ready (writtenResult w 0)) s

/-- The work of a fixed-point command (R188) on its first `n` elements: exact, rounded to the integer grid, saturated and
counted. -/
def State.vectorFixed (s : State) (j : Nat) (c : EngineCmd) (d : Desc) (mask : Option Desc) (n : Nat) : Access Stage :=
  (s.maskBits j mask n).bind fun mb s =>
    let es := (List.range n).filter (fun e => mb.1.getD e none = some true)
    (s.vectorOperands j c d [] es).bind fun o s =>
      let (lo, hi) := d.format.intRange.getD (0, 0)
      let sh := c.s2.immVal.toNat % 64
      let rows := (es.zip (o.a.zip o.b)).map (fun x =>
        match x.2.1, x.2.2 with
        | some a, some b =>
          let r := saturate lo hi (fixedResult c.op c.w.mode sh (a.q.num) (b.q.num))
          (x.1, some r)
        | _, _ => (x.1, none))
      let wrap (v : Int) : Nat := (v % ((2 ^ d.format.bits : Nat) : Int)).toNat
      let free := badOverlap (vectorReads c mask) d
      let outs : List OutElem := rows.map (fun x => ⟨x.1, x.2.map (fun r => wrap r.1), 0#4⟩)
      let at_ (b : Option Bool) : List Nat := (List.range n).filter (fun e => mb.1.getD e none = b)
      let masked : List OutElem := (at_ none).map (fun e => ⟨e, none, 0#4⟩)
        ++ (if c.w.imm 13 1 = 1 then (at_ (some false)).map (fun e => ⟨e, some 0, 0#4⟩) else [])
      let outs := if free then (List.range n).map (fun e =>
        ⟨e, some ((Config.freeWord (s.fresh + e)).toNat % 2 ^ d.format.bits), 0#4⟩) else outs ++ masked
      let s := if free then s.draws n else s
      let sats := (rows.filter (fun x => (x.2.map Prod.snd) = some true)).length
      let err := firstErr mb.2 o.err
      (s.putDest j d outs [] [] (mixedOn err) err).bind fun w s =>
        .ok (.ready { writtenResult w 0 with
          flags := 0#4, regs := [⟨0x20, 0, 48, true, sats⟩, ⟨0x28, 0, 48, false, sats⟩] }) s

/-- Elements of a command that take forwarded values (R189): all, active or masked. -/
def forwardNeed (c : EngineCmd) : Nat :=
  match vectorShape c.op (vectorSources c) ((c.s3.desc).getD ⟨0, 0, 0, 0, 0, 0, [], [], 0, 0, 0, 0⟩) with
  | some d => d.size
  | none => 0

/-- The mask descriptor of a command, named by `IMM16` and read at its own `BASE` (R183). -/
def State.maskDesc (s : State) (t : Nat) (op : Op) (w : CmdWord) : Option Desc :=
  match op.engine with
  | .ve => if op != .veEpi && w.imm 12 1 = 1 then s.descAt t (w.imm 0 12) else none
  | _ => none

/-- The most recent fixed-point command of a tile is one that saturated no element, if it failed before it had a result
(R188). -/
def Stage.noSats (c : EngineCmd) (st : Stage) : Stage :=
  match st with
  | .ready r => if isFixed c.op && r.regs.isEmpty then .ready { r with regs := [⟨0x28, 0, 48, false, 0⟩] } else st
  | st => st

/-- The work of a vector command other than `VE_EPI`, with all forwarded values at hand: the probe, then the elements. `lost` is
a fault that the probe met and that was not resolved. -/
def State.vectorWork (s : State) (t j : Nat) (c : EngineCmd) (mask : Option Desc) (fwd : List (BitVec 64))
    (lost : Option (Status × Nat) := none) : Stage × State :=
  match c.s3.desc.bind (fun d => (vectorShape c.op (vectorSources c) d).map (fun x => (d, x))) with
  | none => (.ready (failResult stDescBad 0), s)
  | some (d, shape) =>
    let reach := s.vectorReach j c shape d mask
    let per := vectorChunk c shape d reach
    let r := Access.stage (s.chunked j lost (fun k => if d.calibrated then 0 else k / per * per) reach shape.size (fun n s =>
      if c.op == .veCmp then s.vectorCmp j c shape d mask fwd n
      else if isFixed c.op then s.vectorFixed j c d mask n
      else s.vectorFloat t j c d mask fwd n))
    (r.1.noSats c, r.2)

/-- Taking groups from the forwarding buffer until `n` values are at hand (R153, R189). -/
def Tile.takeForward (x : Tile) (n : Nat) : Nat → Tile
  | 0 => x
  | fuel + 1 =>
    if n ≤ x.taken.length then x
    else
      match x.fwd with
      | [] => x
      | g :: gs => Tile.takeForward { x with fwd := gs, taken := x.taken ++ g } n fuel

/-- Values taken are used up; a failed producer's place moves up with them. -/
def Tile.dropForward (x : Tile) (n : Nat) : Tile :=
  { x with taken := x.taken.drop n, fwdFail := x.fwdFail.map (fun y => (y.1 - n, y.2)) }

/-- A consumer of `n` values meets a failed producer among them: its status, and the tile past that failure, the values that
came before it gone with the command (R189). -/
def Tile.forwardFault (x : Tile) (n : Nat) : Option (Status × Tile) :=
  match x.fwdFail with
  | (k, st) :: rest => if k < n then some (st, Tile.dropForward { x with fwdFail := rest } k) else none
  | [] => none

/-- A forwarded command's try: it fails with a failed producer whose place is among its values; with enough values it runs and
keeps the surplus for the next consumer; else it waits (R189). -/
def State.vectorForward (s : State) (t j : Nat) (c : EngineCmd) (mask : Option Desc) : Stage × State :=
  let n := forwardNeed c
  let x := Tile.takeForward (s.tile t) n 65
  let s := s.setTile t x
  match x.forwardFault n with
  | some (st, x) => (.ready (failResult st 0), s.setTile t x)
  | none =>
    if n ≤ x.taken.length then
      let r := s.vectorWork t j c mask (x.taken.take n)
      match r with
      | (.ready res, s) => (.ready res, s.modTile t (fun x => x.dropForward n))
      | r => r
    else (.forward 0 okResult, s)

/-- A vector command whose page fault failed: the chunks before keep their writes, and forwarded values go with it. -/
def State.vectorLost (s : State) (t j : Nat) (c : EngineCmd) (lost : Status × Nat) : Stage × State :=
  if c.op == .veEpi then (.ready (failResult lost.1 lost.2), s)
  else if c.w.flag 4 then
    let n := forwardNeed c
    let r := s.vectorWork t j c c.mask ((s.tile t).taken.take n) (some lost)
    (r.1, r.2.modTile t (fun x => x.dropForward n))
  else s.vectorWork t j c c.mask [] (some lost)

/-! ## Epilogues (R190) -/

/-- The elements of Y that a finished tile covers, clipped to the extents, row by row. -/
def epiElems (x : Desc) (e : FtEntry) : List Nat :=
  let r := ftField e 0 16
  let cl := ftField e 16 16
  let b := ftField e 32 32
  if x.extOf 2 * x.extOf 3 ≤ b then []
  else
    ((List.range 128).filter (fun i => decide (128 * r + i < x.extOf 1))).flatMap (fun i =>
      ((List.range 128).filter (fun k => decide (128 * cl + k < x.extOf 0))).map (fun k =>
        x.linear (128 * cl + k) (128 * r + i) (b % x.extOf 2) (b / x.extOf 2)))

/-- A `VE_EPI` starts: it probes every page that its elements touch (R185); a calibrated kind 1 Y takes its exponent from the
history alone, 0 with none (R190). -/
def State.epiStart (s : State) (t j : Nat) (c : EngineCmd) : Stage × State :=
  match c.s3.desc with
  | none => (.ready (failResult stDescBad 0), s)
  | some d =>
    Access.stage (s.chunked j none (fun _ => 0) (s.vectorReach j c d d none) d.size (fun _ s =>
      let s := s.modTile t (fun x => { x with epi := none })
      if d.skind = 1 && d.calibrated then
        (s.readScales j d [0]).bind fun m s =>
          match SMap.get none m.1 0, m.2 with
          | some w, none =>
            (s.readCal j d).bind fun r s =>
              let n := c.step.toNat
              if w % 2 ^ 32 ≠ 0 && bitsOf w 48 16 = n % 2 ^ 16 && bitsOf w 32 16 ≠ t then .fail stDescBad d.scalePtr s
              else
                let k := if (r.history n).isEmpty then 0 else r.tensorK d.format n Q.zero
                .ok (.epilogue 0 okResult)
                  (s.modTile t (fun x => { x with epi := some ⟨k, List.replicate 32 0, 0, 0, 0⟩ }))
          | _, e =>
            let (st, a) := e.getD (stDescBad, d.scalePtr)
            .fail st a s
      else .ok (.epilogue 0 okResult) s))

/-- Adding a histogram set to what a `VE_EPI` holds. -/
def EpiSave.add (p : EpiSave) (h : HistSet) : EpiSave :=
  { p with
    buckets := (p.buckets.zip h.buckets).map (fun x => min 0xFFFFFFFF (x.1 + x.2))
    amax := toF64 0 (Val.ofQ (Q.max (decodeElem .fp64 p.amax).q h.amax) false)
    zeros := p.zeros + h.zeros
    nonfinite := p.nonfinite + h.nonfinite }

/-- Writing one finished tile of Y. -/
def State.epiWrite (s : State) (t j : Nat) (c : EngineCmd) (d : Desc) (rs : List Result) (err : ReadErr) : Access Written :=
  let ctx := s.roundCtx j c.step c.w.mode (c.w.flag 3)
  match (s.tile t).epi with
  | some p =>
    if d.skind = 1 && d.calibrated then
      if err.isSome then .ok { flags := 0#4, err := err } s
      else
        (s.readCal j d).bind fun r s =>
          let vs := rs.filterMap Result.v
          let plan : DestPlan := ⟨convertPass d ctx (fun _ => Q.pow2 p.k) rs, fun _ => Q.pow2 p.k, [], [], false⟩
          let s := s.modTile t (fun x => { x with epi := some (p.add (histOf r.hbase vs)) })
          s.putDest j d plan.outs [] [] (mixedOn err) err
    else (s.writeResults j t d ctx false (mixedOn err) rs err).bind fun w s => .ok w.1 s
  | none => (s.writeResults j t d ctx false (mixedOn err) rs err).bind fun w s => .ok w.1 s

/-- The close of a `VE_EPI`: a calibrated kind 1 Y gets its slot and its one merge (R190). -/
def State.epiClose (s : State) (t j : Nat) (c : EngineCmd) (r : CmdResult) : Access Stage :=
  match c.s3.desc, (s.tile t).epi with
  | some d, some p =>
    (s.readCal j d).bind fun rec s =>
      let n := c.step.toNat
      let h : HistSet := ⟨p.buckets, (decodeElem .fp64 p.amax).q, p.zeros, p.nonfinite⟩
      let slot := slotBytes p.k ++ leBytes 2 t ++ leBytes 2 n
      let s := s.modTile t (fun x => { x with epi := none })
      (s.putDest j d [] (atVa d.scalePtr slot) (calWrites d (rec.merge n h)) false none).bind fun w s =>
        match w.err with
        | none => .ok (.ready r) s
        | some (st, a) => .ok (.ready { failResult st a with flags := r.flags }) s
  | _, _ => .ok (.ready r) s

/-- One entry popped and processed. A terminal entry names no tile: with a status it makes the epilogue partial. -/
def State.epiTile (s : State) (t j : Nat) (c : EngineCmd) (done : Nat) (r : CmdResult) : Stage × State :=
  match (s.tile t).ftq, c.s3.desc, c.s0.desc with
  | e :: rest, some d, some x =>
    let pop (s : State) : State := s.modTile t (fun y => { y with ftq := rest })
    let last := ftField e 96 1 = 1
    if ftField e 97 1 = 1 then
      let res := if ftField e 64 16 = 0 then r else { r with outcome := .donePartial, status := stPartial }
      Access.stage (((pop s).epiClose t j c res).keeping res.flags)
    else
      let es := epiElems x e
      let need := if c.w.flag 4 then es.length else 0
      let tile := Tile.takeForward (s.tile t) need 1100
      let s' := s.setTile t tile
      match tile.forwardFault need with
      | some (st, tile) => (.ready { failResult st 0 with flags := r.flags }, s'.setTile t tile)
      | none =>
      if tile.taken.length < need then (.epilogue done r, s')
      else
        -- forwarded values go to the tile's elements in the order processed
        let fmap : SMap (BitVec 64) := (es.zip tile.taken).foldl (fun m y => SMap.put m y.1 y.2) []
        let fwd := (List.range (es.foldl max 0 + 1)).map (fun i => SMap.get 0#64 fmap i)
        Access.stage (((s'.vectorOperands j c d (if need = 0 then [] else fwd) es).bind fun o s =>
          let (rs, s) := s.settleOverlap (vectorSources c) d (vectorResults c d es o)
          (s.epiWrite t j c d rs o.err).bind fun w s =>
            let s := (pop s).modTile t (fun y => y.dropForward need)
            let r := { r with flags := r.flags ||| w.flags }
            match w.err with
            | some (st, a) => .ok (.ready { failResult st a with flags := r.flags }) s
            | none => if last then (s.epiClose t j c r).keeping r.flags else .ok (.epilogue (done + 1) r) s).keeping r.flags)
  | _, _, _ => (.epilogue done r, s)

end Sys2Proof.Machine
end

