-- ==== Sys2Proof/Machine/Mover.lean ====
section
/-! DEFINITION. Mover.lean: the work of the tile mover on memory: `HANDOFF` (R51 to R57), copies, fills, gathers and
scatters, and the management of the pantry cache (R271 to R277). -/

namespace Sys2Proof.Machine

open Sys2Proof

/-! ## Checks 4 and 5 -/

/-- The short formats of a `HANDOFF` (R52). -/
def handoffShort (f : Fmt) : Bool := f.isShort && f != .fx192

/-- `HANDOFF` operands (R52): equal dimensions and extents, a permitted pairing, FP64 for an up conversion. -/
def handoffCheck (a d : Desc) : Option Status :=
  let wide (f : Fmt) : Bool := f == .fp64 || f == .fp32
  let pairing := (wide a.format && handoffShort d.format) || (handoffShort a.format && d.format == .fp64)
  if a.ndim = d.ndim && a.sameExt d && pairing && decide (d.skind ≤ 2) && d.calOk then none else some stDescBad

/-- A destination of the tile mover (R70, R180, R272). -/
def Desc.moverOk (d : Desc) : Bool := d.format != .fx192 && decide (d.skind ≤ 2) && d.calOk
/-- FX192 converts to FP64 or FP32 only (R70). -/
def fxOk (a d : Desc) : Bool := a.format != .fx192 || d.format == .fp64 || d.format == .fp32

/-- The staging area of a tile: offset of slot 0 and slot size (Table 9.14). -/
def Tile.staging (x : Tile) : Nat × Nat := (fieldOf (x.reg .tm 0x80) 0 22, fieldOf (x.reg .tm 0x88) 0 22)

/-- Elements fit the staging slot, and the area lies in the store (R274). -/
def stagingOk (st : Nat × Nat) (bytes : Nat) : Bool :=
  decide (0 < st.2) && decide (bytes ≤ st.2) && decide (st.1 + 2 * st.2 ≤ 0x400000) && st.1 % 64 = 0 && st.2 % 64 = 0

/-- Bytes of E elements of a format, whole. -/
def packedBytes (d : Desc) (e : Nat) : Nat := (e * d.format.bits + 7) / 8

/-- Index tensors (R275). -/
def Desc.indexOk (d : Desc) (remote : Bool) : Bool :=
  (d.format == .int64 || (d.format == .int32 && !remote)) && d.skind = 0 && d.ndim = 0

/-- Checks 4 and 5 on a tile-mover memory command. The Range of `TM_PREFETCH` and `TM_CLEAN` is no source operand, so that kinds 3
and 4 are refused there (R59); the staging rule of R274 where `lim` says so. -/
def moverCheck (lim : Bool) (c : EngineCmd) (staging : Nat × Nat) : Option Status :=
  let aligned (ds : List Desc) : Option Status := if ds.all Desc.aligned then none else some stAlignment
  match c.op with
  | .handoff =>
    match c.s0.desc, c.s1.desc with
    | some a, some d => handoffCheck a d
    | _, _ => some stDescBad
  | .tmCopy =>
    match c.s0.desc, c.s2.desc with
    | some a, some d => if a.sameExt d && d.moverOk && fxOk a d then aligned [a, d] else some stDescBad
    | _, _ => some stDescBad
  | .tmGather =>
    match c.s0.desc, c.s1.desc, c.s2.desc with
    | some a, some i, some d =>
      if i.indexOk (c.w.flag 4) && d.ndim = 0 && d.extOf 0 = i.extOf 0 && d.moverOk && fxOk a d
          && (!lim || stagingOk staging (packedBytes d d.size)) then
        aligned [a, i, d]
      else some stDescBad
    | _, _, _ => some stDescBad
  | .tmScatter =>
    match c.s0.desc, c.s1.desc, c.s2.desc with
    | some a, some i, some d =>
      if i.indexOk false && i.size = a.size && d.moverOk && d.skind ≠ 2 && !d.calibrated && fxOk a d
          && (!lim || stagingOk staging (packedBytes a a.size)) then
        aligned [a, i, d]
      else some stDescBad
    | _, _, _ => some stDescBad
  | .tmFill =>
    match c.s2.desc with
    | some d => if d.moverOk then aligned [d] else some stDescBad
    | none => some stDescBad
  | _ => if (c.s0.desc).any (fun d => d.skind ≠ 3 && d.skind ≠ 4) then none else some stDescBad

/-! ## Shared steps -/

/-- The exact values of elements as results of a destination, in order; a widening to FP64 is quiet (R71). -/
def valueResults (a d : Desc) (es : List Nat) (vs : List (Option Val)) : List Result :=
  (es.zip vs).map (fun x => ⟨x.1, x.2.map (quietWiden (.tensor a) d), 0#4, true⟩)

/-- The result of a conversion that may have redone (R88). -/
def moverResult (w : Written × Bool × DestPlan) : CmdResult :=
  let r := writtenResult w.1 0
  if r.outcome == .done && w.2.1 then { r with status := stScaleRedone } else r

/-- A bit copy needs equal formats and scale kinds and no calibration (R272). -/
def bitCopy (a d : Desc) : Bool := a.fmt = d.fmt && a.skind = d.skind && !d.calibrated

/-- The scale bytes that a bit copy carries: the scale of a slot, or the block-scale bytes (R272). -/
def State.copyScales (s : State) (j : Nat) (a d : Desc) : Access (List (Nat × Byte) × ReadErr) :=
  let n := if a.skind = 1 then 4 else if a.skind = 2 then a.size / 32 else 0
  if n = 0 then .ok ([], none) s
  else
    (s.readLenient j a.checked (vaRange a.scalePtr n)).bind fun r s =>
      .ok (((vaRange d.scalePtr n).zip r.1).filterMap (fun x => x.2.map (fun b => (x.1, b))), r.2) s

/-! ## `HANDOFF` -/

/-- An up conversion's statistics: every field 0 but `COUNT` (R55). -/
def upStats (n : Nat) : List Byte := zeros 0x28 ++ leBytes 8 n ++ zeros 16

/-- The work of `HANDOFF` (R53 to R56): a failing source leaves the destination untouched; the statistics record follows
the last element. -/
def State.handoffWork (s : State) (t j : Nat) (c : EngineCmd) : Stage × State :=
  Access.stage (
    match c.s0.desc, c.s1.desc with
    | some a, some d =>
      let stats := if c.w.flag 4 then vaRange c.s2.addrVal 64 else []
      (s.probe j true (pagesOf stats)).bind fun _ s =>
        (s.readVals j a a.all).bind fun r s =>
          let rs := valueResults a d a.all r.vals
          (s.writeResults j t d (s.roundCtx j c.step c.w.mode (c.w.flag 3)) true false rs r.err).bind fun w s =>
            let res := moverResult w
            if res.outcome == .done && c.w.flag 4 then
              let bs := if handoffShort a.format then upStats a.size else statsBytes d w.2.2
              ((s.writeField j c.s2.addrVal bs).bind fun _ s => .ok (.ready res) s).keeping res.flags
            else .ok (.ready res) s
    | _, _ => .fail stDescBad 0 s)

/-! ## Copy and fill -/

/-- The work of `TM_COPY`. -/
def State.copyWork (s : State) (t j : Nat) (c : EngineCmd) : Stage × State :=
  Access.stage (
    match c.s0.desc, c.s2.desc with
    | some a, some d =>
      if bitCopy a d then
        (s.readElems j a a.all).bind fun r s =>
          (s.copyScales j a d).bind fun sc s =>
            let lap := badOverlap [a] d
            let outs : List OutElem := (a.all.zip r.1).map (fun x =>
              ⟨x.1, if lap then some ((Config.freeWord (s.fresh + x.1)).toNat % 2 ^ d.format.bits) else x.2, 0#4⟩)
            let s := if lap then { s with fresh := s.fresh + a.size } else s
            let err := firstErr r.2 sc.2
            (s.putDest j d outs sc.1 [] (mixedOn err) err).bind fun w s => .ok (.ready (writtenResult w 0)) s
      else
        (s.readVals j a a.all).bind fun r s =>
          let (rs, s) := s.settleOverlap [a] d (valueResults a d a.all r.vals)
          (s.writeResults j t d (s.roundCtx j c.step c.w.mode (c.w.flag 3)) true (mixedOn r.err) rs r.err).bind fun w s =>
            .ok (.ready (moverResult w)) s
    | _, _ => .fail stDescBad 0 s)

/-- The scalar of a fill: FP64 for floating-point and block-scaled formats, INT64 for integers (R272). -/
def fillValue (d : Desc) (v : BitVec 64) : Val :=
  if d.format.float.isSome || d.format.isMx then decodeElem .fp64 v.toNat else Val.ofQ (Q.ofInt v.toInt) false

/-- The work of `TM_FILL`: the value is converted once, as element 0 (log 20), and written to every element. -/
def State.fillWork (s : State) (t j : Nat) (c : EngineCmd) : Stage × State :=
  Access.stage (
    match c.s0, c.s2.desc with
    | .scalar x, some d =>
      let rs : List Result := d.all.map (fun e => ⟨e, some (fillValue d x), 0#4, true⟩)
      (s.planDest j t d (s.roundCtx j c.step c.w.mode (c.w.flag 3)) false rs).bind fun p s =>
        let outs := p.outs
        let outs := match outs.head? with
          | some o => outs.map (fun x => { x with bits := o.bits, flags := o.flags })
          | none => outs
        (s.putDest j d outs p.scales p.recs true none).bind fun w s => .ok (.ready (writtenResult w 0)) s
    | _, _ => .fail stDescBad 0 s)

/-! ## Gather and scatter (R274 to R276) -/

/-- An index as read: the endpoint it names, none for this package, and the element. -/
structure GatherIdx where
  ep : Option Nat
  idx : Int
  deriving DecidableEq, Repr

/-- An index of an index tensor from its stored bits. -/
def State.indexOf (s : State) (i : Desc) (remote : Bool) (b : Nat) : GatherIdx :=
  if remote then
    let ep := b / 2 ^ 48
    ⟨if s.fab.endpoint = some ep then none else some ep, ((b % 2 ^ 48 : Nat) : Int)⟩
  else ⟨none, signExt i.format.bits b⟩

/-- An index lies inside the extents of a tensor of `n` elements. -/
def GatherIdx.inside (x : GatherIdx) (n : Nat) : Bool := decide (0 ≤ x.idx) && decide (x.idx < (n : Int))

/-- An index as memory shows it, unverified; none where a page of it does not translate. -/
def State.peekIndex (s : State) (j : Nat) (i : Desc) (remote : Bool) (k : Nat) : Option GatherIdx :=
  (allBytes ((i.bytesOf k).map (fun va =>
    match s.translate j va false with
    | .ok pa c => some (s.store.byte c pa)
    | _ => none))).map (fun bs => s.indexOf i remote (leNat bs))

/-- The addresses that element number `k` of a tile-mover command reaches, and whether it writes them: its index, its
source element and its destination element with their scale records; of a remote element only what is here. -/
def State.elemReach (s : State) (j : Nat) (c : EngineCmd) (k : Nat) : List (Nat × Bool) :=
  let reads (d : Option Desc) (e : Nat) : List (Nat × Bool) :=
    ((d.map (fun d => d.bytesOf e ++ d.scaleBytes e)).getD []).map (fun va => (va, false))
  let writes (d : Option Desc) (e : Nat) : List (Nat × Bool) :=
    ((d.map (fun d => d.bytesOf e ++ d.scaleBytes e ++ (if d.calibrated then vaRange d.calPtr 64 else []))).getD []).map
      (fun va => (va, true))
  let idx (remote : Bool) : List (Nat × Bool) × Option GatherIdx :=
    match c.s1.desc with
    | some i => ((i.bytesOf k).map (fun va => (va, false)), s.peekIndex j i remote k)
    | none => ([], none)
  let here (x : Option GatherIdx) (d : Option Desc) (f : Option Desc → Nat → List (Nat × Bool)) : List (Nat × Bool) :=
    match x, d with
    | some x, some d' => if x.ep.isNone && x.inside d'.size then f d x.idx.toNat else []
    | _, _ => []
  match c.op with
  | .tmGather =>
    let x := idx (c.w.flag 4)
    x.1 ++ here x.2 c.s0.desc reads ++ writes c.s2.desc k
  | .tmScatter =>
    let x := idx false
    x.1 ++ reads c.s0.desc k ++ here x.2 c.s2.desc writes
  | .handoff => reads c.s0.desc k ++ writes c.s1.desc k
  | .tmFill => writes c.s2.desc k
  | _ => reads c.s0.desc k ++ writes c.s2.desc k

/-- How many elements a tile-mover command has. -/
def moverCount (c : EngineCmd) : Nat :=
  let d := match c.op with
    | .tmGather => c.s1.desc
    | .tmFill => c.s2.desc
    | _ => c.s0.desc
  (d.map Desc.size).getD 0

/-- The lowest element that meets a failure (R275): on its page for a translation, at its address for a bad record or
index, in its block otherwise; 0 where none does. -/
def State.failingElem (s : State) (j : Nat) (c : EngineCmd) (st : Status) (a : Nat) : Nat :=
  let hit (x : Nat × Bool) : Bool :=
    if st == stTranslation || st == stTileLost then decide (x.1 / 0x200000 = a / 0x200000)
    else if st == stDescBad then decide (x.1 = a)
    else match s.translate j x.1 x.2 with
      | .ok pa _ => decide (pa / 4096 = a / 4096)
      | _ => false
  ((List.range (moverCount c)).find? (fun k => (s.elemReach j c k).any hit)).getD 0

/-- A failed gather or scatter with its element. -/
def failElem (st : Status) (a e : Nat) : CmdResult := { failResult st a with elem := e }

/-- A failure of a tile-mover command's own work names its lowest element. -/
def State.nameElem (s : State) (j : Nat) (c : EngineCmd) (st : Stage) : Stage :=
  match st with
  | .ready r => if r.outcome == .failed then .ready { r with elem := s.failingElem j c r.status r.addr } else st
  | st => st

/-- Probing the elements of a gather or scatter: the failure is that of the lowest element that has one (R275). -/
def State.probeNamed (s : State) (j : Nat) (xs : List (Nat × List (Nat × Bool))) : Access (Option CmdResult) :=
  (s.probeElems j xs).bind fun p s => .ok (p.map (fun x => failElem x.2.1 x.2.2 x.1)) s

/-- Reading an index tensor of which every index must lie inside `n` elements: the indices, or the failure of the lowest
element that has one. -/
def State.readIndices (s : State) (j : Nat) (i : Desc) (remote : Bool) (n : Nat) :
    Access (List GatherIdx × Option CmdResult) :=
  (s.probeNamed j (i.all.map (fun k => (k, (i.bytesOf k).map (fun va => (va, false)))))).bind fun p s =>
    match p with
    | some r => .ok ([], some r) s
    | none =>
      (s.readElems j i i.all).bind fun r s =>
        let xs := r.1.map (fun b => b.map (s.indexOf i remote))
        let fail (k : Nat) : Option CmdResult :=
          match xs.getD k none with
          | none => r.2.map (fun e => failElem e.1 e.2 k)
          | some x => if x.inside n then none else some (failElem stDescBad (i.addr k) k)
        .ok (xs.filterMap id, (List.range xs.length).findSome? fail) s

/-- The stored bits of elements alone, for a bit copy, which takes no value and asks no scale (R488). -/
def State.readBits (s : State) (j : Nat) (d : Desc) (idx : List Nat) : Access ReadVals :=
  (s.readElems j d idx).bind fun r s => .ok ⟨idx.map (fun _ => none), r.2, r.1⟩ s

/-- Reading source elements one after another, each with its position: their values, unless only `bits` are asked for, and bits by
position, and the failure of the lowest position that has one. -/
def State.readEach (s : State) (j : Nat) (a : Desc) (bits : Bool) :
    List (Nat × Nat) → Access (SMap (Option Val × Option Nat) × Option CmdResult)
  | [] => .ok ([], none) s
  | (k, e) :: rest =>
    match (if bits then s.readBits j a [e] else s.readVals j a [e]) with
    | .fault va w s => .fault va w s
    | .fail st ad s => (State.readEach s j a bits rest).bind fun x s => .ok (x.1, some (failElem st ad k)) s
    | .ok r s =>
      (State.readEach s j a bits rest).bind fun x s =>
        .ok (SMap.put x.1 k ((r.vals.head?).join, (r.bits.head?).join),
          match r.err with
          | some e => some (failElem e.1 e.2 k)
          | none => x.2) s

/-- The bytes that assembly leaves in the running command's staging slot. The spec gives them no meaning: free values. -/
def State.stage (s : State) (t : Nat) (staging : Nat × Nat) (bytes : Nat) : State :=
  let base := tileBase t + staging.1
  let ws := (List.range bytes).map (fun i => (base + i, Config.freeByte s.fresh i))
  match s.writeBlocks true ws (blocksOf (ws.map (fun w => (w.1, false)))) with
  | .ok _ s => s.drawn
  | .fault _ _ s => s.drawn
  | .fail _ _ s => s.drawn

/-- A gather writes its elements as bits: where a copy would be a bit copy of elements whose scale they share, or that have none. -/
def gatherBits (a d : Desc) : Bool := bitCopy a d && decide (a.skind ≤ 1)

/-- What a gather knows before it writes: its indices and the values of its local elements by position. -/
structure Gathered where
  idx : List GatherIdx
  vals : List (Option Val)
  bits : List (Option Nat)

/-- Steps 1 to 3 of a gather on this package: indices, probes of element, index and D pages, elements. The inner
failure is that of the lowest failing element. -/
def State.gatherLocal (s : State) (j : Nat) (c : EngineCmd) (a i : Desc) : Access (Gathered × Option CmdResult) :=
  (s.readIndices j i (c.w.flag 4) a.size).bind fun is s =>
    match is.2 with
    | some r => .ok (⟨is.1, [], []⟩, some r) s
    | none =>
      (s.probeNamed j ((List.range is.1.length).map (fun k => (k, s.elemReach j c k)))).bind fun p s =>
        match p with
        | some r => .ok (⟨is.1, [], []⟩, some r) s
        | none =>
          let here := ((List.range is.1.length).zip is.1).filterMap (fun x =>
            if x.2.ep.isNone then some (x.1, x.2.idx.toNat) else none)
          (s.readEach j a ((c.s2.desc).any (gatherBits a)) here).bind fun r s =>
            let pos := List.range is.1.length
            .ok (⟨is.1, pos.map (fun k => (SMap.get (none, none) r.1 k).1), pos.map (fun k => (SMap.get (none, none) r.1 k).2)⟩,
              r.2) s

/-- Step 4: D is written from the staged values, as bits where a copy would be a bit copy of plain elements, by value
otherwise; any failure leaves it untouched. -/
def State.gatherWrite (s : State) (t j : Nat) (c : EngineCmd) (a d : Desc) (vals : List (Option Val))
    (bits : List (Option Nat)) : Access Stage :=
  let s := s.stage t c.staging (packedBytes d d.size)
  if gatherBits a d then
    (s.copyScales j a d).bind fun sc s =>
      let outs : List OutElem := (d.all.zip bits).map (fun x => ⟨x.1, x.2, 0#4⟩)
      (s.putDest j d outs sc.1 [] false sc.2).bind fun w s => .ok (s.nameElem j c (.ready (writtenResult w 0))) s
  else
    (s.writeResults j t d (s.roundCtx j c.step c.w.mode (c.w.flag 3)) true false (valueResults a d d.all vals) none).bind
      fun w s => .ok (s.nameElem j c (.ready (moverResult w))) s

/-- The work of a local `TM_GATHER`. -/
def State.gatherWork (s : State) (t j : Nat) (c : EngineCmd) : Stage × State :=
  Access.stage (
    match c.s0.desc, c.s1.desc, c.s2.desc with
    | some a, some i, some d =>
      (s.gatherLocal j c a i).bind fun g s =>
        match g.2 with
        | some r => .ok (.ready r) s
        | none => s.gatherWrite t j c a d g.1.vals g.1.bits
    | _, _, _ => .fail stDescBad 0 s)

/-- The outputs of a scatter in the order of their first positions, each with its last value (R276). -/
def lastOuts (outs : List OutElem) : List OutElem :=
  (dedup (outs.map (fun o => o.e))).filterMap (fun e => outs.reverse.find? (fun o => o.e = e))

/-- The work of `TM_SCATTER`: indices, the probe of every page, the whole source, then D. -/
def State.scatterWork (s : State) (t j : Nat) (c : EngineCmd) : Stage × State :=
  Access.stage (
    match c.s0.desc, c.s1.desc, c.s2.desc with
    | some a, some i, some d =>
      (s.readIndices j i false d.size).bind fun is s =>
        match is.2 with
        | some r => .ok (.ready r) s
        | none =>
          (s.probeNamed j ((List.range a.size).map (fun k => (k, s.elemReach j c k)))).bind fun p s =>
            match p with
            | some r => .ok (.ready r) s
            | none =>
              (s.readEach j a false ((List.range a.size).zip a.all)).bind fun r s =>
                match r.2 with
                | some r => .ok (.ready r) s
                | none =>
                  let s := s.stage t c.staging (packedBytes a a.size)
                  let ks := is.1.map (fun x => x.idx.toNat)
                  if bitCopy a d && a.skind = 0 then
                    let outs : List OutElem := (ks.zip a.all).map (fun x => ⟨x.1, (SMap.get (none, none) r.1 x.2).2, 0#4⟩)
                    (s.putDest j d (lastOuts outs) [] [] true none).bind fun w s =>
                      .ok (s.nameElem j c (.ready (writtenResult w 0))) s
                  else
                    let rs := valueResults a d ks (a.all.map (fun k => (SMap.get (none, none) r.1 k).1))
                    let rc := s.roundCtx j c.step c.w.mode (c.w.flag 3)
                    (s.planDest j t d rc false rs).bind fun p s =>
                      let fl := p.outs.foldl (fun f o => f ||| o.flags) 0#4
                      (s.putDest j d (lastOuts p.outs) [] [] true none).bind fun w s =>
                        .ok (s.nameElem j c (.ready (writtenResult (if w.err.isNone then { w with flags := fl } else w) 0))) s
    | _, _, _ => .fail stDescBad 0 s)

/-! ## The pantry cache (R277) -/

/-- The cached blocks of a range, in order. -/
def State.cachedBlocks (s : State) (j : Nat) (d : Desc) : List Nat :=
  dedup ((d.all.flatMap d.bytesOf).filterMap (fun va =>
    match s.translate j va false with
    | .ok pa true => some (pa / 4096)
    | _ => match s.translate j va true with
      | .ok pa true => some (pa / 4096)
      | _ => none))

/-- `TM_PREFETCH`: blocks brought into their home die without verification. -/
def State.prefetchWork (s : State) (j : Nat) (c : EngineCmd) : Stage × State :=
  match c.s0.desc with
  | none => (.ready (failResult stDescBad 0), s)
  | some d => (.ready okResult, s.withStore ((s.cachedBlocks j d).foldl Store.allocLine s.store))

/-- `TM_CLEAN`: dirty lines written to the cellar, with their poison; a dirty line that is poisoned or fails its check
makes the command fail (Table 9.13). -/
def State.cleanWork (s : State) (j : Nat) (c : EngineCmd) : Stage × State :=
  match c.s0.desc with
  | none => (.ready (failResult stDescBad 0), s)
  | some d =>
    let r := (s.cachedBlocks j d).foldl (fun (acc : ReadErr × State) b =>
      let l := SMap.get {} acc.2.store.lines b
      let chk : Option Status × Store := if l.dirty then acc.2.store.verify true b else (none, acc.2.store)
      let s := acc.2.takeStore chk.2
      (firstErr acc.1 (chk.1.map (fun st => (st, b * 4096))), s.withStore (s.store.cleanLine (c.w.flag 4) b))) (none, s)
    match r.1 with
    | some (st, a) => (.ready (failResult st a), r.2)
    | none => (.ready okResult, r.2)

end Sys2Proof.Machine
end

