-- ==== Sys2Proof/Machine/Fabric.lean ====
section
/-! DEFINITION. Fabric.lean: the sending side of the Wetas fabric (chapter 11): packets as bytes, sending checks, flows
and their requests, and the work of the fabric commands from their dispatch and again whenever what they wait for may
have come. -/

namespace Sys2Proof.Machine

open Sys2Proof

/-! ## Packets (R315) -/

/-- The 32-byte header (Table 11.2). -/
def packetHeader (p : Packet) : List Byte :=
  [p.typ, p.pflags] ++ leBytes 2 p.dst.toNat ++ leBytes 2 p.src.toNat ++ [p.path, p.subop] ++ leBytes 4 p.jtag.toNat
    ++ leBytes 4 p.seq.toNat ++ leBytes 4 p.ackbase.toNat ++ leBytes 2 p.length.toNat ++ leBytes 2 p.handle.toNat
    ++ leBytes 6 p.offset.toNat ++ [p.stile, p.rsvd]

/-- The trailer a packet must carry: CRC-32C of header and payload. -/
def packetCrc (p : Packet) : BitVec 32 := BitVec.ofNat 32 (crc32c (packetHeader p ++ p.payload))

/-- A packet with its trailer. -/
def sealPacket (p : Packet) : Packet := { p with trailer := packetCrc p }

/-- An empty packet. -/
def noPacket : Packet :=
  ⟨0#8, 0#8, 0#16, 0#16, 0#8, 0#8, 0#32, 0#32, 0#32, 0#16, 0#16, 0#48, 0#8, 0#8, [], 0#32⟩

/-- Packet types (Table 11.3). -/
def tyLoad : Nat := 0x01
def tyLoadRsp : Nat := 0x02
def tyStore : Nat := 0x03
def tyAtomic : Nat := 0x04
def tyAtomicRsp : Nat := 0x05
def tyTrigger : Nat := 0x06
def tySend : Nat := 0x07
def tyStream : Nat := 0x08
def tyAck : Nat := 0x10
def tyNack : Nat := 0x11

/-- A response: `JTAG`, `SEQ`, `PATH` and `STILE` of the request, `SRC` and `DST` exchanged (R315). -/
def replyTo (p : Packet) (typ subop : Nat) (payload : List Byte) : Packet :=
  sealPacket { noPacket with
    typ := BitVec.ofNat 8 typ, dst := p.src, src := p.dst, path := p.path, subop := BitVec.ofNat 8 subop
    jtag := p.jtag, seq := p.seq, stile := p.stile, length := BitVec.ofNat 16 payload.length, payload := payload }

/-- Status of a NACK code (Table 11.4); none for busy. -/
def nackStatus (code : Nat) : Option Status :=
  match code with
  | 1 => some stTranslation
  | 2 => some stPoisoned
  | 3 => some stChecksum
  | 4 => some stDescBad
  | 5 => none
  | 6 => some stNonfinite
  | _ => some stDescBad

/-! ## FX192 limbs (R68, R69, R324) -/

/-- The unique normalised limbs of an integer below 2^167 in magnitude, L2 taking the rest, as 192 bits; none where L2
leaves the INT64 range. -/
def limbsOf (n : Int) : Option Nat :=
  let h : Int := ((2 ^ 55 : Nat) : Int)
  let m : Int := ((2 ^ 56 : Nat) : Int)
  let l0 := (n + h) % m - h
  let r := (n - l0) / m
  let l1 := (r + h) % m - h
  let l2 := (r - l1) / m
  let w (x : Int) : Nat := (x % ((2 ^ 64 : Nat) : Int)).toNat
  if l2 < -((2 ^ 63 : Nat) : Int) || ((2 ^ 63 : Nat) : Int) ≤ l2 then none
  else some (w l0 + w l1 * 2 ^ 64 + w l2 * 2 ^ 128)

/-- An FP64 value relative to an anchor, truncated toward −∞ to limbs, with NX; or the status and flags it fails with
(R324). -/
def fxOperand (alpha : Int) (v : Val) : Except Flags (Nat × Flags) :=
  match v with
  | .nan _ => .error flagNV
  | .inf _ => .error flagOF
  | .zero _ => .ok (0, 0#4)
  | .fin q =>
    if Q.le (Q.pow2 (alpha + 1)) q.abs then .error flagOF
    else
      let n := q.floorAt (alpha - 166)
      let exact := Q.eq (Q.scaled n (alpha - 166)) q
      .ok ((limbsOf n).getD 0, if exact then 0#4 else flagNX)

/-! ## Paths, flows and requests (R317, R335) -/

/-- The paths in their cyclic order from one on, the first live one of them. -/
def State.livePath (s : State) (from_ : Nat) : Nat :=
  let n := max 1 s.fab.paths
  ((List.range n).map (fun i => (from_ + i) % n)).find? (fun p => !(s.fab.pathsDown.contains p)) |>.getD (from_ % n)

/-- A request to send: its type, fields, payload, and how many remote bytes it touches. -/
structure Req where
  typ : Nat
  pflags : Nat
  subop : Nat
  handle : Nat
  off : Nat
  payload : List Byte
  size : Nat

/-- Who issues a request: the tile on whose behalf, the `STILE` it carries, and for whom its response counts. -/
structure Issuer where
  tile : Nat
  stile : Nat
  owner : FabOwner

/-- Operations of an issuer that a fence would cover, in issue order (R340): a tile's posted ones, or a list's own. -/
def postedBy (jb : Job) (w : Issuer) : List FabOp :=
  jb.ops.filter (fun o => o.owner == w.owner && (o.tile = w.tile || w.owner != .posted))

/-- Operations that the running command of a tile waits for. -/
def awaitedBy (jb : Job) (t : Nat) : List FabOp := jb.ops.filter (fun o => o.owner == .waiting && o.tile = t)

/-- The bits of the binding's tag and epoch. -/
def Binding.word (b : Binding) : BitVec 32 := BitVec.ofNat 32 b.jtag

/-- The sending checks of R333. -/
def Binding.permits (b : Binding) (dst : Nat) (r : Req) : Bool :=
  let inRange (x : Nat × Nat) : Bool := decide (x.1 ≤ dst) && decide (dst ≤ x.2)
  let window (ok : Window → Bool) : Bool :=
    b.windows.any (fun w => ok w && decide (w.base ≤ r.off) && decide (r.off + r.size ≤ w.base + w.size))
  if r.typ = tyStream then inRange b.gateways
  else if inRange b.gateways || !(b.endpoints.any inRange) then false
  else if r.typ = tyLoad then window Window.r
  else if r.typ = tyStore then window Window.w
  else if r.typ = tyAtomic then window Window.a
  else b.windows.any (fun w => decide (0 < w.size) && w.t)

/-- The lowest number of a flow that still awaits a response; the given number where none does. -/
def flowBase (jb : Job) (dst seq : Nat) : Nat :=
  match jb.ops.find? (fun o => o.dst = dst && !o.answered) with
  | some o => o.seq
  | none => seq

/-- Sending, or sending again, an operation: the next attempt's path, `RETX` from the second one on, the current
`ACKBASE` (R317, R338). A busy retry keeps the path count of its attempt. -/
def State.transmit (s : State) (j : Nat) (o : FabOp) (retx : Bool) : State :=
  let jb := s.job j
  let p0 := Config.pathHash o.pkt.src.toNat o.dst (o.pkt.offset.toNat / 4096) % max 1 s.fab.paths
  let path := if o.attempts = 0 then s.livePath p0 else if retx then s.livePath (o.pkt.path.toNat + 1) else o.pkt.path.toNat
  let p := sealPacket { o.pkt with
    pflags := if retx then o.pkt.pflags ||| 1#8 else o.pkt.pflags
    path := BitVec.ofNat 8 path
    ackbase := BitVec.ofNat 32 (flowBase jb o.dst o.seq) }
  let o' := { o with pkt := p, attempts := o.attempts + (if retx || o.attempts = 0 then 1 else 0) }
  (s.setJob j { jb with ops := jb.ops.map (fun x => if x.issue = o.issue && x.dst = o.dst && x.seq = o.seq then o' else x) }).sendPacket p

/-- Operations of a flow that await a response and have been sent. -/
def inFlight (jb : Job) (dst : Nat) : Nat :=
  (jb.ops.filter (fun o => o.dst = dst && !o.answered && decide (0 < o.attempts))).length

/-- Sending what waits for room in its flow's window of 1,024 (R335). -/
def State.pump (s : State) (j : Nat) : State :=
  ((s.job j).ops.filter (fun o => o.attempts = 0 && !o.answered)).foldl (fun s o =>
    if inFlight (s.job j) o.dst < 1024 then s.transmit j o false else s) s

/-- A request numbered in its flow, recorded and sent. -/
def State.sendReq (s : State) (j : Nat) (w : Issuer) (dst : Nat) (r : Req) : State :=
  let jb := s.job j
  match jb.binding with
  | none => s
  | some b =>
    let seq := SMap.get 0 jb.nextSeq dst
    let p : Packet := { noPacket with
      typ := BitVec.ofNat 8 r.typ, pflags := BitVec.ofNat 8 r.pflags, dst := BitVec.ofNat 16 dst
      src := BitVec.ofNat 16 (s.fab.endpoint.getD 0), subop := BitVec.ofNat 8 r.subop, jtag := b.word
      seq := BitVec.ofNat 32 seq, length := BitVec.ofNat 16 r.payload.length, handle := BitVec.ofNat 16 r.handle
      offset := BitVec.ofNat 48 r.off, stile := BitVec.ofNat 8 w.stile, payload := r.payload }
    let o : FabOp :=
      { dst := dst, seq := seq, pkt := p, tile := w.tile, owner := w.owner, issue := jb.nextIssue, attempts := 0
        busy := 0, unreachable := false, answered := false, status := stOK, flags := 0#4, value := 0#64, data := []
        covered := false }
    let s := s.setJob j { jb with
      ops := jb.ops ++ [o], nextSeq := SMap.set 0 jb.nextSeq dst ((seq + 1) % 2 ^ 32), nextIssue := jb.nextIssue + 1 }
    s.pump j

/-- A fabric command may be issued (R331, R344): the package has an endpoint number and the job a bound tag. -/
def State.fabAllowed (s : State) (j : Nat) : Option Status :=
  let jb := s.job j
  if jb.torn then some stTorn
  else if s.fab.endpoint.isNone || jb.binding.isNone then some stNotPermitted
  else none

/-! ## Building requests -/

/-- Maximal runs of rising addresses that cross no 4 KiB boundary. -/
def runsOf : List (Nat × Byte) → List (Nat × List Byte)
  | [] => []
  | (a, b) :: rest =>
    match runsOf rest with
    | [] => [(a, [b])]
    | (a', bs) :: more =>
      if a + 1 = a' && a' % 4096 ≠ 0 then (a, b :: bs) :: more else (a, [b]) :: (a', bs) :: more

/-- The byte addresses of a tensor, rising, each once. -/
def Desc.byteMap (d : Desc) : List Nat :=
  ((d.all.flatMap d.bytesOf).foldl (fun (m : SMap Unit) a => SMap.put m a ()) []).map Prod.fst

/-- The bytes of a tensor in linear order, each address once. -/
def Desc.byteOrder (d : Desc) : List Nat := dedup (d.all.flatMap d.bytesOf)

/-- The destination endpoint a command names (Table 11.6). -/
def destOf (c : EngineCmd) : Nat :=
  let x := c.s2.immVal.toNat
  if bitsOf x 21 1 = 1 then (c.sreg.getD (bitsOf x 16 5) 0#64).toNat % 2 ^ 16 else x % 2 ^ 16

/-- The queue of a message command. -/
def queueOf (c : EngineCmd) : Nat := bitsOf c.s3.immVal.toNat 9 4

/-- An S register as dispatched. -/
def EngineCmd.sr (c : EngineCmd) (n : Nat) : BitVec 64 := c.sreg.getD n 0#64

/-- Fields of an atomic (Table 11.6). -/
def atomicFmt (c : EngineCmd) : Fmt := (Fmt.ofCode (bitsOf c.s0.immVal.toNat 8 5)).getD .int64
def atomicFetch (c : EngineCmd) : Bool := bitsOf c.s0.immVal.toNat 13 1 = 1
/-- An operation of Table 11.7. -/
def isAtomic (op : Op) : Bool := op.aop.isSome

/-- Alignment of an atomic's element (R323). -/
def atomicAlign (f : Fmt) : Nat := if f = .fx192 then 8 else f.bits / 8

/-- The request of an atomic, or the status and flags it fails with before it sends. The layout beyond the control
word's stated fields is the model's (log 21): operand and compare value take the element's bytes, and bit 7 of the
control word asks for the old value. -/
def atomicReq (c : EngineCmd) : Except Flags (Req × Flags) :=
  let f := atomicFmt c
  let n := f.bits / 8
  let ctl := f.code + c.w.mode * 2 ^ 5 + bit (atomicFetch c) * 2 ^ 7
  let aop := c.op.aop.getD 0
  let base (body : List Byte) : Req := ⟨tyAtomic, 0, aop, 0, c.s1.addrVal, leBytes 8 ctl ++ body, n⟩
  if aop = 0x20 then
    match fxOperand (signExt 16 (bitsOf c.s0.immVal.toNat 16 16)) (decodeElem .fp64 (c.sr (c.w.imm 0 5)).toNat) with
    | .error fl => .error fl
    | .ok (l, fl) => .ok (base (leBytes n l), fl)
  else
    let operand := leBytes n (c.sr (c.w.imm 0 5)).toNat
    let cmp := if aop = 0x09 then leBytes n (c.sr (c.w.imm 5 5)).toNat else []
    .ok (base (operand ++ cmp), 0#4)

/-- The requests that a command sends, in issue order, with the flags it raises itself; a failure of its source or its
operand instead. -/
def State.buildReqs (s : State) (j : Nat) (c : EngineCmd) : Access (Except (Status × Flags) (List Req × Flags)) :=
  match c.op with
  | .fbLoad =>
    match c.s0.desc with
    | none => .fail stDescBad 0 s
    | some d =>
      let r := { d with base := c.s1.addrVal }
      .ok (.ok ((runsOf (r.byteMap.map (fun a => (a, 0#8)))).map (fun x =>
        ⟨tyLoad, 0, 0, x.2.length - 1, x.1, [], x.2.length⟩), 0#4)) s
  | .fbStore =>
    match c.s0.desc with
    | none => .fail stDescBad 0 s
    | some d =>
      (s.readVirt j d.checked d.byteOrder).bind fun bs s =>
        let shift (a : Nat) : Nat := (a + 2 ^ 48 - d.base + c.s1.addrVal) % 2 ^ 48
        let m : SMap Byte := (d.byteOrder.zip bs).foldl (fun m x => SMap.put m (shift x.1) x.2) []
        let notify := c.s3.immVal.toNat.testBit 8
        .ok (.ok ((runsOf m).map (fun x =>
          ⟨tyStore, if notify then 2 else 0, if notify then c.s3.immVal.toNat % 256 else 0, 0, x.1, x.2, x.2.length⟩), 0#4)) s
  | .fbTrigger =>
    let body := leBytes 8 (c.s0.immVal.toNat % 4096) ++ leBytes 8 (c.sr (c.w.imm 0 5)).toNat
    .ok (.ok ([⟨tyTrigger, 0, 0, 0, 0, body, 0⟩], 0#4)) s
  | .fbSend =>
    match c.s0.desc with
    | none => .fail stDescBad 0 s
    | some d =>
      if 4096 < d.byteOrder.length then .fail stDescBad d.base s
      else
        (s.readVirt j d.checked d.byteOrder).bind fun bs s => .ok (.ok ([⟨tySend, 0, queueOf c, 0, 0, bs, 0⟩], 0#4)) s
  | .storeStream =>
    match c.s0.desc with
    | none => .fail stDescBad 0 s
    | some d =>
      (s.readVirt j d.checked d.byteOrder).bind fun bs s =>
        let cells := (List.range bs.length).zip bs |>.map (fun x => (c.s1.addrVal + x.1, x.2))
        .ok (.ok ((runsOf cells).map (fun x => ⟨tyStream, 0, 0, c.w.imm16.toNat, x.1 % 2 ^ 48, x.2, x.2.length⟩), 0#4)) s
  | _ =>
    match atomicReq c with
    | .error fl => .ok (.error (stNonfinite, fl)) s
    | .ok (r, fl) => .ok (.ok ([r], fl)) s

/-! ## Issue (R320, R321, R331) -/

/-- What becomes of a command when it tries to issue. -/
inductive Issue where
  | waits
  | failed (st : Status) (flags : Flags) (addr : Nat)
  | sent (flags : Flags)

/-- `FENCED`: whether an earlier operation to the destination still awaits, or the first that has failed (R321). -/
def fencedOn (jb : Job) (w : Issuer) (dst : Nat) : Bool × Option FabOp :=
  let os := (postedBy jb w).filter (fun o => o.dst = dst)
  (os.any (fun o => !o.answered), os.find? (fun o => o.answered && o.status ≠ stOK))

/-- Issuing a sending command: the tag, `FENCED`, the source, the sending checks of every request, then the requests. -/
def State.issueReqs (s : State) (j : Nat) (w prior : Issuer) (c : EngineCmd) : Access Issue :=
  match s.fabAllowed j with
  | some st => .ok (.failed st 0#4 0) s
  | none =>
    let dst := destOf c
    let fence := fencedOn (s.job j) prior dst
    if c.w.flag 4 && fence.1 then .ok .waits s
    else
      match (if c.w.flag 4 then fence.2 else none) with
      | some o => .ok (.failed o.status 0#4 o.pkt.offset.toNat) s
      | none =>
        (s.buildReqs j c).bind fun r s =>
          match r with
          | .error (st, fl) => .ok (.failed st fl 0) s
          | .ok (rs, fl) =>
            match (s.job j).binding with
            | none => .ok (.failed stNotPermitted 0#4 0) s
            | some b =>
              if rs.all (b.permits dst) then .ok (.sent fl) (rs.foldl (fun s r => s.sendReq j w dst r) s)
              else .ok (.failed stNotPermitted 0#4 0) s

/-! ## Completion of waiting commands -/

/-- The first failure among answered operations, in issue order. -/
def firstFailed (os : List FabOp) : Option FabOp := os.find? (fun o => o.status ≠ stOK)

/-- The failure that a fence over operations retires with: of a torn context `TARGET_DEAD` where one of them was unreachable,
else `FABRIC_TORN` (R344); otherwise that of the earliest-issued one (R340). -/
def fenceFailed (os : List FabOp) : Option FabOp :=
  match os.find? (fun o => o.status = stTargetDead) with
  | some o => some o
  | none =>
    match os.find? (fun o => o.status = stTorn) with
    | some o => some o
    | none => firstFailed os

/-- A command that an operation made fail. A status of class 0x3, which a NACK brought, names the remote offset, in
`TM_FAULT_ADDR` too (R347). -/
def opFailed (st : Status) (off : Nat) : CmdResult :=
  { failResult st off with regs := if st.toNat / 4096 = 3 then [⟨0x28, 0, 48, false, off⟩] else [] }

/-- Dropping the operations of a command that has ended. -/
def State.dropAwaited (s : State) (j t : Nat) : State :=
  s.modJob j (fun jb => { jb with ops := jb.ops.filter (fun o => !(o.owner == .waiting && o.tile = t)) })

/-- The bytes that answered loads brought, by remote address. -/
def loadedBytes (os : List FabOp) : SMap (Option Byte) :=
  os.foldl (fun m o => ((List.range o.data.length).zip o.data).foldl
    (fun m x => SMap.put m (o.pkt.offset.toNat + x.1) (some x.2)) m) []

/-- A load whose bytes have all arrived writes its local destination (R322). -/
def State.finishLoad (s : State) (t j : Nat) (c : EngineCmd) : Access Stage :=
  match c.s0.desc with
  | none => .fail stDescBad 0 s
  | some d =>
    let os := awaitedBy (s.job j) t
    match firstFailed os with
    | some o => .ok (.ready (opFailed o.status o.pkt.offset.toNat)) (s.dropAwaited j t)
    | none =>
      let m := loadedBytes os
      let remote (a : Nat) : Nat := (a + 2 ^ 48 - d.base + c.s1.addrVal) % 2 ^ 48
      let ws := d.byteMap.map (fun a => (a, (SMap.get none m (remote a)).getD 0#8))
      (s.putDest j d [] ws [] false none).bind fun w s => .ok (.ready (writtenResult w 0)) (s.dropAwaited j t)

/-- A fetching atomic writes the old value to its S register (R323). -/
def State.finishAtomic (s : State) (t j : Nat) (c : EngineCmd) : Access Stage :=
  let os := awaitedBy (s.job j) t
  let s := s.dropAwaited j t
  match os with
  | o :: _ =>
    if o.status ≠ stOK then .ok (.ready { opFailed o.status o.pkt.offset.toNat with flags := o.flags }) s
    else .ok (.ready { okResult with flags := o.flags, sres := [(c.w.imm 10 5, o.value)] }) s
  | [] => .ok (.ready okResult) s

/-- A fence whose covered operations all have their responses (R340, R344): its failure, and every covered atomic's flags as
the fence's own. -/
def State.finishFence (s : State) (j : Nat) (w : Issuer) (covers : FabOp → Bool) : Option (Status × Flags × Nat × State) :=
  let os := (postedBy (s.job j) w).filter covers
  if os.any (fun o => !o.answered) then none
  else
    let fl := os.foldl (fun f o => f ||| o.flags) 0#4
    let s := s.modJob j (fun jb => { jb with ops := jb.ops.filter (fun o => !(os.any (fun x => x.issue = o.issue))) })
    match fenceFailed os with
    | some o => some (o.status, fl, o.pkt.offset.toNat, s)
    | none => some (stOK, fl, 0, s)

/-- The operations a fence covers: to its destination, or to every one. -/
def fenceCovers (c : EngineCmd) : FabOp → Bool :=
  if c.s2.immVal.toNat.testBit 22 then fun _ => true else fun o => o.dst = destOf c

/-- A tile as issuer of posted operations, and as the issuer of the operations its running command waits for. -/
def postedIssuer (t : Nat) : Issuer := ⟨t, t, .posted⟩
def waitingIssuer (t : Nat) : Issuer := ⟨t, t, .waiting⟩

/-! ## Messages and counters (R328, R329) -/

/-- The oldest message of a queue that a receive accepts. -/
def takeMsg (src : Nat) : List QMsg → Option (QMsg × List QMsg)
  | [] => none
  | m :: ms =>
    if src = 0xFFFF || m.src = src then some (m, ms)
    else (takeMsg src ms).map (fun x => (x.1, m :: x.2))

/-- A receive that has its message: as many bytes as the destination holds, the source and the whole length (log 21). -/
def State.finishRecv (s : State) (j : Nat) (c : EngineCmd) (m : QMsg) (rest : List QMsg) : Access Stage :=
  match c.s0.desc with
  | none => .fail stDescBad 0 s
  | some d =>
    (s.putDest j d [] (d.byteOrder.zip m.msg) [] false none).bind fun w s =>
      let s := if w.err.isSome then s
        else s.modJob j (fun jb => { jb with queues := SMap.set [] jb.queues (queueOf c) rest })
      let r := writtenResult w 0
      .ok (.ready (if w.err.isSome then r else
        { r with sres := [(c.w.imm 0 5, BitVec.ofNat 64 m.src), (c.w.imm 5 5, BitVec.ofNat 64 m.msg.length)] })) s

/-- A notification counter. -/
def Job.counter (jb : Job) (n : Nat) : BitVec 64 := SMap.get 0#64 jb.counters n

/-- DONE_PARTIAL at a deadline (R329). -/
def partialResult : CmdResult := { okResult with outcome := .donePartial, status := stPartial }

/-- A deadline that has passed by the timebase (R230). -/
def State.deadlinePast (s : State) (c : EngineCmd) : Bool :=
  c.w.dsel ≠ 0#8 && decide (c.deadline.toNat ≤ s.now.toNat)

/-! ## Remote gather (R275) -/

/-- The bytes of an element, and of the scale record that serves it, as one remote request each. -/
def remoteReads (a : Desc) (e : Nat) : List (Nat × Nat) :=
  let rec_ := a.scaleRec e
  (a.addr e, a.elemBytes) :: (if a.skind = 0 then [] else [((a.scalePtr + rec_.1 * rec_.2) % 2 ^ 48, rec_.1)])

/-- The loads of one read, which cross no 4 KiB boundary. -/
def readReqs (x : Nat × Nat) : List Req :=
  (runsOf ((vaRange x.1 x.2).map (fun a => (a, 0#8)))).map (fun r => ⟨tyLoad, 0, 0, r.2.length - 1, r.1, [], r.2.length⟩)

/-- Remote elements of an index list: position, endpoint, element. -/
def remoteOf (is : List GatherIdx) : List (Nat × Nat × Nat) :=
  ((List.range is.length).zip is).filterMap (fun x => x.2.ep.map (fun ep => (x.1, ep, x.2.idx.toNat)))

/-- Issuing a remote gather's loads after its local steps; with no remote element it writes D at once. -/
def State.gatherRemoteIssue (s : State) (t j : Nat) (c : EngineCmd) : Access Stage :=
  match s.fabAllowed j with
  | some st => .ok (.ready (failResult st 0)) s
  | none =>
    match c.s0.desc, c.s1.desc, c.s2.desc with
    | some a, some i, some d =>
      (s.gatherLocal j c a i).bind fun g s =>
        match g.2 with
        | some r => .ok (.ready r) s
        | none =>
          let rem := remoteOf g.1.idx
          if rem.isEmpty then s.gatherWrite t j c a d g.1.vals g.1.bits
          else
            let reqs := rem.flatMap (fun x => ((remoteReads a x.2.2).flatMap readReqs).map (fun r => (x.1, x.2.1, r)))
            match (s.job j).binding, reqs.find? (fun r =>
                match (s.job j).binding with | some b => !(b.permits r.2.1 r.2.2) | none => true) with
            | _, some r => .ok (.ready (failElem stNotPermitted 0 r.1)) s
            | _, none => .ok .fabric (reqs.foldl (fun s r => s.sendReq j (waitingIssuer t) r.2.1 r.2.2) s)
    | _, _, _ => .fail stDescBad 0 s

/-- The operation that fails the read of a remote element. -/
def failedRead (a : Desc) (os : List FabOp) (x : Nat × Nat × Nat) : Option FabOp :=
  os.find? (fun o => o.dst = x.2.1 && o.status ≠ stOK && (remoteReads a x.2.2).any (fun r =>
    (vaRange r.1 r.2).contains o.pkt.offset.toNat))

/-- The remote elements of a gather by the indices that memory shows, and the lowest whose read has failed, with its
operation. -/
def State.gatherFailed (s : State) (j : Nat) (c : EngineCmd) (os : List FabOp) : Option (Nat × FabOp) :=
  match c.s0.desc, c.s1.desc with
  | some a, some i =>
    i.all.findSome? (fun k =>
      ((s.peekIndex j i true k).bind (fun x => x.ep.bind (fun ep => failedRead a os (k, ep, x.idx.toNat)))).map (fun o => (k, o)))
  | _, _ => none

/-- The bytes one endpoint answered. -/
def answeredFrom (os : List FabOp) (ep : Nat) : SMap (Option Byte) := loadedBytes (os.filter (fun o => o.dst = ep))

/-- The failure of a gather of which the local part and a remote element may have failed: that of the lowest element (R275). -/
def lowestFail (here : Option CmdResult) (far : Option (Nat × FabOp)) : Option CmdResult :=
  match here, far with
  | some r, some (k, o) => some (if k < r.elem then { opFailed o.status o.pkt.offset.toNat with elem := k } else r)
  | none, some (k, o) => some { opFailed o.status o.pkt.offset.toNat with elem := k }
  | r, none => r

/-- A remote gather whose loads are all answered: failures by the lowest element, then the values of remote elements
beside the local ones, read again now; a bit copy asks no scale (R488). -/
def State.finishGather (s : State) (t j : Nat) (c : EngineCmd) : Access Stage :=
  match c.s0.desc, c.s1.desc, c.s2.desc with
  | some a, some i, some d =>
    (s.gatherLocal j c a i).bind fun g s =>
      let os := awaitedBy (s.job j) t
      match lowestFail g.2 (s.gatherFailed j c os) with
      | some r => .ok (.ready r) (s.dropAwaited j t)
      | none =>
          let rem := remoteOf g.1.idx
          let read (x : Nat × Nat × Nat) (r : Nat × Nat) : Nat :=
            let m := answeredFrom os x.2.1
            leNat ((vaRange r.1 r.2).map (fun va => (SMap.get none m va).getD 0#8))
          let bitsAt (x : Nat × Nat × Nat) : Nat :=
            let b := read x (a.addr x.2.2, a.elemBytes)
            if a.format.is4bit then (if a.upper x.2.2 then b / 16 else b % 16) else b
          let valAt (x : Nat × Nat × Nat) : Option Val :=
            let rec_ := a.scaleRec x.2.2
            elemValue a (bitsAt x) (if a.skind = 0 then 0 else read x ((a.scalePtr + rec_.1 * rec_.2) % 2 ^ 48, rec_.1))
          match (if gatherBits a d then none else rem.find? (fun x => (valAt x).isNone)) with
          | some x => .ok (.ready (failElem stDescBad a.scalePtr x.1)) (s.dropAwaited j t)
          | none =>
            let pick {α : Type} (f : Nat × Nat × Nat → Option α) (own : List (Option α)) : List (Option α) :=
              (List.range own.length).map (fun k =>
                match rem.find? (fun x => x.1 = k) with
                | some x => f x
                | none => own.getD k none)
            (s.gatherWrite t j c a d (pick valAt g.1.vals) (pick (fun x => some (bitsAt x)) g.1.bits)).bind fun st s =>
              .ok st (s.dropAwaited j t)
  | _, _, _ => .fail stDescBad 0 s

/-! ## The commands -/

/-- A command of the tile mover that is under the fabric's rules (R331). -/
def isFabric (c : EngineCmd) : Bool :=
  isAtomic c.op || (match c.op with
    | .fbLoad | .fbStore | .fbTrigger | .fbFence | .fbSend | .fbRecv | .fbWait | .storeStream | .fbCtrset => true
    | .tmGather => c.w.flag 4
    | _ => false)

/-- A command that waits for responses to its own requests. -/
def waitsForOps (c : EngineCmd) : Bool :=
  match c.op with
  | .fbLoad => true
  | .tmGather => true
  | op => isAtomic op && atomicFetch c

/-- A command that is issued only once the earlier posted operations of its tile to its destination have their responses
(R321). -/
def isFenced (c : EngineCmd) : Bool :=
  c.w.flag 4 && (isAtomic c.op || (match c.op with
    | .fbLoad | .fbStore | .fbTrigger | .fbSend | .storeStream => true
    | _ => false))

/-- The work of a fabric command of a tile, at its start and whenever what it waits for may have come. -/
def State.fabWork (s : State) (t j : Nat) (c : EngineCmd) : Stage × State :=
  Access.stage (
    if waitsForOps c && !(awaitedBy (s.job j) t).isEmpty then
      if (awaitedBy (s.job j) t).any (fun o => !o.answered) then .ok .fabric s
      else
        match c.op with
        | .fbLoad => s.finishLoad t j c
        | .tmGather => s.finishGather t j c
        | _ => s.finishAtomic t j c
    else
      match c.op with
      | .tmGather => s.gatherRemoteIssue t j c
      | .fbFence =>
        match s.fabAllowed j with
        | some st => .ok (.ready (failResult st 0)) s
        | none =>
          match s.finishFence j (postedIssuer t) (fenceCovers c) with
          | none => .ok .fabric s
          | some (st, fl, a, s) =>
            if st = stOK then .ok (.ready { okResult with flags := fl }) s
            else .ok (.ready { opFailed st a with flags := fl }) s
      | .fbRecv =>
        match s.fabAllowed j with
        | some st => .ok (.ready (failResult st 0)) s
        | none =>
          match takeMsg (c.s2.immVal.toNat % 2 ^ 16) (SMap.get [] (s.job j).queues (queueOf c)) with
          | some (m, rest) => s.finishRecv j c m rest
          | none => if s.deadlinePast c then .ok (.ready partialResult) s else .ok .fabric s
      | .fbWait =>
        match s.fabAllowed j with
        | some st => .ok (.ready (failResult st 0)) s
        | none =>
          if (c.sr (c.w.imm 0 5)).toNat ≤ ((s.job j).counter (c.s3.immVal.toNat % 256)).toNat then .ok (.ready okResult) s
          else if s.deadlinePast c then .ok (.ready partialResult) s
          else .ok .fabric s
      | .fbCtrset =>
        match s.fabAllowed j with
        | some st => .ok (.ready (failResult st 0)) s
        | none =>
          .ok (.ready okResult) (s.modJob j (fun jb =>
            { jb with counters := SMap.set 0#64 jb.counters (c.s3.immVal.toNat % 256) (c.sr (c.w.imm 0 5)) }))
      | _ =>
        let w := if waitsForOps c then waitingIssuer t else postedIssuer t
        (s.issueReqs j w (postedIssuer t) c).bind fun r s =>
          match r with
          | .waits => .ok .fabric s
          | .failed st fl a => .ok (.ready { opFailed st a with flags := fl }) s
          | .sent fl =>
            if waitsForOps c then
              .ok .fabric (s.modJob j (fun jb => { jb with
                ops := jb.ops.map (fun o => if o.owner == .waiting && o.tile = t then { o with flags := o.flags ||| fl } else o) }))
            else .ok (.ready { okResult with flags := if isAtomic c.op then 0#4 else fl })
              (if fl = 0#4 then s else s.modJob j (fun jb => { jb with
                ops := (jb.ops.reverse.take 1).map (fun o => { o with flags := o.flags ||| fl }) |>.append (jb.ops.reverse.drop 1) |>.reverse })))

end Sys2Proof.Machine
end

