-- ==== Sys2Proof/Machine/Collective.lean ====
section
/-! DEFINITION. Collective.lean: collective sums (chapter 12): group records, the setup round, chunks on their way up and
down the stages, exact and rounded combination, endings, and the work of the collective commands. -/

namespace Sys2Proof.Machine

open Sys2Proof

/-! ## Groups (R349, R350) -/

/-- A stage entry from its 16 bytes; none for a reserved bit or code, or a fan-in or input out of range. -/
def parseStage (b : List Byte) : Option StageEntry :=
  let lo := fieldAt b 0 8
  let hi := fieldAt b 8 8
  let e : StageEntry :=
    ⟨bitsOf lo 0 2, bitsOf lo 2 1 = 1, bitsOf lo 3 9, bitsOf lo 16 16, bitsOf lo 32 16, hi % 2 ^ 16⟩
  if bitsOf lo 12 4 ≠ 0 || bitsOf lo 48 16 ≠ 0 || bitsOf hi 16 48 ≠ 0 || e.kind = 3 then none
  else if e.kind = 1 && (e.fanin ≠ 2 || e.reduce ≠ 0) then none
  else if e.kind = 2 && (e.fanin < 2 || 256 < e.fanin) then none
  else if e.kind ≠ 0 && e.fanin ≤ e.input then none
  else some e

/-- A group record from its 128 bytes by the rules of R350; the twin's endpoint judges a gallery stage. -/
def parseGroup (b : List Byte) (own twin : Option Nat) : Option Group :=
  let entries := (List.range 6).map (fun i => parseStage (slice b (0x20 + 16 * i) 16))
  if entries.any Option.isNone then none
  else
    let es := entries.filterMap id
    let used := es.takeWhile (fun e => e.kind ≠ 0)
    let slotByte := fieldAt b 0x0C 1
    let g : Group :=
      { gid := fieldAt b 0 4, members := fieldAt b 4 4, index := fieldAt b 8 4
        slotLog2 := if slotByte = 0 then 18 else slotByte
        timeoutMs := if fieldAt b 0x10 4 = 0 then 2000 else fieldAt b 0x10 4
        stages := used, seq := 0 }
    let reserved := fieldAt b 0x0D 3 = 0 && fieldAt b 0x14 12 = 0
    let isPrefix := (es.drop used.length).all (fun e => e.kind = 0)
    let afterInput := ((used.dropWhile StageEntry.collector).drop 1).isEmpty
    let gallery := (used.drop 1).all (fun e => e.kind ≠ 1) &&
      (match used.head? with
       | some e => e.kind ≠ 1 || (if e.collector then some e.endpoint = own && twin.isSome else some e.endpoint = twin)
       | none => true)
    if reserved && g.gid ≠ 0 && decide (1 ≤ g.members) && decide (g.members ≤ 65536) && decide (g.index < g.members)
        && decide (14 ≤ g.slotLog2) && decide (g.slotLog2 ≤ 22) && isPrefix && afterInput && gallery
        && ((g.members = 1) = used.isEmpty) then some g
    else none

/-- Every collector and reduction endpoint lies in the sending ranges (R350). -/
def Group.permitted (g : Group) (b : Binding) : Bool :=
  let ok (x : Nat) : Bool := b.endpoints.any (fun r => decide (r.1 ≤ x) && decide (x ≤ r.2))
  g.stages.all (fun e => ok e.endpoint && (e.kind = 1 || ok e.reduce))

/-! ## Carried forms (R353, R355) -/

/-- 0 limbs, 1 INT64, 2 rounded (Table 12.5). -/
def Coll.form (c : Coll) : Nat :=
  if c.src.format.isInt then 1 else if c.exact then 0 else 2
/-- Bytes of a carried element. -/
def Coll.width (c : Coll) : Nat :=
  match c.form with
  | 0 => 24
  | 1 => 8
  | _ => c.src.format.bits / 8
/-- Elements per packet. -/
def Coll.perPacket (c : Coll) : Nat :=
  match c.form with
  | 0 => 170
  | 1 => 512
  | _ => 4096 / c.width
/-- Elements per chunk. -/
def Coll.chunkElems (c : Coll) : Nat := 2 ^ c.slotLog2 / 4096 * c.perPacket
def Coll.chunkCount (c : Coll) : Nat := (c.src.size + c.chunkElems - 1) / c.chunkElems
/-- The elements of a chunk. -/
def Coll.elemsOf (c : Coll) (k : Nat) : List Nat :=
  (List.range (min c.chunkElems (c.src.size - k * c.chunkElems))).map (fun i => k * c.chunkElems + i)
/-- The formats and descriptors of `SUM_ALL` (R353). -/
def sumCheck (exact : Bool) (src dst : Desc) : Option Status :=
  let f := src.format
  let float := f == .fp64 || f == .fp32 || f == .bf16
  let pairing := (dst.fmt = src.fmt && dst.skind = 0) || (exact && float && dst.format == .fx192 && dst.skind = 5)
  if !((float || f == .int32 || f == .int64) && src.skind = 0 && src.sameExt dst && pairing && !dst.calibrated) then
    some stDescBad
  else if src.aligned && dst.aligned then none
  else some stAlignment

/-- Numbers of a width as bytes, and back. -/
def packNats (w : Nat) (ns : List Nat) : List Byte := ns.flatMap (leBytes w)
def unpackNats (w n : Nat) (bs : List Byte) : List Nat := (chunksOf w n bs).map leNat

/-- A chunk is special: a quiet NaN, +∞ or −∞ was seen on some member (R361). -/
def specialFlags (f : BitVec 4) : Bool := (f &&& 13#4) ≠ 0#4
def Coll.special (c : Coll) (k : Nat) : Bool := c.form = 0 && specialFlags (c.anchors.getD k (0, 0#4)).2

/-- The four flags of R361 of a value. -/
def valueFlags (v : Val) : BitVec 4 :=
  match v with
  | .nan s => if s then 2#4 else 1#4
  | .inf n => if n then 8#4 else 4#4
  | _ => 0#4

/-- A member's word for a special chunk (R361). -/
def specialWord (v : Val) : Nat :=
  match v with
  | .nan _ => 2 ^ 42
  | .inf n => if n then 2 ^ 21 else 1
  | _ => 0

/-- A member's own carried chunk: bytes, special words, and NX where R360 truncates. Rounded data go as their bits, so that a
signalling NaN meets the first addition as one (R364). -/
def carry (c : Coll) (k : Nat) (vs : List Val) (bits : List Nat) : List Byte × List Byte × Flags :=
  match c.form with
  | 0 =>
    let unit : Int := (c.anchors.getD k (0, 0#4)).1 - 166
    let ns := vs.map (fun v => match v with
      | .fin q => (q.floorAt unit, Q.eq (Q.scaled (q.floorAt unit) unit) q)
      | _ => (0, true))
    (packNats 24 (ns.map (fun n => (limbsOf n.1).getD 0)),
      if c.special k then packNats 8 (vs.map specialWord) else [],
      if ns.all Prod.snd then 0#4 else flagNX)
  | 1 => (packNats 8 (vs.map (fun v => (v.q.num % ((2 ^ 64 : Nat) : Int)).toNat)), [], 0#4)
  | _ => (packNats c.width bits, [], 0#4)

/-! ## Combination (R360, R364, R365) -/

/-- Limb elements added and renormalised. -/
def addLimbs (n : Nat) (xs : List (List Byte)) : List Byte :=
  let cols := xs.map (fun b => (unpackNats 24 n b).map limbInt)
  packNats 24 ((List.range n).map (fun i => (limbsOf ((cols.map (fun c => c.getD i 0)).foldl (· + ·) 0)).getD 0))

/-- INT64 elements added with wrapping. -/
def addWords (n : Nat) (xs : List (List Byte)) : List Byte :=
  let cols := xs.map (unpackNats 8 n)
  packNats 8 ((List.range n).map (fun i => (cols.map (fun c => c.getD i 0)).foldl (· + ·) 0 % 2 ^ 64))

/-- Rounded elements added one input after another, each sum rounded once. -/
def addRounded (f : Fmt) (mode : Nat) (sat : Bool) (n : Nat) (own : List Byte) (xs : List (List Byte)) : List Byte × Flags :=
  let w := f.bits / 8
  let cols := xs.map (unpackNats w n)
  let rows := (List.range n).map (fun i =>
    (cols.map (fun c => c.getD i 0)).foldl (fun (acc : Nat × Flags) b =>
      let r := Val.add mode (decodeElem f acc.1) (decodeElem f b)
      let q := narrow f r.1 ⟨mode, sat, 0⟩
      (q.bits, acc.2 ||| r.2 ||| q.flags)) ((unpackNats w n own).getD i 0, 0#4))
  (packNats w (rows.map Prod.fst), rows.foldl (fun g r => g ||| r.2) 0#4)

/-- Packets of a chunk's data, and of its special words. -/
def Coll.packets (c : Coll) (k : Nat) : Nat := ((c.elemsOf k).length + c.perPacket - 1) / c.perPacket
def Coll.specials (c : Coll) (k : Nat) : Nat := if c.special k then ((c.elemsOf k).length + 511) / 512 else 0

/-- Parts received for a chunk at a stage going up, or coming down. -/
def Coll.partsAt (c : Coll) (k stage : Nat) (down : Bool) : List CollPart :=
  c.parts.filter (fun p => p.chunk = k && p.stage = stage && p.down = down)

/-- All packets of a set of parts are there. -/
def Coll.whole (c : Coll) (k : Nat) (ps : List CollPart) : Bool :=
  (List.range (c.packets k)).all (fun i => ps.any (fun p => p.packet = i && !p.special))
    && (List.range (c.specials k)).all (fun i => ps.any (fun p => p.packet = i && p.special))

/-- The bytes of a whole set of parts. -/
def Coll.join (c : Coll) (k : Nat) (special : Bool) (ps : List CollPart) : List Byte :=
  (List.range (if special then c.specials k else c.packets k)).flatMap (fun i =>
    ((ps.find? (fun p => p.packet = i && p.special = special)).map CollPart.bytes).getD [])

/-- A part of packet n. -/
def samePlace (a b : CollPart) : Bool :=
  a.chunk = b.chunk && a.stage = b.stage && a.input = b.input && a.packet = b.packet && a.special = b.special && a.down = b.down

/-- Combining a stage's inputs with the partial, once all are there (R360, R364): a switch sum of limbs or integers
already holds the collector's own. -/
def Coll.combine (c : Coll) (det : Bool) (k : Nat) (st : StageEntry) (i : Nat) (own : List Byte × List Byte) :
    Option (List Byte × List Byte × Flags) :=
  let n := (c.elemsOf k).length
  let ps := c.partsAt k i false
  if st.kind = 2 && c.form ≠ 2 then
    if c.whole k ps then
      let data := c.join k false ps
      some (if c.form = 0 then addLimbs n [data] else data, c.join k true ps, 0#4)
    else none
  else
    let inputs := dedup (ps.map CollPart.input)
    let ready := inputs.filter (fun x => c.whole k (ps.filter (fun p => p.input = x)))
    if ready.length + 1 < st.fanin then none
    else
      let of (x : Nat) (sp : Bool) : List Byte := c.join k sp (ps.filter (fun p => p.input = x))
      match c.form with
      | 0 => some (addLimbs n (own.1 :: ready.map (fun x => of x false)),
          if c.special k then addWords n (own.2 :: ready.map (fun x => of x true)) else [], 0#4)
      | 1 => some (addWords n (own.1 :: ready.map (fun x => of x false)), [], 0#4)
      | _ =>
        -- in each packet's place the inputs add in order of arrival, or of their index under FIXED
        let order (pk : Nat) : List CollPart :=
          let xs := ps.filter (fun p => p.packet = pk && ready.contains p.input)
          if c.fixed || det then
            (List.range st.fanin).filterMap (fun x => xs.find? (fun p => p.input = x))
          else xs
        let rows := (List.range (c.packets k)).map (fun pk =>
          let m := min c.perPacket (n - pk * c.perPacket)
          addRounded c.src.format c.mode c.sat m (slice own.1 (pk * c.perPacket * c.width) (m * c.width)) ((order pk).map CollPart.bytes))
        some (rows.flatMap Prod.fst, [], rows.foldl (fun g r => g ||| r.2) 0#4)

/-! ## Results (R362) -/

/-- An element of the result: its bits in the destination and the flags of its final conversion. -/
def Coll.finish (c : Coll) (k : Nat) (bits word : Nat) : Nat × Flags :=
  match c.form with
  | 0 =>
    let a := c.anchors.getD k (0, 0#4)
    let snan := if (a.2 &&& 2#4) ≠ 0#4 then flagNV else 0#4
    let p := word % 2 ^ 21
    let m := word / 2 ^ 21 % 2 ^ 21
    let nan := word / 2 ^ 42 % 2 ^ 21
    let special : Option (Val × Flags) :=
      if nan ≠ 0 then some (.nan false, 0#4)
      else if p ≠ 0 && m ≠ 0 then some (.nan false, flagNV)
      else if p ≠ 0 then some (.inf false, 0#4)
      else if m ≠ 0 then some (.inf true, 0#4)
      else none
    if c.dst.format = .fx192 then
      if special.isSome then (0, flagNV ||| snan) else (bits % 2 ^ 192, snan)
    else
      let v := match special with
        | some (v, fl) => (v, fl)
        | none => (Val.ofQ (Q.scaled (limbInt bits) (a.1 - 166)) (decide (c.mode = 3)), 0#4)
      let r := narrow c.dst.format v.1 ⟨c.mode, c.sat, 0⟩
      (r.bits, v.2 ||| r.flags ||| snan)
  | 1 =>
    if c.dst.format = .int64 then (bits, 0#4)
    else
      let r := narrow c.dst.format (Val.ofQ (Q.ofInt (signExt 64 bits)) false) ⟨c.mode, c.sat, 0⟩
      (r.bits, r.flags)
  | _ => (bits, 0#4)

/-- A chunk's destination elements and flags, from its final carried data. -/
def Coll.results (c : Coll) (k : Nat) (data special : List Byte) : List OutElem :=
  let es := c.elemsOf k
  let ns := unpackNats c.width es.length data
  let ws := unpackNats 8 es.length special
  ((List.range es.length).zip es).map (fun x =>
    let r := c.finish k (ns.getD x.1 0) (ws.getD x.1 0)
    ⟨x.2, some r.1, r.2⟩)

/-! ## Sending -/

/-- The porch that handles a chunk: number `c mod q` of the live ones (R355). -/
def State.collPorch (s : State) (k : Nat) : Option Nat :=
  let live := (List.range 4).filter s.fab.porchUp.getLsbD
  live[k % live.length]?

/-- A collective packet of a member for the collective (`gid`, `seq`) (Table 12.10). -/
def State.collPacket (s : State) (j gid seq : Nat) (typ subop handle off : Nat) (st : StageEntry) (payload : List Byte)
    (pflags : Nat) : Packet :=
  let twin := s.pair.twinEndpoint.getD 0
  sealPacket { noPacket with
    typ := BitVec.ofNat 8 typ, pflags := BitVec.ofNat 8 pflags
    dst := BitVec.ofNat 16 (if st.kind = 1 then twin else st.reduce)
    src := BitVec.ofNat 16 (s.fab.endpoint.getD 0), subop := BitVec.ofNat 8 subop
    jtag := BitVec.ofNat 32 (((s.job j).binding.map Binding.jtag).getD 0), seq := BitVec.ofNat 32 seq
    ackbase := BitVec.ofNat 32 gid, length := BitVec.ofNat 16 payload.length, handle := BitVec.ofNat 16 handle
    offset := BitVec.ofNat 48 off, stile := 0xFF#8, payload := payload }

/-- A packet leaves by the gallery lanes or through the switch of its stage, on a lane among some (R356, logs 23 and 123). -/
def State.collSend (s : State) (st : StageEntry) (lanes : List Nat) (p : Packet) : State :=
  if st.kind = 1 then s.emit (.galleryColl p none) else s.sendOn lanes p

/-! ### Setup records (R366, R376) -/

/-- The chunk entries of a setup record: as many as its parameters say that the exact sum has chunks. -/
def setupChunks (r : SetupRecord) : Nat :=
  let float := match Fmt.ofCode r.srcFmt.toNat with
    | some f => !f.isInt
    | none => false
  let per := 2 ^ r.slotLog2 / 4096 * 170
  if r.exact && float then (r.count + per - 1) / per else 0

/-- Packets of a record: 64 B of parameters, then 4 B for each chunk. -/
def setupPackets (r : SetupRecord) : Nat := (64 + 4 * setupChunks r + 4095) / 4096

/-- The parameters of a record as numbers. -/
def setupParams (r : SetupRecord) : List Nat :=
  [r.step.toNat, r.count, r.srcFmt.toNat, r.dstFmt.toNat, bit r.exact, bit r.fixed, r.slotLog2, bit r.abort, bit r.stepDiffers,
    bit r.paramsDiffer]

/-- A chunk entry: [15:0] the exponent or anchor, [19:16] the flags. -/
def setupEntry (x : Int × BitVec 4) : List Byte := leBytes 4 ((x.1 % 65536).toNat + x.2.toNat * 65536)

/-- The bytes of a record; the layout of the parameters is open (log 22). -/
def setupBytes (r : SetupRecord) : List Byte :=
  (List.range 64).map (Config.setupByte (setupParams r)) ++ r.chunks.flatMap setupEntry

/-- The chunk entries that packet `i` of a record brings. -/
def setupEntries (i : Nat) (bs : List Byte) : List (Int × BitVec 4) :=
  let b := if i = 0 then bs.drop 64 else bs
  (chunksOf 4 (b.length / 4) b).map (fun e => (signExt 16 (leNat e % 65536), BitVec.ofNat 4 (leNat e / 65536)))

/-- The part of a record that a packet is; the parameters stand beside it (log 22). -/
def setupPart (p : Packet) (frm : Option (Nat × Nat)) (r : SetupRecord) : SetupPart :=
  let i := bitsOf p.offset.toNat 32 10
  ⟨frm, i, r, BitVec.ofNat 16 p.handle.toNat, setupEntries i p.payload⟩

/-- A record with its status once all its packets are there. -/
def wholeSetup (ps : List SetupPart) : Option (Status × SetupRecord) :=
  match ps.find? (fun x => x.packet = 0) with
  | none => none
  | some x =>
    let parts := (List.range (setupPackets x.params)).map (fun i => ps.find? (fun y => y.packet = i))
    if parts.any Option.isNone then none
    else some (x.st, { x.params with chunks := (parts.filterMap id).flatMap SetupPart.entries })

/-- The packets of a record sent at a stage: a record going up with status 0, a verdict coming down with its own. -/
def State.sendSetup (s : State) (j : Nat) (c : Coll) (typ : Nat) (st : Status) (e : StageEntry) (r : SetupRecord)
    (pflags : Nat) : State :=
  (List.range (setupPackets r)).foldl (fun s i =>
    let pl := slice (setupBytes r) (4096 * i) (min 4096 ((setupBytes r).length - 4096 * i))
    let p := s.collPacket j c.gid c.seq typ 0 st.toNat (i * 2 ^ 32) e pl pflags
    if e.kind = 1 then s.emit (.galleryColl p (some r))
    else
      match laneOf s.liveLanes p with
      | some l => s.emit (.setupRecord p r l)
      | none => s) s

/-- The packets of a chunk sent at a stage: its data, then its special words. Each leaves on a live lane of the chunk's porch
(R355), chosen among them by the hash of R317 (DEDUCED, log 123). -/
def State.sendChunk (s : State) (j : Nat) (c : Coll) (k : Nat) (st : StageEntry) (typ add fl : Nat) (data special : List Byte)
    (pflags : Nat) : State :=
  let lanes := ((s.collPorch k).map s.porchLanes).getD []
  let s := (List.range (c.packets k)).foldl (fun s i =>
    let pl := slice data (i * c.perPacket * c.width) (min (c.perPacket * c.width) (data.length - i * c.perPacket * c.width))
    s.collSend st lanes (s.collPacket j c.gid c.seq typ (add + fl * 16) 0 (k + i * 2 ^ 32) st pl pflags)) s
  (List.range (c.specials k)).foldl (fun s i =>
    let pl := slice special (i * 4096) (min 4096 (special.length - i * 4096))
    s.collSend st lanes (s.collPacket j c.gid c.seq typ (add + 2 + fl * 16) 0 (k + i * 2 ^ 32) st pl pflags)) s

/-- The stages a member collects, in descending order, below a stage. -/
def Coll.below (c : Coll) (i : Nat) : List StageEntry := ((c.stages.take i).filter StageEntry.collector).reverse

/-- Replacing a collective of a job. -/
def State.putColl (s : State) (j : Nat) (c : Coll) : State :=
  s.modJob j (fun jb => { jb with colls := jb.colls.map (fun x => if x.gid = c.gid && x.seq = c.seq && x.issue = c.issue then c else x) })

/-- `COLL_END` of the collective (`gid`, `seq`) through the stages of a member (R370). -/
def State.collNotice (s : State) (j gid seq : Nat) (stages : List StageEntry) (st : Status) : State :=
  stages.foldl (fun s e => s.collSend e s.liveLanes (s.collPacket j gid seq 0x24 0 st.toNat 0 e [] 0)) s

/-- The record of the last 256 ended collectives of the package takes one more (R370); a job is known by its tag and epoch. -/
def State.recordEnded (s : State) (j gid seq : Nat) (st : Status) : State :=
  let jtag := ((s.job j).binding.map Binding.jtag).getD 0
  { s with fab := { s.fab with
    collEnded := (s.fab.collEnded ++ [(jtag, gid, seq, st)]).drop ((s.fab.collEnded.length + 1) - 256) } }

/-- The status that the record holds for a collective of a job. -/
def State.endedColl (s : State) (j gid seq : Nat) : Option Status :=
  let jtag := ((s.job j).binding.map Binding.jtag).getD 0
  (s.fab.collEnded.find? (fun e => e.1 = jtag && e.2.1 = gid && e.2.2.1 = seq)).map (fun e => e.2.2.2)

/-! ### Blocks that several chunks share (R375) -/

/-- The destination bytes that a chunk is written to: its elements, and the anchor of an FX192 destination. -/
def Coll.chunkVas (c : Coll) (k : Nat) : List Nat :=
  (c.elemsOf k).flatMap c.dst.bytesOf
    ++ (if c.dst.format = .fx192 then vaRange ((c.dst.scalePtr + 2 * k) % 2 ^ 48) 2 else [])

/-- The 4 KiB block of memory that a destination byte lies in. -/
def State.destBlock (s : State) (j va : Nat) : Option Nat :=
  match s.translate j va true with
  | .ok pa _ => some (pa / 4096)
  | _ => none

/-- The blocks that some chunks lie in. -/
def State.chunkBlocks (s : State) (j : Nat) (c : Coll) (ks : List Nat) : List Nat :=
  dedup ((ks.flatMap c.chunkVas).filterMap (s.destBlock j))

/-- The bytes of a chunk's destination, before it is written, in blocks that hold bytes of other chunks too. -/
def State.sharedBytes (s : State) (j : Nat) (c : Coll) (k : Nat) : List (Nat × Byte) :=
  let others := s.chunkBlocks j c ((List.range c.chunkCount).filter (· ≠ k))
  (c.chunkVas k).filterMap (fun va =>
    match s.translate j va true with
    | .ok pa cached => if others.contains (pa / 4096) then some (va, s.store.byte cached pa) else none
    | _ => none)

/-- A collective that ended before all its chunks were written: a block which a written chunk shares with one that was not
holds its old contents. -/
def State.unshare (s : State) (j : Nat) (c : Coll) : State :=
  let open_ := (List.range c.chunkCount).filter (fun k => !(c.chunks.any (fun x => x.chunk = k && x.written)))
  let blocks := s.chunkBlocks j c open_
  let ws := c.undo.filter (fun w => (s.destBlock j w.1).any blocks.contains)
  if ws.isEmpty then s
  else
    match s.accessNow (some c.tile) .tm (fun s => s.putDest j c.dst [] ws [] false none) with
    | .ok _ s => s
    | _ => s

/-- A trigger for this package's own table, as a packet that needs no response (R354): no packet that arrives has its
reserved byte set (R316). -/
def State.chainTrigger (s : State) (j index : Nat) (arg : Nat) : Packet :=
  let ep := BitVec.ofNat 16 (s.fab.endpoint.getD 0)
  { noPacket with typ := 6#8, dst := ep, src := ep, stile := 0xFF#8, length := 16#16, rsvd := 1#8
                  jtag := BitVec.ofNat 32 (((s.job j).binding.map Binding.jtag).getD 0)
                  payload := leBytes 8 index ++ leBytes 8 arg }

/-- A collective ends on this member (R354, R370, R375): its counter, its chained trigger, the record of ended
collectives, and the registers. -/
def State.endColl (s : State) (j : Nat) (c : Coll) (st : Status) : State :=
  let s' := if st = stOK then s else s.unshare j c
  let c := { c with restoring := s'.store.guardFull }
  let s := ((s.guardWait s').putColl j { c with phase := .ended st }).recordEnded j c.gid c.seq st
  let s := s.modJob j (fun jb => { jb with
    counters := match c.ctr with
      | some n => SMap.set 0#64 jb.counters n (jb.counter n + 1)
      | none => jb.counters
    heldTriggers := match c.chain with
      | some x => if st = stOK then jb.heldTriggers ++ [s.chainTrigger j x c.seq] else jb.heldTriggers
      | none => jb.heldTriggers })
  let s :=
    if st = stOK then s.count 0x288 0 32 1
    else if st = stCollTimeout then s.count 0x288 32 16 1
    else if st = stCollAbort then s.count 0x288 48 16 1
    else if st = stStepMismatch then s.count 0x290 0 32 1
    else s
  if st = stOK then s
  else (s.putField 0x298 0 32 c.gid |>.putField 0x298 32 16 st.toNat).putField 0x2A0 0 32 c.seq

/-- Ending with the notice sent (R370, R372). After the setup round each destination block then holds its old or its new
contents (R375): new where all its chunks are written so far, which is one of those states. -/
def State.abortColl (s : State) (j : Nat) (c : Coll) (st : Status) : State :=
  (s.collNotice j c.gid c.seq c.stages st).endColl j c st

/-! ## Chunks (R351, R356) -/

/-- A chunk's state by number. -/
def Coll.chunk (c : Coll) (k : Nat) : Option CollChunk := c.chunks.find? (fun x => x.chunk = k)
def Coll.setChunk (c : Coll) (x : CollChunk) : Coll :=
  { c with chunks := c.chunks.map (fun y => if y.chunk = x.chunk then x else y) }

/-- Members whose flags the root's own combines do not cover: their combines' flags are not carried up by any packet, so
what they add is a free value (log 23). -/
def Coll.lowerCombines (c : Coll) : Bool :=
  c.form = 2 && decide ((c.stages.map (fun e => e.fanin - 1)).foldl (· + ·) 1 < c.members)

/-- A chunk goes up its stages as far as it can; at the root its result and flags are formed. -/
def State.chunkUp (s : State) (j : Nat) (c : Coll) : Nat → CollChunk → CollChunk × State
  | 0, x => (x, s)
  | fuel + 1, x =>
    match c.stages[x.stage]? with
    | none =>
      if x.result.isSome then (x, s)
      else
        let outs := c.results x.chunk x.data x.special
        let fl := outs.foldl (fun g o => g ||| o.flags) x.flags
        let fl := if c.lowerCombines then fl ||| BitVec.ofNat 4 s.freeWord.toNat else fl
        ({ x with result := some (x.data, x.special, fl) }, if c.lowerCombines then s.drawn else s)
    | some st =>
      let add := bit (c.form ≠ 2)
      let up (s : State) : State :=
        (s.sendChunk j c x.chunk st 0x22 (if st.kind = 2 then add else 0) 0 x.data x.special 0).count 0x2A8 0 64
          (x.data.length + x.special.length)
      if !st.collector then
        if x.sent then (x, s) else ({ x with sent := true }, up s)
      else
        let own := st.kind = 2 && c.form ≠ 2
        let (x, s) := if own && !x.sent then ({ x with sent := true }, up s) else (x, s)
        match c.combine (s.job j).det x.chunk st x.stage (x.data, x.special) with
        | none => (x, s)
        | some (d, w, fl) =>
          State.chunkUp s j c fuel { x with stage := x.stage + 1, data := d, special := w, flags := x.flags ||| fl, sent := false }

/-- A chunk's result is written to the destination with its checks, and an FX192 destination's anchor with it. -/
def State.chunkWrite (s : State) (j : Nat) (c : Coll) (x : CollChunk) (r : List Byte × List Byte × BitVec 4) :
    Option Status × State :=
  let outs := c.results x.chunk r.1 r.2.1
  let anchor := (c.anchors.getD x.chunk (0, 0#4)).1
  let scale := if c.dst.format = .fx192 then
      atVa ((c.dst.scalePtr + 2 * x.chunk) % 2 ^ 48) (leBytes 2 (anchor % 65536).toNat) else []
  match s.accessNow (some c.tile) .tm (fun s => s.putDest j c.dst outs scale [] false none) with
  | .ok w s => (w.err.map Prod.fst, s)
  | .fault _ _ s => (some stTranslation, s)
  | .fail st _ s => (some st, s)

/-- A chunk after some news: up, then down to the stages it collects, then written (R351), where the guard has a slot (R414). -/
def State.chunkStep (s : State) (j : Nat) (c : Coll) (x : CollChunk) : Option Status × Coll × State :=
  if x.written then (none, c, s)
  else
    let (x, s) := s.chunkUp j c (c.stages.length + 1) x
    match x.result with
    | none => (none, c.setChunk x, s)
    | some r =>
      let top := min x.stage c.stages.length
      let s := if x.held then s else (c.below top).foldl (fun s st => s.sendChunk j c x.chunk st 0x23 0 r.2.2.toNat r.1 r.2.1 0) s
      let shared := s.sharedBytes j c x.chunk
      let (e, s') := s.chunkWrite j c x r
      if s'.store.guardFull then (none, c.setChunk { x with held := true }, if x.held then s else s.guardWait s')
      else
      let s := s'
      let x := { x with written := e.isNone, held := false }
      (e, { c.setChunk x with flags := c.flags ||| r.2.2, undo := if e.isNone then c.undo ++ shared else c.undo }, s)

/-- The elements of a chunk as read now, as values and as bits; none after a failed read. -/
def State.chunkVals (s : State) (j : Nat) (c : Coll) (k : Nat) : Option (List Val × List Nat) × State :=
  match s.accessNow (some c.tile) .tm (fun s => s.readVals j c.src (c.elemsOf k)) with
  | .ok r s => (if r.err.isNone then some (r.vals.filterMap id, r.bits.filterMap id) else none, s)
  | .fault _ _ s => (none, s)
  | .fail _ _ s => (none, s)

/-- Chunks of a collective in flight on a porch. -/
def State.inFlightOn (s : State) (c : Coll) (p : Option Nat) : Nat :=
  (c.chunks.filter (fun x => !x.written && s.collPorch x.chunk = p)).length

/-- Chunks that start: read, in ascending order, as far as each porch has fewer than 8 in flight (R355). The flag says that
a read failed. -/
def State.startChunks (s : State) (j : Nat) (c : Coll) : Bool × Coll × State :=
  (List.range c.chunkCount).foldl (fun (acc : Bool × Coll × State) k =>
    let (bad, c, s) := acc
    let p := s.collPorch k
    if bad || (c.chunk k).isSome || p.isNone || 8 ≤ s.inFlightOn c p then acc
    else
      match s.chunkVals j c k with
      | (none, s) => (true, c, s)
      | (some vs, s) =>
        let (d, w, fl) := carry c k vs.1 vs.2
        (false, { c with chunks := c.chunks ++ [⟨k, 0, d, w, 0#4, false, none, false, false⟩], flags := c.flags ||| fl }, s))
    (false, c, s)

/-- Every chunk moved on, then those that now find room started, and so on; when all are written the collective ends `OK`, and
a failing read or write aborts it. -/
def State.collSteps (s : State) (j : Nat) : Nat → Coll → State
  | 0, c => s.putColl j c
  | fuel + 1, c =>
    let r := c.chunks.foldl (fun (acc : Option Status × Coll × State) x =>
      match acc with
      | (some e, c, s) => (some e, c, s)
      | (none, c, s) => s.chunkStep j c x) (none, c, s)
    match r with
    | (some _, c, s) => s.abortColl j c stCollAbort
    | (none, c, s) =>
      if c.chunks.length = c.chunkCount && c.chunks.all CollChunk.written then s.endColl j c stOK
      else
        match s.startChunks j c with
        | (true, c, s) => s.abortColl j c stCollAbort
        | (false, c', s) => if c'.chunks.length = c.chunks.length then s.putColl j c' else State.collSteps s j fuel c'

/-- A collective goes on as far as it can. -/
def State.collStep (s : State) (j : Nat) (c : Coll) : State := s.collSteps j (c.chunkCount + 1) c

/-- The writes of a collective that wait for a guard slot try again (R415): chunks, or the contents that an ended one puts back. -/
def State.collRetry (s : State) (j : Nat) (c : Coll) : State :=
  if c.restoring then
    let s' := s.unshare j c
    if s'.store.guardFull then s else s'.putColl j { c with restoring := false }
  else if c.chunks.any CollChunk.held then s.collStep j c
  else s

/-! ## The setup round (R366, R367) -/

/-- The member's own setup record: in exact mode the largest exponent and the flags of each chunk. A page that could not
be pinned, or a source that cannot be read, sets the abort flag. -/
def State.ownSetup (s : State) (j : Nat) (c : Coll) : SetupRecord × State :=
  let r : SetupRecord :=
    { step := (s.job j).step, count := c.src.size, srcFmt := BitVec.ofNat 5 c.src.fmt, dstFmt := BitVec.ofNat 5 c.dst.fmt
      exact := c.exact, fixed := c.fixed, slotLog2 := c.slotLog2, abort := c.abort, stepDiffers := false
      paramsDiffer := false, chunks := [] }
  if c.form ≠ 0 then (r, s)
  else
    (List.range c.chunkCount).foldl (fun (acc : SetupRecord × State) k =>
      match acc.2.chunkVals j c k with
      | (none, s) => ({ acc.1 with abort := true, chunks := acc.1.chunks ++ [(-32768, 0#4)] }, s)
      | (some (vs, _), s) =>
        let es := vs.filterMap (fun v => match v with | .fin q => some q.floorLog2 | _ => none)
        ({ acc.1 with chunks := acc.1.chunks ++ [(es.foldl max (-32768), vs.foldl (fun g v => g ||| valueFlags v) 0#4)] }, s)) (r, s)

/-- Combining two setup records. -/
def mergeSetup (a b : SetupRecord) : SetupRecord :=
  { a with
    stepDiffers := a.stepDiffers || b.stepDiffers || decide (a.step ≠ b.step)
    paramsDiffer := a.paramsDiffer || b.paramsDiffer || decide (a.count ≠ b.count) || decide (a.srcFmt ≠ b.srcFmt)
      || decide (a.dstFmt ≠ b.dstFmt) || a.exact != b.exact || a.fixed != b.fixed || decide (a.slotLog2 ≠ b.slotLog2)
    abort := a.abort || b.abort
    chunks := (a.chunks.zip b.chunks).map (fun x => (max x.1.1 x.2.1, x.1.2 ||| x.2.2)) }

/-- The verdict of the root (R366) with the anchors (R359). -/
def verdict (r : SetupRecord) : Status × SetupRecord :=
  let st := if r.stepDiffers then stStepMismatch else if r.paramsDiffer || r.abort then stCollAbort else stOK
  (st, { r with chunks := r.chunks.map (fun x => (if x.1 = -32768 then 0 else x.1 + 16, x.2)) })

/-- A verdict at a member: it goes down to the stages the member collects; `OK` starts the chunks, any other ends the collective
with the destination untouched. A member whose buffer was lost after its record had left aborts the collective (R372). -/
def State.applyVerdict (s : State) (j : Nat) (c : Coll) (st : Status) (r : SetupRecord) : State :=
  let top := min c.setupStage c.stages.length
  let s := (c.below top).foldl (fun s e => s.sendSetup j c 0x21 st e r 0) s
  if st ≠ stOK then s.endColl j c st
  else
    let c := { c with phase := .data, anchors := r.chunks }
    if c.abort then s.abortColl j c stCollAbort else (s.putColl j c).collStep j c

/-- The setup round as far as it can go: records of a stage combine once all its inputs' are there (R366). -/
def State.setupUp (s : State) (j : Nat) : Nat → Coll → State
  | 0, c => s.putColl j c
  | fuel + 1, c =>
    match c.setup with
    | none => s.putColl j c
    | some r =>
      match c.stages[c.setupStage]? with
      | none =>
        let v := verdict r
        s.applyVerdict j c v.1 v.2
      | some st =>
        if !st.collector then
          if c.setupSent then s.putColl j c
          else (s.sendSetup j c 0x20 stOK st r 0).putColl j { c with setupSent := true }
        else
          let here := c.records.filter (fun x => x.1 = c.setupStage)
          if here.length + 1 < st.fanin then s.putColl j c
          else
            State.setupUp s j fuel { c with
              setup := some (here.foldl (fun r x => mergeSetup r x.2.2) r), setupStage := c.setupStage + 1 }

/-- Contexts in use over the package (R369). -/
def State.collsActive (s : State) : Nat := ((s.jobs.flatMap (fun j => j.2.colls)).filter Coll.active).length

/-- A queued collective starts: it takes a context and begins its setup round (R369). -/
def State.startColl (s : State) (j : Nat) (c : Coll) : State :=
  let (r, s) := s.ownSetup j c
  s.setupUp j (c.stages.length + 1) { c with phase := .setup, setup := some r }

/-- The earliest queued collective of a job. -/
def Job.firstQueued (jb : Job) : Option Coll := jb.colls.find? Coll.isQueued

/-! ## The commands (R349, R352, R354, R374) -/

/-- A group of a job. -/
def Job.group (jb : Job) (g : Nat) : Option Group := SMap.get none jb.groups g

/-- Pinning the pages of a collective: a deferred page is resolved, one that cannot be sets the abort flag (R354). -/
def State.pinPages (s : State) (j : Nat) (reads writes : List Nat) : Bool × State :=
  let step (write : Bool) (acc : Bool × State) (va : Nat) : Bool × State :=
    match acc.2.translate j va write with
    | .ok _ _ => acc
    | .defer =>
      match acc.2.resolveFault j va with
      | some s => match s.translate j va write with
        | .ok _ _ => (acc.1, s)
        | _ => (true, s)
      | none => (true, acc.2)
    | _ => (true, acc.2)
  (pagesOf writes).foldl (step true) ((pagesOf reads).foldl (step false) (false, s))

/-- Pages held by collectives of a job that have not ended (R354). -/
def Job.pinnedPages (jb : Job) : List Nat :=
  (jb.colls.filter (fun c => match c.phase with | .ended _ => false | _ => true)).flatMap (fun c =>
    dedup ((c.src.all.flatMap c.src.bytesOf ++ (List.range c.chunkCount).flatMap c.chunkVas).map (· / 0x200000)))

/-- Queueing a `SUM_ALL` on behalf of a tile or a list: the status it fails with, or whether the queue had room. A
collective that matches a recorded ended one ends at once with its status (R370). -/
def State.sumAll (s : State) (j tile : Nat) (list : Option Nat) (c : EngineCmd) : Option Status × Bool × State :=
  match c.s0.desc, c.s2.desc, (s.job j).group (c.w.imm 0 6) with
  | some src, some dst, some g =>
    let jb := s.job j
    let slots := 2 ^ g.slotLog2 / 4096 * 170
    if dst.format = .fx192 && dst.aglen ≠ slots then (some stDescBad, true, s)
    else if (s.fabAllowed j).isSome then (s.fabAllowed j, true, s)
    else if 64 ≤ (jb.colls.filter Coll.isQueued).length then (none, false, s)
    else
      let imm := c.s3.immVal.toNat
      let x : Coll :=
        { tile := tile, list := list, group := c.w.imm 0 6, gid := g.gid, seq := g.seq, src := src, dst := dst
          mode := c.w.mode, sat := c.w.flag 4, exact := c.w.flag 3, fixed := c.w.imm 6 1 = 1 || jb.det
          ctr := if imm.testBit 8 then some (imm % 256) else none
          chain := if imm.testBit 21 then some (bitsOf imm 9 12) else none
          issued := s.now, issue := jb.nextIssue, phase := .queued, abort := false, stages := g.stages
          members := g.members, slotLog2 := g.slotLog2, timeoutMs := g.timeoutMs, setupStage := 0, setupSent := false
          setup := none, records := [], anchors := [], parts := [], setupParts := [], chunks := [], undo := [], restoring := false, flags := 0#4
          covered := false }
      let (abort, s) := s.pinPages j (src.all.flatMap src.bytesOf) ((List.range x.chunkCount).flatMap x.chunkVas)
      let x := { x with abort := abort }
      let s := s.modJob j (fun jb => { jb with
        colls := jb.colls ++ [x], nextIssue := jb.nextIssue + 1
        groups := SMap.set none jb.groups (c.w.imm 0 6) (some { g with seq := (g.seq + 1) % 2 ^ 32 }) })
      match s.endedColl j g.gid g.seq with
      | some st => (none, true, s.endColl j x st)
      | none => (none, true, s)
  | _, _, _ => (some stDescBad, true, s)

/-- Collectives that a wait of a tile covers (R374). -/
def coversColl (t : Nat) (c : Coll) : Bool := c.tile = t && c.list.isNone && !c.covered
def Coll.endedWith (c : Coll) : Option Status :=
  match c.phase with
  | .ended st => some st
  | _ => none

/-- A collective that a wait or a list waits for: it has not ended, or its last write waits for a guard slot (R414). -/
def Coll.waited (c : Coll) : Bool := c.endedWith.isNone || c.restoring

/-- The covered collectives of a tile when all have ended: the earliest failure's status, and their flags. -/
def State.finishColls (s : State) (j t : Nat) : Option (Status × Flags × State) :=
  let cs := (s.job j).colls.filter (coversColl t)
  if cs.any Coll.waited then none
  else
    let fl := cs.foldl (fun g c => g ||| c.flags) 0#4
    let st := ((cs.filterMap Coll.endedWith).find? (· ≠ stOK)).getD stOK
    some (st, fl, s.modJob j (fun jb => { jb with colls := jb.colls.filter (fun c => !(coversColl t c)) }))

/-- The work of a collective command of a tile, at its start and whenever what it waits for may have come. -/
def State.collWork (s : State) (t j : Nat) (c : EngineCmd) : Stage × State :=
  match c.op with
  | .collGroup =>
    if (s.job j).torn then (.ready (failResult stTorn 0), s)
    else if (s.job j).colls.any (fun x => x.group = c.w.imm 0 6 && x.waited) then (.fabric, s)
    else
      Access.stage ((s.readField j c.s0.addrVal 128).bind fun b s =>
        match parseGroup b s.fab.endpoint s.pair.twinEndpoint with
        | some g =>
          if ((s.job j).binding.map g.permitted).getD g.stages.isEmpty then
            .ok (.ready okResult) (s.modJob j (fun jb => { jb with groups := SMap.set none jb.groups (c.w.imm 0 6) (some g) }))
          else .ok (.ready (failResult stNotPermitted 0)) s
        | none => .ok (.ready (failResult stDescBad c.s0.addrVal)) s)
  | .sumAll =>
    match s.sumAll j t none c with
    | (some st, _, s) => (.ready (failResult st 0), s)
    | (none, true, s) => (.ready okResult, s)
    | (none, false, s) => (.fabric, s)
  | _ =>
    if (s.job j).torn && !((s.job j).colls.any (coversColl t)) then (.ready (failResult stTorn 0), s)
    else
      match s.finishColls j t with
      | none => (.fabric, s)
      | some (st, fl, s) =>
        if st = stOK then (.ready { okResult with flags := fl }, s)
        else (.ready { failResult st 0 with flags := fl }, s)

end Sys2Proof.Machine
end

