-- ==== Sys2Proof/Machine/Reduce.lean ====
section
/-! DEFINITION. Reduce.lean: the work of the reduction unit (R191 to R195). -/

namespace Sys2Proof.Machine

open Sys2Proof

/-- `ACC`, `NEG` and `ALL` of a reduction command (Table 7.5). -/
def ruAcc (c : EngineCmd) : Bool := c.w.imm 0 1 = 1
def ruNeg (c : EngineCmd) : Bool := c.w.imm 1 1 = 1
def ruAll (w : CmdWord) : Bool := w.imm 2 1 = 1

/-- Extents of a reduction's output: dimensions 0 to 2 of D are dimensions 1 to 3 of a, or one element under `ALL`
(R192). -/
def ruShapeOk (w : CmdWord) (a d : Desc) : Bool :=
  if ruAll w then d.size = 1
  else d.extOf 0 = a.extOf 1 && d.extOf 1 = a.extOf 2 && d.extOf 2 = a.extOf 3 && d.extOf 3 = 1

/-- Checks 4 and 5 on a reduction command (R92, R180, R192, R193, R195); the limit of R92 where `lim` says so. -/
def ruCheck (lim : Bool) (op : Op) (w : CmdWord) (v0 v1 v2 v3 : SlotVal) : Option Status :=
  match v0.desc, v3.desc with
  | some a, some d =>
    if op == .ruHist then
      if a.vectorOk && d.calibrated && d.format.emaxCal.isSome && d.calPtr % 64 = 0 then
        (if a.aligned then none else some stAlignment)
      else some stDescBad
    else
      let acc := w.imm 0 1 = 1 && op != .ruAmax
      let bOk := match op, v1.desc with
        | .ruDot, some b => b.vectorOk && b.broadcastOf a
        | .ruDot, none => false
        | _, _ => true
      let cOk := match v2.desc with
        | some c =>
          if op == .ruAmax then c.format == .int64 && c.skind = 0 && !c.calibrated && c.sameExt d
          else c.vectorOk && c.sameExt d
        | none => !acc && op != .ruAmax
      let addends := (if ruAll w then a.size else a.extOf 0) + bit acc
      if !(a.vectorOk && d.vectorOk && d.calOk && bOk && cOk && ruShapeOk w a d && (!lim || decide (addends ≤ 2 ^ 32))) then
        some stDescBad
      else if (v0.desc.toList ++ v1.desc.toList ++ v2.desc.toList ++ v3.desc.toList).all Desc.aligned then none
      else some stAlignment
  | _, _ => some stDescBad

/-- The linear indices of a that enter output o. -/
def ruRun (w : CmdWord) (a d : Desc) (o : Nat) : List Nat :=
  if ruAll w then a.all
  else
    let (i0, i1, i2, _) := d.index o
    (List.range a.size).filter (fun e =>
      let (_, k1, k2, k3) := a.index e
      k1 = i0 && k2 = i1 && k3 = i2)

/-- Largest, smallest or largest-magnitude of candidates (R193). -/
def pickVal (op : Op) (vs : List Val) : Val × Flags :=
  if vs.any Val.isNan then (.nan false, snanFlag vs)
  else
    match vs with
    | [] => (.zero false, 0#4)
    | v :: rest =>
      match op with
      | .ruMax => (rest.foldl (fun b x => if ltZero b x then x else b) v, 0#4)
      | .ruMin => (rest.foldl (fun b x => if ltZero x b then x else b) v, 0#4)
      | _ => (rest.foldl (fun b x => if Val.lt b x.abs then x.abs else b) v.abs, 0#4)

/-- The index `RU_AMAX` writes: the first of the largest magnitude, or the first NaN (R193). -/
def amaxIndex (vs : List Val) : Nat :=
  match vs.findIdx? Val.isNan with
  | some i => i
  | none =>
    let m := (pickVal .ruAmax vs).1
    (vs.findIdx? (fun v => Val.eq v.abs m)).getD 0

/-- The addends of an output of a summing command (R192). -/
def ruAddends (op : Op) (neg : Bool) (a b : Desc) (va vb : SMap (Option Val)) (run : List Nat) : List (Option Addend) :=
  run.map (fun i =>
    match SMap.get none va i with
    | none => none
    | some x =>
      match op with
      | .ruSum => some ⟨x, snanFlag [x], pairKey a a i 0⟩
      | .ruSsq => let r := Val.mul x x; some ⟨r.1, r.2, pairKey a a i i⟩
      | _ =>
        let ib := b.broadcastIndex a i
        (SMap.get none vb ib).map (fun y =>
          let r := Val.mul x y
          ⟨if neg then r.1.neg else r.1, r.2, pairKey a b i ib⟩))

/-- The segment limit of a reduction (R94, R192); 0 for direct entry. -/
def ruLimit (op : Op) (a b : Desc) : Nat :=
  match op with
  | .ruSum => if wideDirect a then 0 else segmentLimit (operandRange a) (0, 1)
  | .ruSsq => if wideDirect a then 0 else segmentLimit (operandRange a) (operandRange a)
  | _ => if wideDirect a || wideDirect b then 0 else segmentLimit (operandRange a) (operandRange b)

/-- The accumulation slots of one output: its run in whole groups of 16 (R194). -/
def ruCost (w : CmdWord) (a : Desc) : Nat := 16 * (((if ruAll w then a.size else a.extOf 0) + 15) / 16)

/-- The outputs that the planned chunks before the one that holds accumulation slot `k` have finished, whole blocks of 32 where D
is block-scaled, and none where the command is one conversion (R186, R194, R231). DEDUCED (log 129). -/
def ruStart (c : EngineCmd) (a d : Desc) (k : Nat) : Nat :=
  let bytes := a.format.bits + (if c.op == .ruDot then ((c.s1.desc).map (fun b => b.format.bits)).getD 0 else 0)
  let cap := (chunkCycles - 42) * (if 64 < bytes then 64 else 128)
  let n := k / cap * cap / ruCost c.w a
  if d.calibrated || c.op == .ruHist then 0 else if d.skind = 2 then n / 32 * 32 else n

/-- What the probe of a reduction tries, by accumulation slots: the elements of each output's run and, with its last slot, the
accumulate input and the destinations, an index's among them (R185). -/
def State.ruReach (s : State) (j : Nat) (c : EngineCmd) (a d : Desc) : List (Nat × List (Nat × Bool)) :=
  let third := c.op == .ruAmax
  let cost := ruCost c.w a
  let hist := s.historyAt j d
  let one (i : Nat) : List (Nat × Bool) := (SlotVal.tensor a).reach a i ++ (if c.op == .ruDot then c.s1.reach a i else [])
  let run (o : Nat) : List (Nat × List (Nat × Bool)) :=
    let is := ruRun c.w a d o
    ((List.range is.length).zip is).map (fun x => (o * cost + x.1, one x.2))
  let extra (o : Nat) : List (Nat × Bool) :=
    match c.s2.desc with
    | some x =>
      if third then x.destReach none o
      else if ruAcc c then (x.bytesOf o ++ x.scaleBytes o).map (fun va => (va, false)) else []
    | none => []
  if c.op == .ruHist then
    (0, (vaRange d.calPtr 576).map (fun va => (va, true))) :: a.all.map (fun i => (i, (SlotVal.tensor a).reach a i))
  else d.all.flatMap (fun o => run o ++ [(o * cost + cost - 1, extra o ++ d.destReach hist o)])

/-- The elements that enter the first `n` outputs. -/
def ruElems (w : CmdWord) (a d : Desc) (n : Nat) : List Nat :=
  if n = d.size then a.all else (List.range n).flatMap (ruRun w a d)

/-- The work of `RU_SUM`, `RU_DOT` and `RU_SSQ` on the first `n` outputs. -/
def State.ruSums (s : State) (t j : Nat) (c : EngineCmd) (a b d : Desc) (n : Nat) : Access Stage :=
  let ia := ruElems c.w a d n
  (s.readVals j a ia).bind fun ra s =>
    let ib := if c.op == .ruDot then dedup (ia.map (b.broadcastIndex a)) else []
    (s.readVals j b ib).bind fun rb s =>
      let acc := match c.s2.desc with
        | some x => if ruAcc c then some x else none
        | none => none
      let rc : Access ReadVals := match acc with
        | some x => s.readVals j x (List.range n)
        | none => .ok ⟨[], none, []⟩ s
      rc.bind fun rc s =>
        let va := valueMap ia ra.vals
        let vb := valueMap ib rb.vals
        let sums := (List.range n).map (fun o =>
          let as := ruAddends c.op (ruNeg c) a b va vb (ruRun c.w a d o)
          let first : Option (Option Val) := if acc.isSome then (rc.vals.getD o none).map some else some none
          (o, match first with
            | none => none
            | some f =>
              if as.all Option.isSome then some (sumAddends c.w.mode (ruLimit c.op a b) f [as.filterMap id]) else none))
        let rs := sums.map (fun x => (⟨x.1, x.2.map OutSum.v, (x.2.map OutSum.flags).getD 0#4, true⟩ : Result))
        let err := firstErr ra.err (firstErr rb.err rc.err)
        let ctx := s.roundCtx j c.step c.w.mode (c.w.flag 3)
        (s.writeResults j t d ctx false (mixedOn err) rs err).bind fun w s =>
          let (ps, s) := s.ranPasses d ctx w (sums.filterMap (fun x => x.2.map (fun y => (x.1, y))))
          .ok (.ready (writtenResult w.1 (sumPasses ps))) s

/-- The work of `RU_MAX`, `RU_MIN` and `RU_AMAX` on the first `n` outputs. -/
def State.ruPick (s : State) (t j : Nat) (c : EngineCmd) (a d : Desc) (n : Nat) : Access Stage :=
  let ia := ruElems c.w a d n
  (s.readVals j a ia).bind fun ra s =>
    let acc := match c.s2.desc with
      | some x => if c.op != .ruAmax && ruAcc c then some x else none
      | none => none
    let rc : Access ReadVals := match acc with
      | some x => s.readVals j x (List.range n)
      | none => .ok ⟨[], none, []⟩ s
    rc.bind fun rc s =>
      let va := valueMap ia ra.vals
      let runs := (List.range n).map (fun o =>
        let run := ruRun c.w a d o
        let vs := run.map (SMap.get none va)
        let vs := if acc.isSome then vs ++ [rc.vals.getD o none] else vs
        (o, if vs.all Option.isSome then some (vs.filterMap id) else none))
      let rs := runs.map (fun x =>
        match x.2 with
        | some vs => let r := pickVal c.op vs; (⟨x.1, some r.1, r.2, true⟩ : Result)
        | none => ⟨x.1, none, 0#4, true⟩)
      let err := firstErr ra.err rc.err
      let index := if c.op == .ruAmax then c.s2.desc else none
      let outs : List OutElem := runs.map (fun r => ⟨r.1, r.2.map amaxIndex, 0#4⟩)
      (s.writeResults j t d (s.roundCtx j c.step c.w.mode (c.w.flag 3)) false (mixedOn err) rs err).bind fun w s =>
        match index with
        | none => .ok (.ready (writtenResult w.1 0)) s
        | some x =>
          (s.putDest j x outs [] [] (mixedOn w.1.err) w.1.err).bind fun w2 s =>
            .ok (.ready { writtenResult w2 0 with flags := w.1.flags }) s

/-- The work of `RU_HIST` (R195): the unit's own set, merged into the record. -/
def State.ruHist (s : State) (j : Nat) (c : EngineCmd) (a d : Desc) : Access Stage :=
  (s.readVals j a a.all).bind fun ra s =>
    match ra.err with
    | some (st, x) => .fail st x s
    | none =>
      (s.readCal j d).bind fun r s =>
        let h := histOf r.hbase (ra.vals.filterMap id)
        (s.putDest j d [] [] (calWrites d (r.merge c.step.toNat h)) false none).bind fun w s =>
          .ok (.ready (writtenResult w 0)) s

/-- The work of a reduction command; `lost` is a fault that its probe met and that was not resolved. -/
def State.ruWork (s : State) (t j : Nat) (c : EngineCmd) (lost : Option (Status × Nat) := none) : Stage × State :=
  match c.s0.desc, c.s3.desc with
  | some a, some d =>
    Access.stage (s.chunked j lost (ruStart c a d) (s.ruReach j c a d) d.size (fun n s =>
      match c.op with
      | .ruHist => s.ruHist j c a d
      | .ruMax | .ruMin | .ruAmax => s.ruPick t j c a d n
      | _ => s.ruSums t j c a ((c.s1.desc).getD a) d n))
  | _, _ => (.ready (failResult stDescBad 0), s)

end Sys2Proof.Machine
end

