-- ==== Sys2Proof/Machine/Solver.lean ====
section
/-! DEFINITION. Solver.lean: the work of the solver engine (R155 to R177): its record, factorisation with pivot
treatment, refinement, the FP64 fallback, deadlines and resumption, and banded systems. -/

namespace Sys2Proof.Machine

open Sys2Proof

/-! ## Record and checks -/

/-- The fields of the record that the program writes (Table 6.7). -/
structure SolverHdr where
  maxit : Nat
  tau : Nat
  pertPtr : Nat
  pertCap : Nat
  workPtr : Nat
  xloPtr : Nat

/-- The record's first 0x30 bytes; none for a reserved bit. -/
def parseHdr (b : List Byte) : Option SolverHdr :=
  let w (i : Nat) : Nat := fieldAt b (8 * i) 8
  if w 0 / 2 ^ 11 ≠ 0 || w 5 ≠ 0 then none
  else
    some ⟨if bitsOf (w 0) 0 4 = 0 then 10 else bitsOf (w 0) 0 4, if bitsOf (w 0) 4 7 = 0 then 40 else bitsOf (w 0) 4 7,
      w 1, w 2, w 3, w 4 % 2 ^ 48⟩

/-- A solver command works as a cascade. -/
def seCasc (c : EngineCmd) : Bool := (c.op == .seFact || c.op == .seSolve) && c.w.imm 11 1 = 1

/-- Addresses lie in the tile's own store, or for a cascade in the pantry of its die (R155). -/
def State.solverHome (s : State) (t j : Nat) (casc : Bool) (vas : List Nat) : Bool :=
  let (lo, size) := if casc then (pantryBase (s.dieOf t), 0x14000000) else (tileBase t, 0x400000)
  (pagesOf vas).all (fun va => s.pageIn j lo size va || s.unplaced j va)

/-- An address of each page of a run of `n` bytes, of its first byte at least. -/
def runPages (a n : Nat) : List Nat :=
  a :: (List.range (n / 0x200000 + 1)).filterMap (fun k =>
    let b := (a / 0x200000 + 1 + k) * 0x200000
    if b < a + n then some b else none)

/-- A run of bytes that a pointer of the record names: an address of 48 bits, in the memory it must lie in (R155, R158). -/
def State.runHome (s : State) (t j : Nat) (casc : Bool) (a n : Nat) : Bool :=
  decide (a < 2 ^ 48) && decide (n ≤ 0x14000000) && s.solverHome t j casc (runPages a n)

/-- The perturbation list of a record lies in the tile's own store. -/
def State.pertHome (s : State) (t j : Nat) (h : SolverHdr) : Bool := s.runHome t j false h.pertPtr (8 * h.pertCap)

/-- An FP64 or FP32 matrix with scale kind 0. -/
def plainFloat (d : Desc) : Bool :=
  (d.format == .fp64 || d.format == .fp32) && d.skind = 0

/-- An FP64 matrix with scale kind 0. -/
def plainDouble (d : Desc) : Bool := d.format == .fp64 && d.skind = 0

/-- Table 6.4: the largest n. -/
def solverLimit (casc wide : Bool) : Nat :=
  match casc, wide with
  | false, true => 256
  | false, false => 512
  | true, true => 4096
  | true, false => 8192

/-- Table 6.8: workspace bytes. -/
def workBytes (c : EngineCmd) (n nrhs : Nat) : Nat :=
  match c.op with
  | .seSolve => 4 * n * n + 4 * n + 52 * n * nrhs + (if c.w.flag 2 then 8 * n * n else 0)
  | .seBand => 24 * n * (2 * c.w.imm 0 5 + c.w.imm 5 5 + 1)
  | _ => 0

/-- Whether a matrix is square, within its limit and without a batch. -/
def squareOk (a : Desc) (limit : Nat) : Bool :=
  a.extOf 0 = a.extOf 1 && a.extOf 2 = 1 && a.extOf 3 = 1 && decide (a.extOf 0 ≤ limit)

/-- The bytes of a matrix. -/
def Desc.dataBytes (d : Desc) : Nat := d.size * d.elemBytes

/-- The bytes of a job's scratchpad regions in a die's pantry (R251). -/
def State.scratchpad (s : State) (j d : Nat) : Nat :=
  ((List.range 16).map (fun n =>
    let r := SMap.get 0#24 s.store.panRegs (16 * d + n)
    if panField r 19 1 = 1 && panField r 16 1 = 0 && panField r 20 4 = j then panField r 8 8 * 0x200000 else 0)).foldl (· + ·) 0

/-- Checks 4 to 6 on a solver command (R145 to R158), in their order (Table 8.15): `DESCRIPTOR_BAD` for operands outside Table 6.4
or in the wrong memory; `ALIGNMENT` for a misaligned row or record, but of `SE_RESUME`, which has no such status (Table 6.10),
`DESCRIPTOR_BAD`; and, where `lim` says so, `RESOURCE_REFUSED` for a problem that does not fit its memory: A, the workspace and a
single tile's record in the store, a cascade's A and workspace in the job's scratchpad on the master's die (R155 ties the factor,
B and X to no memory). `known` says of which slots the address is known: at a load not of one that is computed. -/
def State.solverCheck (s : State) (t j : Nat) (lim : Bool) (known : Nat → Bool) (c : EngineCmd) : Option Status :=
  let casc := seCasc c
  let homeA (a : Desc) : Bool := !known 0 || s.solverHome t j casc (a.all.map a.addr)
  let recOk := !known 3 || s.solverHome t j false (vaRange c.s3.addrVal 256)
  let memory := if casc then s.scratchpad j (s.dieOf t) else 0x400000 - 256
  let finish (ok : Bool) (ds : List Desc) (need : Nat) : Option Status :=
    if !(ok && recOk) then some stDescBad
    else if !(ds.all Desc.aligned && c.s3.addrVal % 64 = 0) then some stAlignment
    else if lim && decide (memory < need) then some stRefused
    else none
  match c.op with
  | .seFact =>
    match c.s0.desc, c.s1.desc with
    | some a, some f =>
      let n := a.extOf 0
      let wide := a.format == .fp64 || f.format == .fp64
      let pivOk := match c.s2.desc with
        | some p => p.fmt = 0x0D && p.skind = 0 && p.calOk && p.extOf 0 = n && p.size = n
        | none => c.w.flags.toNat % 4 ≠ 0
      finish (plainFloat a && plainFloat f && f.calOk && squareOk a (solverLimit casc wide) && a.sameExt f && pivOk
          && homeA a)
        ([a, f] ++ c.s2.desc.toList) a.dataBytes
    | _, _ => some stDescBad
  | .seSolve =>
    match c.s0.desc, c.s1.desc, c.s2.desc with
    | some a, some b, some x =>
      let n := a.extOf 0
      finish ([a, b, x].all plainDouble && x.calOk && squareOk a (solverLimit casc true) && b.extOf 0 = n && b.extOf 2 = 1 && b.extOf 3 = 1 && b.sameExt x
          && homeA a)
        [a, b, x] (a.dataBytes + workBytes c n (b.extOf 1))
    | _, _, _ => some stDescBad
  | .seBand =>
    match c.s0.desc, c.s1.desc, c.s2.desc with
    | some a, some b, some x =>
      let n := a.extOf 1
      finish ([a, b, x].all plainDouble && x.calOk
          && a.extOf 0 = 2 * c.w.imm 0 5 + c.w.imm 5 5 + 1 && decide (n ≤ 65536) && a.extOf 3 = 1
          && b.extOf 0 = n && b.extOf 2 = a.extOf 2 && b.extOf 3 = 1 && b.sameExt x
          && homeA a)
        [a, b, x] (a.dataBytes + workBytes c n 0)
    | _, _, _ => some stDescBad
  | .seResume => finish (c.s3.addrVal % 64 = 0) [] 0
  | _ => none

/-! ## Factorisation (R160 to R163) -/

/-- A value rounded once by RNE to a format, as the format then holds it. -/
def rne (f : Fmt) (v : Val) : Val × Flags :=
  let r := narrow f v ⟨0, false, 0⟩
  (decodeElem f r.bits, r.flags)

/-- The bits of a value that a format holds. -/
def bitsIn (f : Fmt) (v : Val) : Nat := (narrow f v ⟨0, false, 0⟩).bits

/-- A factorisation in progress: class, size, elements by rows, pivots, the threshold θ, perturbed columns in order, the
first overflow column, the stop. -/
structure Fact where
  f : Fmt
  cls : Nat
  n : Nat
  a : List Val
  piv : List Nat
  theta : Val
  pert : List Nat
  ovf : Option Nat
  stop : Option (Status × Nat)
  flags : Flags
  passes : Nat

def Fact.at (x : Fact) (i j : Nat) : Val := x.a.getD (i * x.n + j) (.zero false)
def Fact.put (x : Fact) (i j : Nat) (v : Val × Flags) : Fact :=
  { x with a := x.a.set (i * x.n + j) v.1, flags := x.flags ||| v.2 }

/-- Columns per panel (R160). -/
def panelCols : Nat := 32
def Fact.panels (x : Fact) : Nat := (x.n + panelCols - 1) / panelCols
/-- The columns of a panel. -/
def Fact.cols (x : Fact) (p : Nat) : List Nat :=
  (List.range panelCols).filterMap (fun k => if p * panelCols + k < x.n then some (p * panelCols + k) else none)

/-- Rows exchanged across all columns. -/
def Fact.swap (x : Fact) (i p : Nat) : Fact :=
  if i = p then x
  else
    (List.range x.n).foldl (fun y k =>
      { y with a := (y.a.set (i * x.n + k) (x.at p k)).set (p * x.n + k) (x.at i k) }) x

/-- The pivot row of column j: the least row with the largest magnitude. Where a NaN stands in the column the spec gives
no order, and the row is a free value (log 19). -/
def Fact.pivotRow (x : Fact) (free : Nat → Nat) (j : Nat) : Nat :=
  let rows := (List.range x.n).filter (fun i => decide (j ≤ i))
  if rows.any (fun i => (x.at i j).isNan) then j + free j % (x.n - j)
  else rows.foldl (fun p i => if Val.lt (x.at p j).abs (x.at i j).abs then i else p) j

/-- The diagonal's treatment: the factorisation with the diagonal set and the perturbation noted, or stopped. -/
def Fact.diagonal (x : Fact) (j : Nat) : Fact :=
  let d := x.at j j
  let below := (List.range x.n).filter (fun i => decide (j < i))
  let perturb (v : Val) : Fact := { x.put j j (v, 0#4) with pert := x.pert ++ [j] }
  let signed : Val := if d.isNeg && !d.isZero then x.theta.neg else x.theta
  match x.cls with
  | 0 => if Val.lt d.abs x.theta then perturb signed else x
  | 1 =>
    if d.isZero && below.all (fun i => (x.at i j).isZero) then { x with stop := some (stSingular, j) }
    else
      let y := if Val.lt d x.theta then perturb x.theta else x
      let r := sqrtVal (y.at j j)
      let q := rne x.f r.1
      y.put j j (q.1, r.2 ||| q.2)
  | _ =>
    if d.isZero && below.all (fun i => (x.at i j).isZero) then { x with stop := some (stSingular, j) }
    else if Val.lt d.abs x.theta then perturb signed
    else x

/-- Straggler passes of one exact sum of a solver command, rounded by RNE (R101). -/
def roundPasses (f : Fmt) (as : List (Val × Flags)) : Nat :=
  if as.all (fun a => a.1.isFinite) then
    countStragglers (fun x => breakpointScaled f 0 0 (Q.ofInt 1) x) as.length [as.map (fun a => a.1.q)]
  else 0

/-- The product that an update of element (i, k) takes from column m. DESIGN CHOICE (log 144): under LDLᵀ it is the exact product
l × d × l of three elements. -/
def Fact.product (x : Fact) (i k m : Nat) : Val × Flags :=
  match x.cls with
  | 0 => Val.mul (x.at i m) (x.at m k)
  | 1 => Val.mul (x.at i m) (x.at k m)
  | _ =>
    let p := Val.mul (x.at i m) (x.at k m)
    let q := Val.mul p.1 (x.at m m)
    (q.1, p.2 ||| q.2)

/-- The old value less some products, rounded once (R160), with its straggler passes. -/
def Fact.update (x : Fact) (i k : Nat) (ms : List Nat) : Fact :=
  if ms.isEmpty then x
  else
    let as := (x.at i k, 0#4) :: ms.map (fun m =>
      let p := x.product i k m
      (p.1.neg, p.2))
    let r := sumExact 0 as
    let q := rne x.f r.1
    { x.put i k (q.1, r.2 ||| q.2) with passes := x.passes + roundPasses x.f as }

/-- One column within its panel: chosen, tested, scaled, and the rest of the panel updated. DESIGN CHOICE (log 144): each column's
product is taken from the rest of its panel by an update of its own, rounded once. -/
def Fact.column (free : Nat → Nat) (c1 : Nat) (x : Fact) (j : Nat) : Fact :=
  if x.stop.isSome then x
  else
    let rows := (List.range x.n).filter (fun i => decide (j < i))
    let y :=
      if x.cls = 0 then
        if (x.at j j).isZero && rows.all (fun i => (x.at i j).isZero) then { x with stop := some (stSingular, j) }
        else
          let p := x.pivotRow free j
          Fact.diagonal { x.swap j p with piv := x.piv ++ [p] } j
      else x.diagonal j
    if y.stop.isSome then y
    else
      let z := rows.foldl (fun z i =>
        let r := divVal (z.at i j) (z.at j j)
        let q := rne z.f r.1
        let z := z.put i j (q.1, r.2 ||| q.2)
        if q.1.isInf && z.ovf.isNone then { z with ovf := some j } else z) y
      let rest := (List.range c1).filter (fun k => decide (j < k))
      rest.foldl (fun z k =>
        rows.foldl (fun z i => if z.cls = 0 || k ≤ i then z.update i k [j] else z) z) z

/-- A panel step (R168): a panel, or the part of its trailing update that falls in one later panel's columns, which is how the
model divides that update into parts (DESIGN CHOICE, log 119). Under LU a row of the panel itself takes the products of the rows
above it. -/
def Fact.step (free : Nat → Nat) (x : Fact) (st : Nat × Nat) : Fact :=
  let (p, q) := st
  let cs := x.cols p
  let c0 := p * panelCols
  let c1 := c0 + cs.length
  let y :=
    if p = q then cs.foldl (Fact.column free c1) x
    else
      (x.cols q).foldl (fun z k =>
        ((List.range x.n).filter (fun i => decide (c0 < i) && (decide (c1 ≤ i) || x.cls = 0) && (x.cls = 0 || decide (k ≤ i)))).foldl
          (fun z i => z.update i k (cs.filter (fun m => decide (m < i)))) z) x
  if y.stop.isNone && q + 1 = x.panels then
    match y.ovf with
    | some j => { y with stop := some (stNonfinite, j) }
    | none => y
  else y

/-- The panel steps in order. -/
def Fact.steps (x : Fact) : List (Nat × Nat) :=
  (List.range x.panels).flatMap (fun p => ((List.range x.panels).filter (fun q => decide (p ≤ q))).map (fun q => (p, q)))

/-- The panel step that a factorisation completed last, which `COLUMN` names where no column failed (Table 6.7). DESIGN
CHOICE (log 119): the steps are numbered from 0 in their order. -/
def Fact.lastStep (x : Fact) (stop : Option Nat) : Nat :=
  match x.stop, stop with
  | some (_, j), _ => j
  | none, some k => k - 1
  | none, none => x.steps.length - 1

/-- Running panel steps from number k on; a deadline seen passed at the end of a step ends the run with the number of
the next one. -/
def Fact.run (free : Nat → Nat) (passed : Nat → Bool) : Fact → Nat → List (Nat × Nat) → Fact × Option Nat
  | x, _, [] => (x, none)
  | x, k, st :: rest =>
    let y := x.step free st
    if y.stop.isSome then (y, none)
    else if passed k then (y, some (k + 1))
    else Fact.run free passed y (k + 1) rest

/-- Largest magnitude; none where a NaN stands. -/
def maxAbs (vs : List Val) : Option Val :=
  if vs.any Val.isNan then none
  else some (vs.foldl (fun m v => if Val.lt m v.abs then v.abs else m) (.zero false))

/-- A number rounded toward +∞ to a format. -/
def roundUp (f : Fmt) (v : Val) : Val := decodeElem f (narrow f v ⟨2, false, 0⟩).bits

/-- The first column of a matrix that holds a non-finite element; only the lower triangle counts for a symmetric one. -/
def nonfiniteColumn (cls n : Nat) (a : List Val) : Option Nat :=
  (List.range n).find? (fun j => (List.range n).any (fun i =>
    (cls = 0 || j ≤ i) && !(a.getD (i * n + j) (.zero false)).isFinite))

/-- The elements that a class reads. -/
def usedElems (cls n : Nat) (a : List Val) : List Val :=
  (List.range n).flatMap (fun i => ((List.range n).filter (fun j => cls = 0 || decide (j ≤ i))).map (fun j =>
    a.getD (i * n + j) (.zero false)))

/-- The matrix made ready for a factorisation: the exponent it was scaled by, and its flags (R160, R161). -/
def startFact (f : Fmt) (cls n tau : Nat) (scaled : Bool) (a : List Val) : Fact × Int :=
  let norm := (maxAbs (usedElems cls n a)).getD (.zero false)
  let e : Int := if scaled && !norm.isZero then norm.q.floorLog2 else 0
  let rs := a.map (fun v => rne f (v.scale (Q.pow2 (-e))))
  let a' := rs.map Prod.fst
  let norm' := (maxAbs (usedElems cls n a')).getD (.zero false)
  (⟨f, cls, n, a', [], roundUp f (norm'.scale (Q.pow2 (-(tau : Int)))), [], none, none,
    rs.foldl (fun g x => g ||| x.2) 0#4, 0⟩, e)

/-! ## Solving with a factor (R164) -/

/-- One substitution: a right-hand side less products, rounded once. -/
def subst (f : Fmt) (v : Val) (ps : List (Val × Flags)) : Val × Flags :=
  let r := sumExact 0 ((v, 0#4) :: ps.map (fun p => (p.1.neg, p.2)))
  let q := rne f r.1
  (q.1, r.2 ||| q.2)

/-- A quotient, rounded once. -/
def quotient (f : Fmt) (x y : Val) : Val × Flags :=
  let r := divVal x y
  let q := rne f r.1
  (q.1, r.2 ||| q.2)

/-- Forward substitution in row order; `unit` says that the diagonal is 1. -/
def Fact.forward (x : Fact) (unit : Bool) (v : List Val) : List Val × Flags :=
  (List.range x.n).foldl (fun (acc : List Val × Flags) i =>
    let r := subst x.f (v.getD i (.zero false)) ((List.range i).map (fun m => Val.mul (x.at i m) (acc.1.getD m (.zero false))))
    let q := if unit then (r.1, 0#4) else quotient x.f r.1 (x.at i i)
    (acc.1 ++ [q.1], acc.2 ||| r.2 ||| q.2)) ([], 0#4)

/-- Backward substitution in falling row order, with the upper factor of the class. -/
def Fact.backward (x : Fact) (unit : Bool) (v : List Val) : List Val × Flags :=
  let u (i m : Nat) : Val := if x.cls = 0 then x.at i m else x.at m i
  (List.range x.n).reverse.foldl (fun (acc : List Val × Flags) i =>
    let r := subst x.f (v.getD i (.zero false)) ((List.range acc.1.length).map (fun k =>
      Val.mul (u i (i + 1 + k)) (acc.1.getD k (.zero false))))
    let q := if unit then (r.1, 0#4) else quotient x.f r.1 (x.at i i)
    (q.1 :: acc.1, acc.2 ||| r.2 ||| q.2)) ([], 0#4)

/-- The interchanges of LU applied to a right-hand side. -/
def Fact.permute (x : Fact) (v : List Val) : List Val :=
  ((List.range x.piv.length).zip x.piv).foldl (fun v p =>
    (v.set p.1 (v.getD p.2 (.zero false))).set p.2 (v.getD p.1 (.zero false))) v

/-- The correction solve. -/
def Fact.solve (x : Fact) (v : List Val) : List Val × Flags :=
  match x.cls with
  | 0 =>
    let y := x.forward true (x.permute v)
    let z := x.backward false y.1
    (z.1, y.2 ||| z.2)
  | 1 =>
    let y := x.forward false v
    let z := x.backward false y.1
    (z.1, y.2 ||| z.2)
  | _ =>
    let y := x.forward true v
    let d := ((List.range x.n).zip y.1).map (fun p => quotient x.f p.2 (x.at p.1 p.1))
    let z := x.backward true (d.map Prod.fst)
    (z.1, d.foldl (fun g q => g ||| q.2) (y.2 ||| z.2))

/-! ## Refinement (R164 to R166) -/

/-- A linear problem: the matrix as given and one right-hand side. -/
structure LinProblem where
  cls : Nat
  n : Nat
  a : List Val
  pair : Bool

def LinProblem.at (p : LinProblem) (i j : Nat) : Val :=
  if p.cls ≠ 0 && i < j then p.a.getD (j * p.n + i) (.zero false) else p.a.getD (i * p.n + j) (.zero false)

/-- Largest magnitude of a vector; none where an element is not finite. -/
def normOf (vs : List Val) : Option Q := if vs.all Val.isFinite then some (maxQ (magnitudes vs)) else none

/-- The residual `b - A x`: an exact sum for each row, rounded once to FP64, and under `PAIR` its remainder too. -/
def LinProblem.residual (p : LinProblem) (b hi lo : List Val) : List Val × List Val × Flags :=
  let rows := (List.range p.n).map (fun i =>
    let prods (x : List Val) : List (Val × Flags) := (List.range p.n).map (fun j =>
      let m := Val.mul (p.at i j) (x.getD j (.zero false))
      (m.1.neg, m.2))
    let s := sumExact 0 ((b.getD i (.zero false), 0#4) :: prods hi ++ (if p.pair then prods lo else []))
    let h := rne .fp64 s.1
    let l := if p.pair && h.1.isFinite then rne .fp64 (Val.add 0 s.1 h.1.neg).1 else (.zero false, 0#4)
    (h.1, l.1, s.2 ||| h.2 ||| l.2))
  (rows.map (fun r => r.1), rows.map (fun r => r.2.1), rows.foldl (fun g r => g ||| r.2.2) 0#4)

/-- The straggler passes of those sums. -/
def LinProblem.residualPasses (p : LinProblem) (b hi lo : List Val) : Nat :=
  ((List.range p.n).map (fun i =>
    let prods (x : List Val) : List (Val × Flags) := (List.range p.n).map (fun j =>
      let m := Val.mul (p.at i j) (x.getD j (.zero false))
      (m.1.neg, m.2))
    roundPasses .fp64 ((b.getD i (.zero false), 0#4) :: prods hi ++ (if p.pair then prods lo else [])))).foldl (· + ·) 0

/-- The values of a pair of vectors. -/
def pairSum (hi lo : List Val) : List Val := (hi.zip lo).map (fun x => (Val.add 0 x.1 x.2).1)

/-- A column under refinement: its iterate, its best iterate with the norm of that one's residual, the iterations run and
how it ended, the number of its iterate (0 before the first), and its first iterate. -/
structure RefCol where
  hi : List Val
  lo : List Val
  best : Option (List Val × List Val × Nat × Option Q)
  iters : Nat
  ended : Option Status
  flags : Flags
  num : Nat := 0
  first : Option (List Val × List Val) := none
  passes : Nat := 0

/-- The residual of a column's iterate has been formed: its flags and its straggler passes. -/
def RefCol.formed (c : RefCol) (p : LinProblem) (b : List Val) (fl : Flags) : RefCol :=
  { c with flags := c.flags ||| fl, passes := c.passes + p.residualPasses b c.hi c.lo }

/-- Considering an iterate for best: the least norm, the later on a tie (R165). -/
def RefCol.consider (c : RefCol) (num : Nat) (norm : Option Q) : RefCol :=
  let better := match c.best, norm with
    | none, _ => true
    | some (_, _, _, none), _ => true
    | some (_, _, _, some _), none => false
    | some (_, _, _, some m), some q => Q.le q m
  if better then { c with best := some (c.hi, c.lo, num, norm) } else c

/-- The update `x + d` rounded once, to a pair under `PAIR` (R166). -/
def addCorrection (pair : Bool) (hi lo d : List Val) : List Val × List Val × Flags :=
  let rows := ((hi.zip lo).zip d).map (fun x =>
    let s := sumExact 0 ([(x.1.1, 0#4)] ++ (if pair then [(x.1.2, 0#4)] else []) ++ [(x.2, 0#4)])
    let h := rne .fp64 s.1
    let l := if pair && h.1.isFinite then rne .fp64 (Val.add 0 s.1 h.1.neg).1 else (.zero false, 0#4)
    (h.1, l.1, s.2 ||| h.2 ||| l.2))
  (rows.map (fun r => r.1), rows.map (fun r => r.2.1), rows.foldl (fun g r => g ||| r.2.2) 0#4)

/-- `norm(d) <= ut * norm(x)` of R164 for a finite correction: it holds of an iterate with an infinity, whose norm that is. -/
def smallStep (ut nd : Q) (x : List Val) : Bool :=
  match normOf x with
  | some nx => Q.le nd (Q.mul ut nx)
  | none => !(x.any Val.isNan)

/-- The iterations of one phase for one column (R164). `base` counts the iterations of an earlier phase; `e0` is the
scaling of the factored matrix. DESIGN CHOICE (log 143): an iteration is counted as it begins, so that `ITER` counts one that ends
at its check of r or of the deadline. -/
def refineLoop (p : LinProblem) (x : Fact) (e0 : Int) (b : List Val) (passed : Nat → Bool) (base : Nat) :
    Nat → Nat → Option Q → RefCol → RefCol
  | 0, i, _, c =>
    let r := p.residual b c.hi c.lo
    { (c.formed p b r.2.2).consider (base + i - 1) (normOf (pairSum r.1 r.2.1)) with ended := some stStalled }
  | fuel + 1, i, dprev, c =>
    let r := p.residual b c.hi c.lo
    let full := pairSum r.1 r.2.1
    let norm := normOf full
    let c := { c.formed p b r.2.2 with iters := base + i }
    let c := if 1 < i then c.consider (base + i - 1) norm else c
    if 1 < i && full.all Val.isZero then { c with ended := some stOK }
    else if 1 < i && passed i then { c with ended := some stDeadlineIter }
    else
      match norm with
      | none => { c with ended := some stStalled }
      | some m =>
        let e : Int := if m.isZero then 0 else m.floorLog2
        let rhs := full.map (fun v => rne x.f (v.scale (Q.pow2 (-e))))
        let z := x.solve (rhs.map Prod.fst)
        let d := z.1.map (fun v => v.scale (Q.pow2 (e - e0)))
        let c := { c with flags := (rhs.map Prod.snd).foldl (· ||| ·) (c.flags ||| z.2) }
        let u := addCorrection p.pair c.hi c.lo d
        let c := if c.first.isNone then { c with first := some (u.1, u.2.1) } else c
        match normOf d with
        | none => { c with ended := some stStalled }
        | some nd =>
          let c := { c with hi := u.1, lo := u.2.1, flags := c.flags ||| u.2.2, num := base + i }
          let close (c : RefCol) (st : Status) : RefCol :=
            let r := p.residual b c.hi c.lo
            { (c.formed p b r.2.2).consider (base + i) (normOf (pairSum r.1 r.2.1)) with ended := some st }
          let ut := Q.pow2 (if p.pair then -104 else -53)
          if smallStep ut nd (pairSum c.hi c.lo) then close c stOK
          else if (match dprev with | none => false | some q => Q.lt q (Q.mul (Q.ofInt 2) nd)) then close c stStalled
          else refineLoop p x e0 b passed base fuel (i + 1) (some nd) c

/-- Refining a column in one phase: it starts from zero (R164), keeps its best iterate of an earlier phase (R167), and a
converged one is left as it is. -/
def refine (p : LinProblem) (x : Fact) (e0 : Int) (b : List Val) (passed : Nat → Bool) (maxit : Nat) (c : RefCol) :
    RefCol :=
  if c.ended = some stOK then c
  else
    let zero := List.replicate p.n (Val.zero false)
    refineLoop p x e0 b passed c.iters maxit 1 none { c with hi := zero, lo := zero, ended := none }

/-- A column before its first phase. -/
def freshCol (n : Nat) : RefCol :=
  let zero := List.replicate n (Val.zero false)
  { hi := zero, lo := zero, best := none, iters := 0, ended := none, flags := 0#4 }

/-- The iterate a column returns, with its number (R165): a converged one its last, another its best, and one that considered
none its first; none where the residual of the first iteration is not finite, so that no iterate was formed (log 19). -/
def RefCol.returned (c : RefCol) : Option (List Val × List Val × Nat) :=
  if c.ended = some stOK then some (c.hi, c.lo, c.num)
  else
    match c.best with
    | some b => some (b.1, b.2.1, b.2.2.1)
    | none => c.first.map (fun x => (x.1, x.2, 1))

/-! ## Statuses and registers (R177, Tables 6.11, 6.12) -/

/-- Rank of a status, 1 the highest. -/
def solverRank (st : Status) : Nat :=
  if st = stTileLost then 1
  else if st = stTranslation || st = stChecksum || st = stPoisoned then 2
  else if st = stSingular then 3
  else if st = stNonfinite then 4
  else if st = stDeadlineFactor then 5
  else if st = stStalled then 6
  else if st = stDeadlineIter then 7
  else if st = stPerturbed then 8
  else 9

/-- The highest-ranked status of a list. -/
def topStatus (sts : List Status) : Status :=
  sts.foldl (fun a b => if solverRank b < solverRank a then b else a) stOK

/-- Outcome of a solver status (Table 6.11). -/
def solverOutcome (st : Status) : ItemOutcome :=
  if st = stOK || st = stPerturbed then .done
  else if st = stStalled || st = stDeadlineIter || st = stDeadlineFactor then .donePartial
  else .failed

/-- The registers of a solver command's retirement (Table 6.15). -/
def solverRegs (st : Status) (phase iters pivots fallbacks : Nat) : List RegEff :=
  [⟨0x10, 0, 16, false, st.toNat⟩, ⟨0x10, 16, 2, false, phase⟩, ⟨0x10, 32, 16, false, iters⟩,
   ⟨0x18, 0, 48, true, pivots⟩, ⟨0x18, 48, 16, true, fallbacks⟩]

/-- The fields of `SE_STAT` among them, which every member of a cascade shows; what is counted is the master's. -/
def solverShown (rs : List RegEff) : List RegEff := rs.filter (fun r => r.off = 0x10 && !r.add)

/-- What the device writes into the record (Table 6.7). A field without a stated meaning for the command, or whose value
the spec leaves open, is a free value. -/
structure SolverRec where
  status : Status
  phase : Nat
  iters : Nat
  bestIter : Nat
  column : Option Nat
  anorm : Option Nat
  resid : Option Nat
  berr : Option Nat
  perts : Nat
  batch : Option Nat
  resume : List Byte

def SolverRec.bytes (r : SolverRec) (free : Nat → Nat) : List Byte :=
  let w (x : Option Nat) (k : Nat) : List Byte := leBytes 8 (x.getD (free k))
  leBytes 8 (r.status.toNat + r.phase % 4 * 2 ^ 16 + r.iters % 2 ^ 16 * 2 ^ 32 + r.bestIter % 2 ^ 16 * 2 ^ 48)
    ++ w r.column 0 ++ w r.anorm 1 ++ w r.resid 2 ++ w r.berr 3 ++ leBytes 8 r.perts ++ w r.batch 4 ++ zeros 24 ++ r.resume

/-! ## The commands -/

/-- What a solver command reads: its record, A and B by elements. -/
structure SolverIn where
  hdr : SolverHdr
  a : List Val
  b : List Val

/-- The elements of a square matrix that a class reads and writes, by rows: all for LU, the lower triangle otherwise (R157);
dimension 0 is the row, dimension 1 the column, as for band storage (log 19). -/
def classElems (d : Desc) (cls n : Nat) : List Nat :=
  (List.range n).flatMap (fun i => (List.range (if cls = 0 then n else i + 1)).map (fun k => d.linear i k 0 0))

/-- The values of those elements as a whole matrix by rows, the others 0. -/
def wholeMatrix (cls n : Nat) (vs : List Val) : List Val :=
  if cls = 0 then vs
  else (List.range n).flatMap (fun i =>
    (vs.drop (i * (i + 1) / 2)).take (i + 1) ++ List.replicate (n - 1 - i) (.zero false))

/-- How far a solver command came before it failed: its phase, its iterations, the pivots it perturbed, the second phases it
started, and the straggler passes of its panel updates and of its residuals. -/
structure SolverPast where
  phase : Nat
  iters : Nat
  perts : Nat
  fallbacks : Nat
  de : Nat
  ru : Nat

/-- What a solver command that met a failure from memory or from outside had come to is open within its kind's bounds: free values
(log 145); one that had not begun has come to nothing. -/
def solverPast (c : EngineCmd) (began : Bool) (free : Nat → Nat) : SolverPast :=
  let n := (c.s0.desc.map (fun d => d.extOf 0)).getD 0
  let m := (c.s1.desc.map (fun d => d.extOf 1)).getD 0
  if !began then ⟨0, 0, 0, 0, 0, 0⟩
  else
    match c.op with
    | .seFact =>
      ⟨if (c.s1.desc).any (fun d => d.format == .fp32) then 0 else 2, 0, free 30 % (n + 1), 0, free 33 % (9 * n * n * n + 1), 0⟩
    | .seSolve =>
      let phase := free 31 % (if c.w.flag 2 then 4 else 2)
      ⟨phase, if phase = 0 then 0 else free 32 % 31, free 30 % ((if 2 ≤ phase then 2 * n else n) + 1), bit (decide (2 ≤ phase)),
        free 33 % (18 * n * n * n + 1), free 34 % (9 * 32 * n * m + 1)⟩
    | .seBand =>
      let d := (c.s0.desc.map (fun d => d.extOf 1 * d.extOf 2)).getD 0
      ⟨2, 0, free 30 % (d + 1), 0, 0, 0⟩
    | _ => ⟨0, 0, 0, 0, 0, 0⟩

/-- Perturbation entries as bytes at the list's place, as many as it can hold (R158). -/
def pertWrites (h : SolverHdr) (es : List Nat) : List (Nat × Byte) :=
  atVa h.pertPtr ((es.take h.pertCap).flatMap (leBytes 8))

/-- The entries of the pivots that a failed command had perturbed: they stand in the list as free values (log 145). -/
def State.lostPerts (s : State) (t j rec_ n : Nat) (free : Nat → Nat) : State :=
  match (if n = 0 then none else (s.peekField j rec_ 0x30).bind parseHdr) with
  | none => s
  | some h =>
    if s.pertHome t j h then
      match s.writeVirt j true (pertWrites h ((List.range n).map (fun i => free (64 + i)))) with
      | .ok _ s => s
      | _ => s
    else s

/-- A failed solver command: its status, and its record where that can be written (R176); the record and `SE_STAT` agree on how far
the command came (R178), and a perturbation that occurred is visible in both (R177). -/
def State.solverFail (s : State) (t j : Nat) (c : EngineCmd) (began : Bool) (free : Nat → Nat) (st : Status) (a : Nat) :
    Stage × State :=
  let rec_ := c.s3.addrVal
  let p := solverPast c began free
  let r : SolverRec := ⟨st, p.phase, p.iters, free 35 % 2 ^ 16, none, none, none, none, p.perts, none, zeros 128⟩
  let res := { failResult st a with
    regs := solverRegs st p.phase p.iters p.perts p.fallbacks, passes := p.de, ruPasses := p.ru }
  match (s.lostPerts t j rec_ p.perts free).writeField j (rec_ + 0x30) (r.bytes free) with
  | .ok _ s => (.ready res, s)
  | .fault va w s => (.fault va w, s)
  | .fail _ _ s => (.ready res, s)

/-- The factor of an `SE_FACT` that failed is undefined (R176): each element that its class writes holds a free value. -/
def State.loseFactor (s : State) (j : Nat) (c : EngineCmd) : State :=
  match (if c.op == .seFact then c.s1.desc else none) with
  | none => s
  | some df =>
    let es := classElems df (c.w.flags.toNat % 4) (df.extOf 0)
    let outs : List OutElem := ((List.range es.length).zip es).map (fun e =>
      ⟨e.2, some ((Config.freeWord (s.fresh + e.1)).toNat % 2 ^ df.format.bits), 0#4⟩)
    match ({ s with fresh := s.fresh + es.length }).putDest j df outs [] [] true none with
    | .ok _ s => s
    | _ => s

/-- A solver command that fails from outside its own work, with `TRANSLATION` or `TILE_LOST` (R176): the factor of an
`SE_FACT` undefined, and the record written with its status where it can be. -/
def State.solverAbort (s : State) (t j : Nat) (c : EngineCmd) (began : Bool) (st : Status) (a : Nat) : CmdResult × State :=
  let free (k : Nat) : Nat := (Config.freeWord (s.fresh + k)).toNat
  let p := solverPast c began free
  let (stage, s1) := (s.draws (64 + p.perts)).solverFail t j c began free st a
  let res := match stage with
    | .ready r => r
    | _ => { failResult st a with
        regs := solverRegs st p.phase p.iters p.perts p.fallbacks, passes := p.de, ruPasses := p.ru }
  (res, s1.loseFactor j c)

/-- The values of elements that a command needs all of. -/
def State.readAll (s : State) (j : Nat) (x : Option (Desc × List Nat)) : Access (List Val) :=
  match x with
  | none => .ok [] s
  | some (d, idx) =>
    (s.readVals j d idx).bind fun r s =>
      match r.err with
      | some (st, ad) => .fail st ad s
      | none => .ok (r.vals.filterMap id) s

/-- Where the record says that a command may not go on: a bad record, a perturbation list outside the tile's own store, or, for a
command that has one, a workspace outside its memory (R155, R158) or misaligned; the status and the address. A resumed command has
no `ALIGNMENT` (Table 6.10). -/
def State.hdrBad (s : State) (t j : Nat) (c : EngineCmd) (resumed : Bool) (work : Nat) (h : Option SolverHdr) : Option (Status × Nat) :=
  match h with
  | none => some (stDescBad, c.s3.addrVal)
  | some h =>
    if !(s.pertHome t j h) then some (stDescBad, h.pertPtr)
    else if work ≠ 0 && !(s.runHome t j (seCasc c) h.workPtr work) then some (stDescBad, h.workPtr)
    else if work ≠ 0 && h.workPtr % 64 ≠ 0 then some (if resumed then stDescBad else stAlignment, h.workPtr)
    else none

/-- What the start of a solver command comes to. -/
inductive SolverStart where
  | bad (st : Status) (a : Nat)
  | lost (began : Bool) (st : Status) (a : Nat)
  | input (i : SolverIn)

/-- Reading the record, which is tested before anything else is read (R158), then A and B. Nothing is written yet, so a page that a
fault can resolve restarts the command. A failure says whether the command had begun its work. -/
def State.solverRead (s : State) (t j : Nat) (c : EngineCmd) (resumed : Bool) (work : Nat) (a b : Option (Desc × List Nat)) :
    Access SolverStart :=
  match s.readField j c.s3.addrVal 0x30 with
  | .fault va w s => .fault va w s
  | .fail st ad s => .ok (.lost false st ad) s
  | .ok hb s =>
    match s.hdrBad t j c resumed work (parseHdr hb), parseHdr hb with
    | some (st, ad), _ => .ok (.bad st ad) s
    | none, none => .ok (.bad stDescBad c.s3.addrVal) s
    | none, some h =>
      match (s.readAll j a).bind fun va s => (s.readAll j b).bind fun vb s => .ok (SolverIn.mk h va vb) s with
      | .ok i s => .ok (.input i) s
      | .fault va w s => .fault va w s
      | .fail st ad s => .ok (.lost true st ad) s

/-- The elements of a factor that a class writes: all for LU, the lower triangle otherwise (R157). After a singular
column the elements from it on have no defined meaning: free values (R163). -/
def factorOuts (d : Desc) (x : Fact) (free : Nat → Nat) : List OutElem :=
  let undefinedFrom := match x.stop with
    | some (st, j) => if st = stSingular then j else x.n
    | none => x.n
  (List.range x.n).flatMap (fun i => ((List.range x.n).filter (fun k => x.cls = 0 || decide (k ≤ i))).map (fun k =>
    ⟨d.linear i k 0 0, some (if undefinedFrom ≤ k then free (64 + i * x.n + k) % 2 ^ x.f.bits else bitsIn x.f (x.at i k)), 0#4⟩))

/-- The pivot vector's elements: the pivots found, and free values after a singular column. -/
def pivotOuts (d : Desc) (x : Fact) (free : Nat → Nat) : List OutElem :=
  (List.range (if x.stop.isSome then x.n else x.piv.length)).map (fun i =>
    ⟨d.linear i 0 0 0, some ((x.piv[i]?).getD (free (64 + x.n * x.n + i) % 2 ^ 32)), 0#4⟩)

/-- Free contents of the workspace: the engine owns it and the spec gives its bytes no meaning (R159). -/
def workWrites (h : SolverHdr) (n : Nat) (fresh : Nat) : List (Nat × Byte) :=
  atVa h.workPtr ((List.range n).map (Config.freeByte fresh))

/-- The deadline is seen passed at check k of a part of a command's work (0 the first factorisation, 1 its refinement, 2 and 3
those of the second phase) for a column: always where it had passed as the command started, never where it has not
passed as the command retires. Otherwise it is open at which check it passes: free values choose the part and the check in
it, so that every later part sees it passed (log 19). -/
def State.deadlineSeen (s : State) (c : EngineCmd) (part col k : Nat) : Bool :=
  let free (i : Nat) : Nat := (Config.freeWord (s.fresh + i)).toNat
  c.w.dsel ≠ 0#8 &&
    (decide (c.deadline.toNat ≤ c.began.toNat)
      || (decide (c.deadline.toNat ≤ s.now.toNat)
        && (decide (free 64 % 5 < part) || (decide (free 64 % 5 = part) && decide (free (65 + col) ≤ k)))))

/-- Writing what a command gives, its record last; the first failure becomes its status (R176), and such a command commits no
flag (DESIGN CHOICE, log 128). `de` and `ru` are the straggler passes of its panel updates, which run on the DE, and of its
residuals, which run on the RU (Table 4.1; DEDUCED, log 145). -/
def State.solverFinish (s : State) (j rec_ : Nat) (dests : List (Desc × List OutElem × List (Nat × Byte)))
    (r : SolverRec) (fl : Flags) (de ru : Nat) (regs : Status → List RegEff) : Access Stage :=
  let vas := dests.flatMap (fun d => d.2.1.map (fun o => d.1.addr o.e) ++ d.2.2.map Prod.fst) ++ vaRange (rec_ + 0x30) 208
  (s.probe j true (pagesOf vas)).bind fun _ s =>
    let rec go : List (Desc × List OutElem × List (Nat × Byte)) → State → Access ReadErr
      | [], s => .ok none s
      | (d, os, xs) :: ds, s =>
        (s.putDest j d os [] xs false none).bind fun w s =>
          match w.err with
          | some e => .ok (some e) s
          | none => go ds s
    (go dests s).bind fun e s =>
      let free (k : Nat) : Nat := (Config.freeWord (s.fresh + 33 + k)).toNat
      let st := match e with | some (st, _) => st | none => r.status
      match s.writeField j (rec_ + 0x30) ({ r with status := st }.bytes free) with
      | .ok _ s =>
        let res := match e with
          | some (st, a) => { failResult st a with regs := regs st }
          | none => { okResult with outcome := solverOutcome st, status := st, flags := fl, regs := regs st }
        .ok (.ready { res with passes := de, ruPasses := ru }) s
      | .fault va w s => .fault va w s
      | .fail st a s => .ok (.ready { failResult st a with regs := regs st, passes := de, ruPasses := ru }) s

/-- 128 free bytes of saved state, closed by a CRC-64 of their own (R170). -/
def resumeBytes (fresh : Nat) : List Byte :=
  let b := (List.range 120).map (Config.freeByte fresh)
  b ++ leBytes 8 (crc64 b)

/-- A working matrix as bits. -/
def Fact.bitsList (x : Fact) : List (BitVec 64) := x.a.map (fun v => BitVec.ofNat 64 (bitsIn x.f v))

/-- A column as it is kept between phases. -/
def RefCol.save (c : RefCol) : SolverCol :=
  let f (vs : List Val) : List (BitVec 64) := vs.map (fun v => BitVec.ofNat 64 (bitsIn .fp64 v))
  let first := match c.first with
    | some (h, l) => (f h, f l)
    | none => ([], [])
  match c.best with
  | some (h, l, k, _) => ⟨f c.hi, f c.lo, f h, f l, k, c.iters, c.ended = some stOK, c.num, first.1, first.2⟩
  | none => ⟨f c.hi, f c.lo, [], [], 0, c.iters, c.ended = some stOK, c.num, first.1, first.2⟩

/-- A column taken up again; the norm of its best iterate's residual is formed anew. -/
def SolverCol.load (p : LinProblem) (b : List Val) (c : SolverCol) : RefCol :=
  let f (vs : List (BitVec 64)) : List Val := vs.map (fun v => decodeElem .fp64 v.toNat)
  let best := if c.bestIter = 0 then none
    else
      let r := p.residual b (f c.bestHi) (f c.bestLo)
      some (f c.bestHi, f c.bestLo, c.bestIter, normOf (pairSum r.1 r.2.1))
  { hi := f c.hi, lo := f c.lo, best := best, iters := c.iters, ended := if c.converged then some stOK else none, flags := 0#4
    num := c.num, first := if c.firstHi.isEmpty then none else some (f c.firstHi, f c.firstLo) }

/-- A stop is kept beside those that the tile holds already (log 120). -/
def State.keepSave (s : State) (t : Nat) (sv : SolverSave) : State :=
  s.modTile t (fun x => { x with solver := x.solver ++ [sv] })

/-- A save that is resumed, or whose resumption failed, is gone (R170). -/
def State.dropSave (s : State) (t : Nat) (sv : SolverSave) : State :=
  s.modTile t (fun x => { x with solver := x.solver.erase sv })

/-- The bytes that a stop left in its workspace. -/
def SolverSave.workBytes (sv : SolverSave) : List Byte := (List.range sv.work.2).map (Config.freeByte sv.work.1)

/-- A save whose workspace was written since (R159): the command goes on with what stands there, of which the spec gives no
layout, so that the working matrix and the columns hold free values (log 19). -/
def SolverSave.altered (sv : SolverSave) (fresh : Nat) : SolverSave :=
  let n := sv.mat.length
  let f (k : Nat) (vs : List (BitVec 64)) : List (BitVec 64) :=
    (List.range vs.length).map (fun i => Config.freeWord (fresh + n + 6 * i + k))
  { sv with
    mat := (List.range n).map (fun i => Config.freeWord (fresh + i))
    cols := ((List.range sv.cols.length).zip sv.cols).map (fun x =>
      let b := 6 * n * x.1
      { x.2 with
        hi := f b x.2.hi, lo := f (b + 1) x.2.lo, bestHi := f (b + 2) x.2.bestHi, bestLo := f (b + 3) x.2.bestLo
        firstHi := f (b + 4) x.2.firstHi, firstLo := f (b + 5) x.2.firstLo }) }

/-- The factor format's bits of a save as a factorisation in progress. -/
def SolverSave.fact (sv : SolverSave) (f : Fmt) (cls n : Nat) : Fact :=
  ⟨f, cls, n, sv.mat.map (fun b => decodeElem f b.toNat), sv.piv, decodeElem f sv.theta.toNat, [], sv.ovf, none, 0#4, 0⟩

/-- ANORM of the record: exact, free where a NaN stands in the matrix. -/
def anormBits (cls n : Nat) (a : List Val) : Option Nat := (maxAbs (usedElems cls n a)).map (bitsIn .fp64)

/-- A record of a stop by status and column alone, as a failure of the matrix itself writes it (R160). -/
def nonfiniteRecord (phase : Nat) (col : Nat) (anorm : Option Nat) : SolverRec :=
  ⟨stNonfinite, phase, 0, 0, some col, anorm, none, none, 0, none, zeros 128⟩

/-- The matrix of a command that begins: its record and A as its class reads it. One that is resumed goes on from its save,
and an `SE_FACT` from the factor that stands in memory (R159). -/
def factSource (da df : Desc) (cls n : Nat) (resumed : Bool) : Desc × List Nat :=
  let d := if resumed then df else da
  (d, classElems d cls n)

/-- `SE_FACT`, or its continuation from a save. DESIGN CHOICE (log 143): where no stopped state is saved, `RESUME` is written as
zeros. -/
def State.seFactWork (s : State) (t j : Nat) (c : EngineCmd) (sv : Option SolverSave) : Stage × State :=
  let rec_ := c.s3.addrVal
  let freeAt (s : State) (k : Nat) : Nat := (Config.freeWord (s.fresh + 128 + k)).toNat
  match c.s0.desc, c.s1.desc with
  | some da, some df =>
    let n := da.extOf 0
    let cls := c.w.flags.toNat % 4
    let after (s : State) : State := { s with fresh := s.fresh + 256 + (n + 2) * n }
    let fail (s : State) (began : Bool) (st : Status) (a : Nat) : Stage × State :=
      let (stage, s) := s.solverFail t j c began (freeAt s) st a
      (stage, (after s).loseFactor j c)
    match s.solverRead t j c sv.isSome 0 (some (factSource da df cls n sv.isSome)) none with
    | .fault va w s => (.fault va w, s)
    | .fail st a s => fail s false st a
    | .ok (.lost began st a) s => fail s began st a
    | .ok (.bad st a) s => (.ready (failResult st a), s)
    | .ok (.input i) s =>
        let f := df.format
        let free := freeAt s
        let phase := if f = .fp32 then 0 else 2
        let m := wholeMatrix cls n i.a
        let anorm := match sv with | some v => some v.anorm.toNat | none => anormBits cls n m
        match (if sv.isNone then nonfiniteColumn cls n m else none) with
        | some col =>
          let r := Access.stage (s.solverFinish j rec_ [] (nonfiniteRecord phase col anorm) 0#4 0 0 (fun st => solverRegs st phase 0 0 0))
          (r.1, after r.2)
        | none =>
          let start := match sv with
            | some v => ({ (v.fact f cls n) with a := m }, v.scale)
            | none => startFact f cls n i.hdr.tau (da.format = Fmt.fp64 && f = Fmt.fp32) m
          let k0 := (sv.map SolverSave.next).getD 0
          let old := (sv.map SolverSave.pert).getD []
          let (x, stop) := Fact.run (fun k => free (64 + (n + 1) * n + k)) (s.deadlineSeen c 0 0) start.1 k0 (start.1.steps.drop k0)
          let perts := old ++ x.pert
          let st := match x.stop, stop with
            | some (st, _), _ => st
            | none, some _ => stDeadlineFactor
            | none, none => if perts.isEmpty then stOK else stPerturbed
          let res := if st = stDeadlineFactor then resumeBytes s.fresh else zeros 128
          let dests := (df, factorOuts df x free, pertWrites i.hdr perts) ::
            (match c.s2.desc with | some dp => [(dp, pivotOuts dp x free, [])] | none => [])
          let regs (st : Status) : List RegEff := solverRegs st phase 0 x.pert.length 0
          let rc : SolverRec := ⟨st, phase, 0, 0, some (x.lastStep stop), anorm, none, none, perts.length, none, res⟩
          match s.solverFinish j rec_ dests rc x.flags x.passes 0 regs with
          | .ok stage s =>
            let failed : Bool := match stage with | .ready r => decide (solverRank r.status = 2) | _ => false
            let s := match stop with
              | some k =>
                if st = stDeadlineFactor && !failed then
                  s.keepSave t ⟨c, j, rec_, res, false, k, [], x.piv, BitVec.ofNat 64 (bitsIn f x.theta), start.2,
                    x.ovf, perts, [], 0, BitVec.ofNat 64 (anorm.getD 0), (0, 0)⟩
                else s
              | none => s
            (stage, if failed then (after s).loseFactor j c else after s)
          | .fault va w s => (.fault va w, s)
          | .fail st a s => fail s true st a
  | _, _ => (.ready (failResult stDescBad rec_), s)

/-- Best numbers of all columns where they agree. -/
def agreed (ks : List Nat) : Option Nat :=
  match ks with
  | [] => none
  | k :: rest => if rest.all (· = k) then some k else none

/-- The largest of the norms of returned residuals, and of the backward errors, rounded toward +∞ (Table 6.7). These roundings
raise no flag of the command (DESIGN CHOICE, log 127). -/
def recordNorms (p : LinProblem) (bs : List (List Val)) (outs : List (Option (List Val × List Val × Nat))) :
    Option Nat × Option Nat :=
  let rows := (List.range p.n).map (fun i => (List.range p.n).map (fun k => p.at i k))
  let anorm : Option Q :=
    if p.a.all Val.isFinite then some (maxQ (rows.map (fun r => (magnitudes r).foldl Q.add Q.zero))) else none
  let per := (bs.zip outs).map (fun x =>
    match x.2 with
    | none => none
    | some (hi, lo, _) =>
      let r := p.residual x.1 hi lo
      match normOf (pairSum r.1 r.2.1), anorm, normOf (pairSum hi lo), normOf x.1 with
      | some nr, some na, some nx, some nb =>
        let den := Q.add (Q.mul na nx) nb
        some (nr, if den.isZero then none else some (Q.div nr den))
      | _, _, _, _ => none)
  let up (q : Q) : Nat := (narrow .fp64 (Val.ofQ q false) ⟨2, false, 0⟩).bits
  if per.any Option.isNone then (none, none)
  else
    let ps := per.filterMap id
    (some (up (maxQ (ps.map Prod.fst))),
      if ps.any (fun x => x.2.isNone) then none else some (up (maxQ (ps.filterMap Prod.snd))))

/-- How far an `SE_SOLVE` came. -/
structure SolveRun where
  cols : List RefCol
  perts : List Nat
  newPerts : Nat
  fallbacks : Nat
  flags : Flags
  phase : Nat
  ended : Status
  column : Option Nat
  save : Option (Bool × Nat × Fact × Int)
  de : Nat

/-- The straggler passes of a run's residuals. -/
def SolveRun.ru (r : SolveRun) : Nat := (r.cols.map RefCol.passes).foldl (· + ·) 0

/-- Refinement of every column in one phase. -/
def refineAll (p : LinProblem) (x : Fact) (e0 : Int) (bs : List (List Val)) (passed : Nat → Nat → Bool) (maxit : Nat)
    (cs : List RefCol) : List RefCol :=
  ((List.range cs.length).zip (bs.zip cs)).map (fun y => refine p x e0 y.2.1 (passed y.1) maxit y.2.2)

/-- The status of refined columns. -/
def refinedStatus (cs : List RefCol) (perturbed : Bool) : Status :=
  topStatus ((if perturbed then [stPerturbed] else []) ++ cs.filterMap RefCol.ended)

/-- The perturbation entries of a factorisation: column and phase (R158). -/
def pertEntries (second : Bool) (cols : List Nat) : List Nat := cols.map (fun k => k % 2 ^ 32 + bit second * 2 ^ 63)

/-- The second phase (R167), from panel step k. `passed` says by part, column and check whether the deadline is seen. -/
def secondPhase (p : LinProblem) (bs : List (List Val)) (free : Nat → Nat) (maxit : Nat) (passed : Nat → Nat → Nat → Bool)
    (x0 : Fact) (k : Nat) (old : List Nat) (newBefore fallbacks : Nat) (fl : Flags) (de : Nat) (cs : List RefCol) : SolveRun :=
  let (x, stop) := Fact.run (fun j => free (p.n + j)) (passed 2 0) x0 k (x0.steps.drop k)
  let perts := old ++ pertEntries true x.pert
  let fl := fl ||| x.flags
  let run (cs : List RefCol) (phase : Nat) (st : Status) (sv : Option (Bool × Nat × Fact × Int)) : SolveRun :=
    ⟨cs, perts, newBefore + x.pert.length, fallbacks, cs.foldl (fun g c => g ||| c.flags) fl, phase, st,
      some (x.lastStep stop), sv, de + x.passes⟩
  match x.stop, stop with
  | some (st, _), _ => run cs 2 st none
  | none, some k => run cs 2 stDeadlineFactor (some (true, k, x, 0))
  | none, none =>
    let cs := refineAll p x 0 bs (passed 3) maxit cs
    run cs 3 (refinedStatus cs (0 < perts.length)) none

/-- The first phase, and the second where R167 starts it: not after a column that its deadline ended, which ends the command
(R169). -/
def firstPhase (p : LinProblem) (bs : List (List Val)) (free : Nat → Nat) (maxit tau : Nat) (fallback : Bool)
    (passed : Nat → Nat → Nat → Bool) (x0 : Fact) (e0 : Int) (k : Nat) (old : List Nat) (cs : List RefCol) : SolveRun :=
  let (x, stop) := Fact.run free (passed 0 0) x0 k (x0.steps.drop k)
  let perts := old ++ pertEntries false x.pert
  let again (fl : Flags) (cs : List RefCol) : SolveRun :=
    secondPhase p bs free maxit passed (startFact .fp64 p.cls p.n tau false p.a).1 0 perts x.pert.length 1 fl x.passes cs
  let run (cs : List RefCol) (phase : Nat) (st : Status) (sv : Option (Bool × Nat × Fact × Int)) : SolveRun :=
    ⟨cs, perts, x.pert.length, 0, cs.foldl (fun g c => g ||| c.flags) x.flags, phase, st, some (x.lastStep stop), sv, x.passes⟩
  match x.stop, stop with
  | some (st, _), _ => if fallback then again x.flags cs else run cs 0 st none
  | none, some k => run cs 0 stDeadlineFactor (some (false, k, x, e0))
  | none, none =>
    let cs := refineAll p x e0 bs (passed 1) maxit cs
    if fallback && cs.any (fun c => c.ended = some stStalled) && !(cs.any (fun c => c.ended = some stDeadlineIter)) then
      again x.flags cs
    else run cs 1 (refinedStatus cs (0 < perts.length)) none

/-- The elements of X, or of its low parts, that a run returns; a column with none considered holds free values. -/
def solveOuts (d : Desc) (n : Nat) (free : Nat → Nat) (low : Bool) (outs : List (Option (List Val × List Val × Nat))) :
    List OutElem :=
  ((List.range outs.length).zip outs).flatMap (fun y =>
    (List.range n).map (fun i =>
      let v := match y.2 with
        | some (hi, lo, _) => bitsIn .fp64 ((if low then lo else hi).getD i (.zero false))
        | none => free (64 + y.1 * n + i)
      ⟨d.linear i y.1 0 0, some v, 0#4⟩))

/-- The save that a resumed `SE_SOLVE` goes on from, its workspace read back (R159). -/
def State.readSave (s : State) (j : Nat) (h : SolverHdr) (sv : Option SolverSave) : Access (Option SolverSave) :=
  match sv with
  | none => .ok none s
  | some v =>
    (s.readField j h.workPtr v.work.2).bind fun bs s =>
      .ok (some (if bs = v.workBytes then v else v.altered (s.fresh + 256 + v.cols.length))) s

/-- `SE_SOLVE`, or its continuation from a save. -/
def State.seSolveWork (s : State) (t j : Nat) (c : EngineCmd) (sv : Option SolverSave) : Stage × State :=
  let rec_ := c.s3.addrVal
  match c.s0.desc, c.s1.desc, c.s2.desc with
  | some da, some db, some dx =>
    let n := da.extOf 0
    let m := db.extOf 1
    let cls := c.w.flags.toNat % 4
    let freeAt (s : State) (k : Nat) : Nat := (Config.freeWord (s.fresh + 256 + m + (n + 6 * m) * n + k)).toNat
    let after (s : State) : State := { s with fresh := s.fresh + 512 + m + (n + 7 * m + 2) * n }
    let work := workBytes c n m
    let fail (s : State) (began : Bool) (st : Status) (a : Nat) : Stage × State :=
      let (stage, s) := s.solverFail t j c began (freeAt s) st a
      (stage, after s)
    match s.solverRead t j c sv.isSome work (some (da, classElems da cls n))
        (some (db, (List.range m).flatMap (fun k => (List.range n).map (fun i => db.linear i k 0 0)))) with
    | .fault va w s => (.fault va w, s)
    | .fail st a s => fail s false st a
    | .ok (.lost began st a) s => fail s began st a
    | .ok (.bad st a) s => (.ready (failResult st a), s)
    | .ok (.input i) s =>
        let p : LinProblem := ⟨cls, n, wholeMatrix cls n i.a, c.w.flag 3⟩
        let bs := chunksOf n m i.b
        let anorm := match sv with | some v => some v.anorm.toNat | none => anormBits cls n p.a
        match (if sv.isNone then nonfiniteColumn cls n p.a else none) with
        | some col =>
          let r := Access.stage (s.solverFinish j rec_ [] (nonfiniteRecord 0 col anorm) 0#4 0 0 (fun st => solverRegs st 0 0 0 0))
          (r.1, after r.2)
        | none =>
        match s.readSave j i.hdr sv with
        | .fault va w s => (.fault va w, s)
        | .fail st a s => fail s true st a
        | .ok sv s =>
          let passed := s.deadlineSeen c
          let free := freeAt s
          let pivots (k : Nat) : Nat := free (64 + m * n + k)
          let run : SolveRun := match sv with
            | some v =>
              let cs := (v.cols.zip bs).map (fun y => y.1.load p y.2)
              if v.second then
                secondPhase p bs pivots i.hdr.maxit passed (v.fact .fp64 cls n) v.next v.pert 0 0 0#4 0 cs
              else
                firstPhase p bs pivots i.hdr.maxit i.hdr.tau (c.w.flag 2) passed (v.fact .fp32 cls n) v.scale v.next v.pert cs
            | none =>
              let x := startFact .fp32 cls n i.hdr.tau true p.a
              firstPhase p bs pivots i.hdr.maxit i.hdr.tau (c.w.flag 2) passed x.1 x.2 0 [] (bs.map (fun _ => freshCol n))
          let outs := run.cols.map RefCol.returned
          let failed := run.ended = stSingular || run.ended = stNonfinite
          -- X stays untouched after a failure, and after a stop before any iterate (R168, R176)
          let keeps := failed || (run.save.isSome && outs.all Option.isNone)
          let xlo : Desc := { dx with base := i.hdr.xloPtr }
          let xs := if keeps then [] else solveOuts dx n free false outs
          let los := if keeps || !p.pair then []
            else s.elemWrites j xlo (solveOuts xlo n free true outs)
          let norms := if keeps then (none, none) else recordNorms p bs outs
          let iters := (run.cols.map RefCol.iters).foldl max 0
          let best := (agreed (outs.map (fun o => match o with | some (_, _, k) => k | none => 0))).getD (free 33 % 2 ^ 16)
          let res := if run.save.isSome then resumeBytes s.fresh else zeros 128
          let regs (st : Status) : List RegEff := solverRegs st run.phase iters run.newPerts run.fallbacks
          let ws := los ++ pertWrites i.hdr run.perts ++ workWrites i.hdr work (s.fresh + 1)
          match s.solverFinish j rec_ [(dx, xs, ws)]
              ⟨run.ended, run.phase, iters, best, run.column, anorm, norms.1, norms.2, run.perts.length,
                none, res⟩ run.flags run.de run.ru regs with
          | .ok stage s' =>
            let failed : Bool := match stage with | .ready r => decide (solverRank r.status = 2) | _ => false
            let s' := match (if failed then none else run.save) with
              | some (second, k, x, e0) =>
                s'.keepSave t ⟨c, j, rec_, res, second, k, x.bitsList, x.piv, BitVec.ofNat 64 (bitsIn x.f x.theta), e0, x.ovf,
                  run.perts, run.cols.map RefCol.save, iters, BitVec.ofNat 64 (anorm.getD 0), (s.fresh + 1, work)⟩
              | none => s'
            (stage, after s')
          | .fault va w s => (.fault va w, s)
          | .fail st a s => fail s true st a
  | _, _, _ => (.ready (failResult stDescBad rec_), s)

/-- A save takes up a command that names it (R170): the job context is the same, and for a cascade the mask and the id. -/
def SolverSave.fits (sv : SolverSave) (j : Nat) (c : EngineCmd) : Bool :=
  sv.job = j && (!(seCasc sv.cmd) ||
    (fieldOf (c.sreg.getD (sv.cmd.w.imm 12 4) 0#64) 0 36 = fieldOf (cascReg sv.cmd) 0 36))

/-- The stopped command as `SE_RESUME` goes on with it: its operands, flags and class, with the new record and deadline. -/
def SolverSave.resumed (sv : SolverSave) (c : EngineCmd) : EngineCmd :=
  { sv.cmd with
    w := { sv.cmd.w with dsel := c.w.dsel, tag := c.w.tag }
    s3 := c.s3, sreg := c.sreg, deadline := c.deadline, ordinal := c.ordinal, addr := c.addr, step := c.step
    issued := c.issued, began := c.began, id := c.id, staging := c.staging }

/-- `SE_RESUME` (R170): the state that the record's `RESUME` holds, one of this tile's that has not been resumed. Its bytes
are known by the draw they came from; a state moved to another record is still one. -/
def State.resumeBy (s : State) (t j : Nat) (c : EngineCmd) (bytes : Option (List Byte)) : Option (EngineCmd × SolverSave) :=
  let fit := (s.tile t).solver.filter (fun v => v.fits j c && (match bytes with | some b => v.resume = b | none => true))
  let here := fit.find? (fun v => v.recVa = c.s3.addrVal)
  let found := match here, bytes with
    | some v, _ => some v
    | none, some _ => fit.head?
    | none, none => none
  found.map (fun v => (v.resumed c, v))

/-- The same, by what memory shows in the record now. -/
def State.resumeOf (s : State) (t j : Nat) (c : EngineCmd) : Option (EngineCmd × SolverSave) :=
  s.resumeBy t j c (s.peekField j (c.s3.addrVal + 0x80) 128)

def State.seResumeWork (s : State) (t j : Nat) (c : EngineCmd) : Stage × State :=
  match s.readField j (c.s3.addrVal + 0x80) 128 with
  | .fault va w s => (.fault va w, s)
  | .fail st a s => (.ready (failResult st a), s)
  | .ok bs s =>
    match s.resumeBy t j c (some bs) with
    | none => (.ready (failResult stDescBad (c.s3.addrVal + 0x80)), s)
    | some (c', sv) =>
      let s' := s.dropSave t sv
      let r := if c'.op = .seSolve then s'.seSolveWork t j c' (some sv) else s'.seFactWork t j c' (some sv)
      match r.1 with
      | .fault va w => (.fault va w, s)
      | _ => r

/-! ## Banded systems (R171 to R173) -/

/-- A banded system in progress: band elements by (row, column), right-hand sides by (row, side). -/
structure Band where
  kl : Nat
  ku : Nat
  n : Nat
  m : Nat
  piv : Bool
  theta : Val
  a : SMap (Option Val)
  b : SMap (Option Val)
  pert : List Nat
  stop : Option (Status × Nat)
  flags : Flags

def Band.at (x : Band) (i k : Nat) : Val := (SMap.get none x.a (i * x.n + k)).getD (.zero false)
def Band.rhs (x : Band) (i r : Nat) : Val := (SMap.get none x.b (i * x.m + r)).getD (.zero false)
def Band.put (x : Band) (i k : Nat) (v : Val × Flags) : Band :=
  { x with a := SMap.put x.a (i * x.n + k) (some v.1), flags := x.flags ||| v.2 }
def Band.putRhs (x : Band) (i r : Nat) (v : Val × Flags) : Band :=
  { x with b := SMap.put x.b (i * x.m + r) (some v.1), flags := x.flags ||| v.2 }

/-- Last column that a row of the elimination can reach. -/
def Band.reach (x : Band) (j : Nat) : Nat := min (x.n - 1) (j + x.ku + (if x.piv then x.kl else 0))
/-- The integers from a to b. -/
def fromTo (a b : Nat) : List Nat := (List.range (b + 1 - a)).map (fun i => a + i)

/-- Exchange of two rows over some columns and the right-hand sides. -/
def Band.swap (x : Band) (i p j : Nat) : Band :=
  if i = p then x
  else
    let y := (fromTo j (x.reach j)).foldl (fun y k => (y.put i k (x.at p k, 0#4)).put p k (x.at i k, 0#4)) x
    (List.range x.m).foldl (fun y r => (y.putRhs i r (x.rhs p r, 0#4)).putRhs p r (x.rhs i r, 0#4)) y

/-- One column of the elimination: the pivot rule of R161 under `PIV`, the LDLᵀ rule of R162 otherwise. DESIGN CHOICE (log 144): an
elimination step is a product and its subtraction rounded once together, a back substitution an exact sum rounded once; Table 4.1
lists neither, and they take no straggler pass. -/
def Band.column (free : Nat → Nat) (x : Band) (j : Nat) : Band :=
  if x.stop.isSome then x
  else
    let rows := fromTo (j + 1) (min (x.n - 1) (j + x.kl))
    if (x.at j j).isZero && rows.all (fun i => (x.at i j).isZero) then { x with stop := some (stSingular, j) }
    else
      let y :=
        if x.piv then
          let cand := j :: rows
          let p := if cand.any (fun i => (x.at i j).isNan) then cand.getD (free j % cand.length) j
            else cand.foldl (fun p i => if Val.lt (x.at p j).abs (x.at i j).abs then i else p) j
          x.swap j p j
        else x
      let d := y.at j j
      let y := if Val.lt d.abs y.theta then
          { y.put j j (if d.isNeg && !d.isZero then y.theta.neg else y.theta, 0#4) with pert := y.pert ++ [j] }
        else y
      rows.foldl (fun z i =>
        if z.stop.isSome then z
        else
          let q := quotient .fp64 (z.at i j) (z.at j j)
          if q.1.isInf then { z with stop := some (stNonfinite, j), flags := z.flags ||| q.2 }
          else
            let z := z.put i j q
            let z := (fromTo (j + 1) (z.reach j)).foldl (fun z k =>
              z.put i k (subst .fp64 (z.at i k) [Val.mul q.1 (z.at j k)])) z
            (List.range z.m).foldl (fun z r =>
              z.putRhs i r (subst .fp64 (z.rhs i r) [Val.mul q.1 (z.rhs j r)])) z) y

/-- Back substitution. -/
def Band.back (x : Band) : Band :=
  (List.range x.n).reverse.foldl (fun z i =>
    (List.range z.m).foldl (fun z r =>
      let s := subst .fp64 (z.rhs i r) ((fromTo (i + 1) (z.reach i)).map (fun k => Val.mul (z.at i k) (z.rhs k r)))
      let q := quotient .fp64 s.1 (z.at i i)
      z.putRhs i r (q.1, s.2 ||| q.2)) z) x

/-- Thomas or plain elimination, not cyclic reduction (R172). -/
def direct (kl ku : Nat) (piv : Bool) (n batch : Nat) : Bool :=
  !(kl = 1 && ku = 1 && !piv) || decide (n < 128) || decide (64 ≤ batch)

/-- What a system gives: X's elements by (row, side), its status, its column, its perturbed rows, its flags. -/
structure SystemOut where
  x : List Nat
  status : Status
  column : Nat
  pert : List Nat
  flags : Flags

/-- The cells of a band inside its matrix, by rows: those that hold elements aᵢₖ (R171). -/
def bandCells (kl ku n : Nat) : List (Nat × Nat) :=
  (List.range n).flatMap (fun i => (fromTo (i - kl) (min (n - 1) (i + ku))).map (fun k => (i, k)))

/-! ### Cyclic reduction

R172 names the method and not its operations. PRESUMED (log 19): the usual form, which eliminates the equations in even
places of the list from their neighbours in odd places, and goes on with these. Every quotient, every product of one and
every new element is rounded once, a sum as the residuals are; each diagonal is treated by R162 before it divides. -/

/-- An equation `a x₋ + d x + c x₊ = b` of a reduced system: its row, its elements, its right-hand sides. -/
structure TriRow where
  row : Nat
  a : Val
  d : Val
  c : Val
  b : List Val

/-- A cyclic reduction in progress. -/
structure Cyclic where
  theta : Val
  pert : List Nat
  stop : Option (Status × Nat)
  flags : Flags

/-- A value found on the way, and the flags of finding it. -/
def Cyclic.took (y : Cyclic) (fl : Flags) : Cyclic := { y with flags := y.flags ||| fl }

/-- The diagonal of an equation that is to divide, by R162; `near` are the other elements of its column. -/
def Cyclic.diagonal (y : Cyclic) (r : TriRow) (near : List Val) : Cyclic × TriRow :=
  if y.stop.isSome then (y, r)
  else if r.d.isZero && near.all Val.isZero then ({ y with stop := some (stSingular, r.row) }, r)
  else if Val.lt r.d.abs y.theta then
    ({ y with pert := y.pert ++ [r.row] }, { r with d := if r.d.isNeg && !r.d.isZero then y.theta.neg else y.theta })
  else (y, r)

/-- The diagonals of the equations in even places. -/
def Cyclic.treat : Cyclic → Option TriRow → List TriRow → Cyclic × List TriRow
  | y, before, p :: q :: rest =>
    let (y, p') := y.diagonal p (((before.map TriRow.c).toList) ++ [q.a])
    let (y, l) := Cyclic.treat y (some q) rest
    (y, p' :: q :: l)
  | y, before, [p] =>
    let (y, p') := y.diagonal p (before.map TriRow.c).toList
    (y, [p'])
  | y, _, [] => (y, [])

/-- A quotient of the elimination; an infinite one stops it. -/
def Cyclic.divide (y : Cyclic) (a : Val) (p : TriRow) : Cyclic × Val :=
  let q := quotient .fp64 a p.d
  let y := y.took q.2
  (if q.1.isInf && y.stop.isNone then { y with stop := some (stNonfinite, p.row) } else y, q.1)

/-- One equation in an odd place with its neighbours eliminated. -/
def Cyclic.join (y : Cyclic) (p r : TriRow) (q : Option TriRow) : Cyclic × TriRow :=
  let zero : Val := .zero false
  let (y, k) := y.divide r.a p
  let (y, m) := match q with
    | some q => y.divide r.c q
    | none => (y, zero)
  let less (v : Val) (x : Val) (z : Option Val) : Val × Flags :=
    subst .fp64 v (Val.mul k x :: (z.map (fun z => Val.mul m z)).toList)
  let a := subst .fp64 zero [Val.mul k p.a]
  let c := match q with
    | some q => subst .fp64 zero [Val.mul m q.c]
    | none => (zero, 0#4)
  let d := less r.d p.c (q.map TriRow.a)
  let bs := (List.range r.b.length).map (fun i => less (r.b.getD i zero) (p.b.getD i zero) (q.map (fun q => q.b.getD i zero)))
  (y.took (bs.foldl (fun g b => g ||| b.2) (a.2 ||| c.2 ||| d.2)), ⟨r.row, a.1, d.1, c.1, bs.map Prod.fst⟩)

/-- The equations in odd places, reduced. -/
def Cyclic.reduce : Cyclic → List TriRow → Cyclic × List TriRow
  | y, p :: r :: rest =>
    let (y, r') := y.join p r rest.head?
    let (y, l) := Cyclic.reduce y rest
    (y, r' :: l)
  | y, _ => (y, [])

/-- The unknowns of an equation in an even place, from those of its neighbours. -/
def TriRow.unknowns (p : TriRow) (before after : Option (List Val)) : List Val × Flags :=
  let zero : Val := .zero false
  let product (k : Val) (x : Option (List Val)) (i : Nat) : List (Val × Flags) :=
    (x.map (fun x => Val.mul k (x.getD i zero))).toList
  let vs := (List.range p.b.length).map (fun i =>
    let s := subst .fp64 (p.b.getD i zero) (product p.a before i ++ product p.c after i)
    let q := quotient .fp64 s.1 p.d
    (q.1, s.2 ||| q.2))
  (vs.map Prod.fst, vs.foldl (fun g q => g ||| q.2) 0#4)

/-- The unknowns of all equations, from those of the ones in odd places. -/
def Cyclic.fill : Cyclic → Option (List Val) → List TriRow → List (List Val) → Cyclic × List (List Val)
  | y, before, p :: _ :: rest, x :: xs =>
    let v := p.unknowns before (some x)
    let (y, l) := Cyclic.fill (y.took v.2) (some x) rest xs
    (y, v.1 :: x :: l)
  | y, before, p :: _, _ =>
    let v := p.unknowns before none
    (y.took v.2, [v.1])
  | y, _, [], _ => (y, [])

/-- The unknowns of a tridiagonal system, level by level. -/
def Cyclic.solve : Nat → Cyclic → List TriRow → Cyclic × List (List Val)
  | 0, y, _ => (y, [])
  | fuel + 1, y, l =>
    let (y, l) := y.treat none l
    if y.stop.isSome || l.isEmpty then (y, [])
    else
      let (y, odd) := y.reduce l
      let (y, xs) := Cyclic.solve fuel y odd
      if y.stop.isSome then (y, []) else y.fill none l xs

/-- One system of a batch: the elements of its band cells, and its right-hand sides. -/
def solveSystem (c : EngineCmd) (tau n m batch : Nat) (free : Nat → Nat) (a b : List Val) : SystemOut :=
  let kl := c.w.imm 0 5
  let ku := c.w.imm 5 5
  let piv := c.w.imm 10 1 = 1
  let cells := (bandCells kl ku n).zip a
  let rhs (i r : Nat) : Val := b.getD (i + n * r) (.zero false)
  let norm := (maxAbs a).getD (.zero false)
  let theta := roundUp .fp64 (norm.scale (Q.pow2 (-(tau : Int))))
  let done (x : List Val) (stop : Option (Status × Nat)) (pert : List Nat) (fl : Flags) : SystemOut :=
    match stop with
    | some (st, col) => ⟨[], st, col, pert, fl⟩
    | none => ⟨x.map (bitsIn .fp64), if pert.isEmpty then stOK else stPerturbed, 0, pert, fl⟩
  if a.any (fun v => !v.isFinite) then
    ⟨[], stNonfinite, ((List.range n).find? (fun k => cells.any (fun y => y.1.2 = k && !y.2.isFinite))).getD 0, [], 0#4⟩
  else if direct kl ku piv n batch then
    let x : Band := ⟨kl, ku, n, m, piv, theta,
      cells.foldl (fun mp y => SMap.put mp (y.1.1 * n + y.1.2) (some y.2)) [],
      (List.range (n * m)).map (fun k => (k, some (rhs (k / m) (k % m)))), [], none, 0#4⟩
    let y := (List.range n).foldl (Band.column free) x
    let z := if y.stop.isSome then y else y.back
    done ((List.range (n * m)).map (fun k => z.rhs (k / m) (k % m))) z.stop z.pert z.flags
  else
    let cell (i k : Nat) : Val := ((cells.find? (fun y => y.1.1 = i && y.1.2 = k)).map Prod.snd).getD (.zero false)
    let rows := (List.range n).map (fun i => (⟨i, if i = 0 then .zero false else cell i (i - 1), cell i i, cell i (i + 1),
      (List.range m).map (rhs i)⟩ : TriRow))
    let (y, xs) := Cyclic.solve 32 ⟨theta, [], none, 0#4⟩ rows
    done xs.flatten y.stop y.pert y.flags

/-- `SE_BAND`: failing systems are skipped and counted (R173). -/
def State.seBandWork (s : State) (t j : Nat) (c : EngineCmd) : Stage × State :=
  let rec_ := c.s3.addrVal
  let freeAt (s : State) (k : Nat) : Nat := (Config.freeWord (s.fresh + 64 + k)).toNat
  match c.s0.desc, c.s1.desc, c.s2.desc with
  | some da, some db, some dx =>
    let kl := c.w.imm 0 5
    let ku := c.w.imm 5 5
    let n := da.extOf 1
    let batch := da.extOf 2
    let m := db.extOf 1
    let cells := bandCells kl ku n
    let fail (s : State) (began : Bool) (st : Status) (a : Nat) : Stage × State :=
      let (stage, s) := s.solverFail t j c began (freeAt s) st a
      (stage, s.draws (256 + batch * n))
    let work := workBytes c n 0
    match s.solverRead t j c false work (some (da, (List.range batch).flatMap (fun y => cells.map (fun x => da.linear (kl + ku + x.1 - x.2) x.2 y 0))))
        (some (db, db.all)) with
    | .fault va w s => (.fault va w, s)
    | .fail st a s => fail s false st a
    | .ok (.lost began st a) s => fail s began st a
    | .ok (.bad st a) s => (.ready (failResult st a), s)
    | .ok (.input i) s =>
        let free := freeAt s
        let as := chunksOf cells.length batch i.a
        let bs := chunksOf (n * m) batch i.b
        let num := (List.range batch).map (fun y =>
          (y, solveSystem c i.hdr.tau n m batch (fun k => free (8 + y * n + k)) (as.getD y []) (bs.getD y [])))
        let bad := num.filter (fun x => x.2.x.isEmpty)
        let st := topStatus (num.map (fun x => x.2.status))
        let col := (num.find? (fun x => x.2.x.isEmpty && x.2.status = st)).map (fun x => x.2.column)
        let outs : List OutElem := num.flatMap (fun x =>
          ((List.range x.2.x.length).zip x.2.x).map (fun y => ⟨dx.linear (y.1 / m) (y.1 % m) x.1 0, some y.2, 0#4⟩))
        let perts := num.flatMap (fun x => x.2.pert.map (fun k => k % 2 ^ 32 + x.1 % 2 ^ 31 * 2 ^ 32))
        let first := (bad.head?.map Prod.fst).getD (free 0 % 2 ^ 32)
        let fl := num.foldl (fun g x => g ||| x.2.flags) 0#4
        let regs (st : Status) : List RegEff := solverRegs st 2 0 perts.length 0
        let r : SolverRec := ⟨st, 2, 0, 0, col, (maxAbs i.a).map (bitsIn .fp64), none, none, perts.length,
          some (first + bad.length * 2 ^ 32), zeros 128⟩
        match s.solverFinish j rec_ [(dx, outs, pertWrites i.hdr perts ++ workWrites i.hdr work s.fresh)] r fl 0 0 regs with
        | .ok (.ready res) s =>
          let res := if (st = stSingular || st = stNonfinite) && res.status = st && bad.length < batch then
            { res with outcome := .donePartial } else res
          (.ready res, { s with fresh := s.fresh + 128 + batch * n })
        | .ok stage s => (stage, s)
        | .fault va w s => (.fault va w, s)
        | .fail st a s => fail s true st a
  | _, _, _ => (.ready (failResult stDescBad rec_), s)

/-- A failed command whose record was never opened still shows its status in `SE_STAT`. -/
def solverStage (r : Stage × State) : Stage × State :=
  match r.1 with
  | .ready x => if x.outcome == .failed && x.regs.isEmpty then (.ready { x with regs := solverRegs x.status 0 0 0 0 }, r.2) else r
  | _ => r

/-- The work of a solver command; a member's `SE_JOIN` has none of its own (R174). -/
def State.solverWork (s : State) (t j : Nat) (c : EngineCmd) : Stage × State :=
  solverStage <| match c.op with
  | .seFact => s.seFactWork t j c none
  | .seSolve => s.seSolveWork t j c none
  | .seBand => s.seBandWork t j c
  | .seResume => s.seResumeWork t j c
  | _ => (.ready okResult, s)

end Sys2Proof.Machine
end

