-- ==== Sys2Proof/Machine/Update.lean ====
section
/-! DEFINITION. Update.lean: the work of the update engine (R196 to R205): the program record, its validation, the
operations of Table 7.9 over blocks of 32 elements, and the statistics. -/

namespace Sys2Proof.Machine

open Sys2Proof

/-- A stream entry of a program (Table 7.7) with its descriptor. -/
structure UeStream where
  role : Nat
  access : Nat
  decay : Nat
  d : Desc
  deriving DecidableEq

/-- An instruction of a program (Table 7.8). -/
structure UeInstr where
  op : Nat
  dst : Nat
  a : Nat
  b : Nat
  c : Nat
  deriving DecidableEq

/-- An update program. -/
structure UeProgram where
  streams : SMap (Option UeStream)
  consts : List Nat
  code : List UeInstr

def UeProgram.stream (p : UeProgram) (i : Nat) : Option UeStream := SMap.get none p.streams i

/-- An element-shaped role (R198). -/
def UeStream.isElem (x : UeStream) : Bool := x.role = 1 || x.role = 2 || x.role = 5 || x.role = 6
def UeStream.readable (x : UeStream) : Bool := x.access = 1 || x.access = 3
def UeStream.writable (x : UeStream) : Bool := x.access = 2 || x.access = 3

/-- The operands an operation takes: a, b, c (Table 7.9). -/
def ueArity (op : Nat) : Bool × Bool × Bool :=
  match op with
  | 0x03 | 0x0A | 0x0B => (true, true, true)
  | 0x05 | 0x08 | 0x09 | 0x0C | 0x0D => (true, false, false)
  | _ => (true, true, false)

/-- An instruction of 8 bytes; none with a reserved bit or an unassigned `OP`. -/
def parseUeInstr (v : Nat) : Option UeInstr :=
  let reserved := bitsOf v 5 3 + bitsOf v 13 3 + bitsOf v 21 3 + bitsOf v 29 3 + bitsOf v 37 27
  let i : UeInstr := ⟨bitsOf v 0 5, bitsOf v 8 5, bitsOf v 16 5, bitsOf v 24 5, bitsOf v 32 5⟩
  if reserved = 0 && decide (i.op ≤ 0x0E) then some i else none

/-- A stream entry of 4 bytes; `some none` for an unused one, none for a bad one. -/
def parseUeStream (desc : Nat → Option Desc) (v : Nat) : Option (Option UeStream) :=
  let role := bitsOf v 12 3
  let access := bitsOf v 15 2
  let decay := bitsOf v 17 4
  if bitsOf v 21 11 ≠ 0 || role = 7 then none
  else if role = 0 then (if v = 0 then some none else none)
  else if access = 0 || (decay ≠ 0 && role ≠ 3 && role ≠ 4) then none
  else
    match desc (bitsOf v 0 12) with
    | some d => some (some ⟨role, access, decay, d⟩)
    | none => none

/-- The program record (Table 7.6). -/
def parseProgram (desc : Nat → Option Desc) (b : List Byte) : Option UeProgram :=
  let nops := fieldAt b 0 8 % 64
  let reserved := fieldAt b 0 8 / 64 = 0 && fieldAt b 8 8 = 0 && fieldAt b 0x30 16 = 0 && fieldAt b 0x180 128 = 0
  let entries := (List.range 8).map (fun i => parseUeStream desc (fieldAt b (0x10 + 4 * i) 4))
  let words := (List.range 32).map (fun i => fieldAt b (0x80 + 8 * i) 8)
  let code := (words.take nops).map parseUeInstr
  if reserved && decide (1 ≤ nops) && decide (nops ≤ 32) && (words.drop nops).all (· = 0)
    && entries.all Option.isSome && code.all Option.isSome
  then
    let streams := ((List.range 8).zip entries).foldl (fun m x =>
      match x.2 with
      | some (some st) => SMap.put m x.1 (some st)
      | _ => m) ([] : SMap (Option UeStream))
    some ⟨streams, (List.range 16).map (fun i => fieldAt b (0x40 + 4 * i) 4), code.filterMap id⟩
  else none

/-- The PARAM stream. -/
def UeProgram.param (p : UeProgram) : Option UeStream :=
  (p.streams.filterMap (fun x => x.2)).find? (fun x => x.role = 1)

/-- A floating-point or MX format (R198). -/
def floatOrMx (f : Fmt) : Bool := f.float.isSome || f == .mxInt8

/-- The stream rules of R198. -/
def UeProgram.streamsOk (p : UeProgram) : Bool :=
  let ss := p.streams.filterMap (fun x => x.2)
  let count (r : Nat) : Nat := (ss.filter (fun x => x.role = r)).length
  match p.param with
  | none => false
  | some q =>
    let stats := ss.any (fun x => x.role = 3 || x.role = 4)
    count 1 = 1 && decide (count 2 ≤ 1) && (!stats || decide (q.d.ndim ≤ 1)) && ss.all (fun x =>
      !x.d.calibrated &&
        (if x.isElem then
          x.d.sameExt q.d && x.d.extOf 0 % 32 = 0 && floatOrMx x.d.format && (x.d.skind = 0 || x.d.skind = 2)
            && (x.role ≠ 2 || x.access = 1)
         else
          x.d.isFloat && x.d.ndim = 0
            && (if x.role = 3 then x.d.extOf 0 = q.d.extOf 1
                else x.d.extOf 0 = q.d.extOf 0 && decide (x.d.extOf 0 ≤ 4096))))

/-- Temporaries and streams written before an instruction. -/
def writtenBefore (code : List UeInstr) (n : Nat) (x : Nat) : Bool := (code.take n).any (fun i => i.dst = x)

/-- An operand may be read by instruction n: a temporary already written, a readable stream or one already written, or a
constant (R199). -/
def UeProgram.readOk (p : UeProgram) (n x : Nat) : Bool :=
  if x < 8 then writtenBefore p.code n x
  else if x < 16 then
    match p.stream (x - 8) with
    | some st => st.readable || (st.isElem && writtenBefore p.code n x)
    | none => false
  else true

/-- The instruction rules of R199 and Table 7.9. -/
def UeProgram.instrOk (p : UeProgram) (n : Nat) (i : UeInstr) : Bool :=
  let (_, ub, uc) := ueArity i.op
  let reads := (if i.op = 0x0D then true else p.readOk n i.a) && (if ub && i.op ≠ 0x0E then p.readOk n i.b else true)
    && (if uc then p.readOk n i.c else true)
  let unused := (ub || i.b = 0) && (uc || i.c = 0)
  let dst :=
    if i.dst < 8 then true
    else if i.dst < 16 then
      match p.stream (i.dst - 8) with
      | some st => st.writable && (p.code.filter (fun k => k.dst = i.dst)).length = 1
      | none => false
    else false
  let special :=
    match i.op with
    | 0x0C => decide (16 ≤ i.a)
    | 0x0D => decide (8 ≤ i.a) && decide (i.a < 16) && (match p.stream (i.a - 8) with
        | some st => st.readable
        | none => false)
    | 0x0E => decide (8 ≤ i.b) && decide (i.b < 16) && (match p.stream (i.b - 8) with
        | some st => st.d.skind = 2
        | none => false)
    | _ => true
  reads && unused && dst && special

/-- The program is valid (R199). -/
def UeProgram.valid (p : UeProgram) : Bool :=
  p.streamsOk && ((List.range p.code.length).zip p.code).all (fun x => p.instrOk x.1 x.2)

/-! ## Execution over a block of 32 elements (R200 to R202) -/

/-- What the streams hold for one block: the values read, and the scale each was read under. -/
structure UeBlock where
  elems : List Nat
  vals : SMap (List (Option Val))
  scales : SMap (List (Option Val))

/-- The exact result of an operation and its flags before rounding (Table 7.9). -/
def ueValue (op t : Nat) (a b c : Val) : Val × Flags :=
  match op with
  | 0x00 => Val.add 0 a b
  | 0x01 => Val.add 0 a b.neg
  | 0x02 => Val.mul a b
  | 0x03 => fmaVal 0 a b c
  | 0x04 => divVal a b
  | 0x05 => rsqrtVal a
  | 0x06 => maxVal a b
  | 0x07 => minVal a b
  | 0x08 => absVal a
  | 0x09 =>
    if a.isNan then (.nan false, snanFlag [a])
    else if a.isZero then (a, 0#4)
    else (.fin (Q.ofInt (if a.isNeg then -1 else 1)), 0#4)
  | 0x0A => (if Val.lt (.zero false) a then b else c, 0#4)
  | 0x0B =>
    let m := maxVal a b
    let r := minVal m.1 c
    (r.1, m.2 ||| r.2)
  | _ =>
    -- POWSTEP: A^t, with A^0 = 1 for every A
    if t = 0 then (.fin (Q.ofInt 1), 0#4)
    else
      match a with
      | .nan s => (.nan false, if s then flagNV else 0#4)
      | .zero _ => (.zero false, 0#4)
      | .inf n => (.inf (n && t % 2 = 1), 0#4)
      | .fin q => (.fin ⟨q.num ^ t, q.den ^ t, q.exp * t⟩, 0#4)

/-- Rounding to the compute format by RNE (R200): the value as the format holds it, and the flags. -/
def ueRound (wide : Bool) (v : Val) (fl : Flags) : Val × Flags :=
  let f : Fmt := if wide then .fp64 else .fp32
  let n := narrow f v ⟨0, false, 0⟩
  (decodeElem f n.bits, fl ||| n.flags)

/-- The state of a program over a block: temporaries, written streams and flags, each by lane. -/
structure UeLanes where
  temps : SMap (List (Option Val))
  written : SMap (List (Option Val))
  flags : List Flags

/-- An operand's values over the lanes (R202): a statistic always reads as before the command. -/
def UeProgram.operand (p : UeProgram) (b : UeBlock) (x : UeLanes) (code : Nat) : List (Option Val) :=
  let n := b.elems.length
  if code < 8 then SMap.get [] x.temps code
  else if code < 16 then
    match p.stream (code - 8) with
    | some st =>
      if st.isElem then
        let w := SMap.get [] x.written (code - 8)
        if w.isEmpty then SMap.get [] b.vals (code - 8) else w
      else SMap.get [] b.vals (code - 8)
    | none => []
  else List.replicate n (some (decodeElem .fp32 (p.consts.getD (code - 16) 0)))

/-- One instruction over the lanes. -/
def UeProgram.exec (p : UeProgram) (wide : Bool) (t : Nat) (b : UeBlock) (x : UeLanes) (i : UeInstr) : UeLanes :=
  let n := b.elems.length
  let va := p.operand b x i.a
  let vb := p.operand b x i.b
  let vc := p.operand b x i.c
  let out : List (Option (Val × Flags)) :=
    match i.op with
    | 0x0D => (SMap.get [] b.scales (i.a - 8)).map (fun v => v.map (fun v => ueRound wide v 0#4))
    | 0x0E =>
      let f := ((p.stream (i.b - 8)).map (fun st => st.d.format)).getD .fp64
      if va.all Option.isSome then
        let k := blockK f (maxQ (magnitudes (va.filterMap id)))
        List.replicate n (some (ueRound wide (.fin (Q.pow2 k)) 0#4))
      else List.replicate n none
    | op =>
      let (_, ub, uc) := ueArity op
      let fill (u : Bool) (vs : List (Option Val)) : List (Option Val) :=
        if u then vs else List.replicate n (some (.zero false))
      (va.zip ((fill ub vb).zip (fill uc vc))).map (fun y =>
        match y.1, y.2.1, y.2.2 with
        | some a, some b, some c =>
          let r := ueValue op t a b c
          some (ueRound wide r.1 r.2)
        | _, _, _ => none)
  let vals := out.map (fun o => o.map Prod.fst)
  let flags := (x.flags.zip out).map (fun y => y.1 ||| ((y.2.map Prod.snd).getD 0#4))
  if i.dst < 8 then { x with temps := SMap.put x.temps i.dst vals, flags := flags }
  else { x with written := SMap.put x.written (i.dst - 8) vals, flags := flags }

/-- The program over one block. -/
def UeProgram.runBlock (p : UeProgram) (wide : Bool) (t : Nat) (b : UeBlock) : UeLanes :=
  p.code.foldl (p.exec wide t b) ⟨[], [], b.elems.map (fun _ => 0#4)⟩

/-! ## The command -/

/-- The values and scales of a stream's elements over the whole command. -/
structure UeRead where
  vals : SMap (Option Val)
  scales : SMap (Option Val)
  err : ReadErr

/-- An instruction of a program writes stream `i`. -/
def UeProgram.writes (p : UeProgram) (i : Nat) : Bool := p.code.any (fun k => k.dst = i + 8)

/-- The element of a stream that serves element `e` of the parameter: a row's or column's statistic, or the same (R198). -/
def UeStream.place (st : UeStream) (q : Desc) (e : Nat) : Nat :=
  let (i0, i1, _, _) := q.index e
  if st.role = 3 then i1 else if st.role = 4 then i0 else e

/-- Reading the streams for the first `n` elements, each element once (R202); a statistic that is written is read for its
decay too (R203). -/
def State.ueRead (s : State) (j : Nat) (p : UeProgram) (q : Desc) (n : Nat) : List (Nat × Option UeStream) → Access (SMap (Option UeRead))
  | [] => .ok [] s
  | (i, st) :: rest =>
    match st with
    | none => State.ueRead s j p q n rest
    | some st =>
      if st.readable || !st.isElem then
        let idx := dedup ((List.range n).map (st.place q))
        (s.readVals j st.d idx).bind fun r s =>
          (s.readScales j st.d idx).bind fun m s =>
            let scale (e : Nat) : Option Val :=
              if st.d.skind = 2 then
                (SMap.get none m.1 (e / 32)).map (fun b =>
                  if b = 255 then .nan false else .fin (Q.pow2 ((b : Int) - 127)))
              else some (.fin (Q.ofInt 1))
            (State.ueRead s j p q n rest).bind fun more s =>
              .ok (SMap.put more i (some ⟨valueMap idx r.vals, valueMap idx (idx.map scale),
                firstErr r.err m.2⟩)) s
      else State.ueRead s j p q n rest

/-- The block of 32 elements starting at e, as the streams hold it. -/
def UeProgram.block (p : UeProgram) (q : Desc) (rd : SMap (Option UeRead)) (e : Nat) : UeBlock :=
  let es := (List.range 32).map (fun k => e + k)
  let col (f : UeRead → SMap (Option Val)) : SMap (List (Option Val)) :=
    p.streams.foldl (fun m x =>
      match x.2, SMap.get none rd x.1 with
      | some st, some r => SMap.put m x.1 (es.map (fun y => SMap.get none (f r) (st.place q y)))
      | _, _ => m) []
  ⟨es, col UeRead.vals, col UeRead.scales⟩

/-- Storing the written element streams one after another (R202, R205). -/
def State.ueStore (s : State) (t j : Nat) (c : EngineCmd) (p : UeProgram) (runs : List (UeBlock × UeLanes)) (err : ReadErr) :
    List (Nat × Option UeStream) → Access (Flags × ReadErr)
  | [] => .ok (0#4, err) s
  | (i, st) :: rest =>
    match st with
    | none => State.ueStore s t j c p runs err rest
    | some st =>
      if st.isElem && p.writes i then
        let rs := runs.flatMap (fun x =>
          let vs := SMap.get [] x.2.written i
          (x.1.elems.zip (vs.zip x.2.flags)).map (fun y => (⟨y.1, y.2.1, y.2.2, true⟩ : Result)))
        (s.writeResults j t st.d (s.roundCtx j c.step c.w.mode (c.w.flag 4)) false (mixedOn err) rs err).bind fun w s =>
          (State.ueStore s t j c p runs w.1.err rest).bind fun r s => .ok (w.1.flags ||| r.1, r.2) s
      else State.ueStore s t j c p runs err rest

/-- A statistic's new value: `K_d × old + Σ` of the values written for it, exact and rounded once in the command's mode (R196, R203). -/
def UeProgram.statResult (p : UeProgram) (mode : Nat) (q : Desc) (i : Nat) (st : UeStream) (rd : SMap (Option UeRead))
    (runs : List (UeBlock × UeLanes)) (n : Nat) : Result :=
  let old := ((SMap.get none rd i).bind (fun r => SMap.get none r.vals n))
  let k := decodeElem .fp32 (p.consts.getD st.decay 0)
  let vals := runs.flatMap (fun x =>
    (x.1.elems.zip (SMap.get [] x.2.written i)).filterMap (fun y =>
      let (i0, i1, _, _) := q.index y.1
      if (if st.role = 3 then i1 else i0) = n then some y.2 else none))
  match old with
  | none => ⟨n, none, 0#4, true⟩
  | some o =>
    if vals.all Option.isSome then
      let r := sumExact mode (Val.mul k o :: (vals.filterMap id).map (fun v => (v, 0#4)))
      ⟨n, some r.1, r.2, true⟩
    else ⟨n, none, 0#4, true⟩

/-- Storing the statistics after the last element; a failure leaves them unchanged (R205). -/
def State.ueStats (s : State) (t j : Nat) (c : EngineCmd) (p : UeProgram) (q : Desc) (rd : SMap (Option UeRead))
    (runs : List (UeBlock × UeLanes)) : List (Nat × Option UeStream) → Access (Flags × ReadErr)
  | [] => .ok (0#4, none) s
  | (i, st) :: rest =>
    match st with
    | none => State.ueStats s t j c p q rd runs rest
    | some st =>
      if !st.isElem && p.writes i then
        let rs := st.d.all.map (p.statResult c.w.mode q i st rd runs)
        (s.writeResults j t st.d (s.roundCtx j c.step c.w.mode (c.w.flag 4)) false false rs none).bind fun w s =>
          match w.1.err with
          | some e => .ok (w.1.flags, some e) s
          | none =>
            (State.ueStats s t j c p q rd runs rest).bind fun r s => .ok (w.1.flags ||| r.1, r.2) s
      else State.ueStats s t j c p q rd runs rest

/-- The descriptor that a program's stream names, as it was at dispatch (R214). -/
def ueDesc (c : EngineCmd) (i : Nat) : Option Desc := (c.descs.find? (fun x => x.1 = i)).bind Prod.snd

/-- What a `UE_RUN` reads at dispatch: its program and the descriptors that the program names (R199, R214). -/
def State.ueCapture (s : State) (t j : Nat) (c : EngineCmd) : EngineCmd :=
  if c.op != .ueRun then c
  else
    match s.peekField j c.s0.addrVal 512 with
    | none =>
      -- the program cannot be read yet, so that any descriptor may be one it names
      { c with descs := (List.range (fieldOf ((s.tile t).reg .sq 0xA0) 0 13)).map (fun i => (i, s.descAt t i)) }
    | some bs =>
      { c with
        prog := bs
        descs := (List.range 8).map (fun i => let k := fieldAt bs (0x10 + 4 * i) 4 % 2 ^ 12; (k, s.descAt t k)) }

/-- The validation of a program that was read (R198, R199). -/
def State.ueCheck (s : State) (t j : Nat) (c : EngineCmd) : Option Status :=
  if c.s0.addrVal % 64 ≠ 0 then some stAlignment
  else if c.prog.isEmpty then none
  else
    match parseProgram (ueDesc c) c.prog with
    | none => some stDescBad
    | some p =>
      let ds := (p.streams.filterMap (fun x => x.2)).map UeStream.d
      if !(p.valid && p.param.isSome && ds.all (s.localOk t j)) then some stDescBad
      else if ds.all Desc.aligned then none
      else some stAlignment

/-- What the probe tries for each element of the parameter: every stream's element, read or written (R185). -/
def UeProgram.reach (p : UeProgram) (q : Desc) : List (Nat × List (Nat × Bool)) :=
  q.all.map (fun e => (e, p.streams.flatMap (fun x =>
    match x.2 with
    | none => []
    | some st =>
      let k := st.place q e
      (if st.readable || !st.isElem then (SlotVal.tensor st.d).reach st.d k else [])
        ++ (if p.writes x.1 then st.d.destReach none k else []))))

/-- The operands an instruction names (Table 7.9). -/
def UeInstr.sources (i : UeInstr) : List Nat :=
  let (_, ub, uc) := ueArity i.op
  [i.a] ++ (if ub then [i.b] else []) ++ (if uc then [i.c] else [])

/-- An instruction that is not scalar, given the temporaries that some such instruction writes (R201). -/
def UeInstr.perElement (i : UeInstr) (temps : List Nat) : Bool :=
  i.op ≠ 0x0C && i.sources.any (fun x => (decide (8 ≤ x) && decide (x < 16)) || temps.contains x)

/-- The non-scalar divisions of a program (R201, R204): its code is gone through once for each temporary. -/
def UeProgram.divides (p : UeProgram) : Nat :=
  let temps := (List.range 8).foldl (fun ts _ => ((p.code.filter (fun i => i.perElement ts)).map (fun i => i.dst)).filter (· < 8)) []
  (p.code.filter (fun i => i.op = 0x04 && i.perElement temps)).length

/-- The elements of a chunk of an update, whole blocks (R204, R231). -/
def UeProgram.chunk (p : UeProgram) (wide : Bool) : Nat :=
  let cost (f : Nat × UeStream → Bool) : Nat :=
    (p.streams.filterMap (fun x => match x.2 with
      | some st => if st.isElem && f (x.1, st) then some st.d.elemCost else none
      | none => none)).foldl (· + ·) 0
  let n := chunkElems (if wide then 64 else 128) (cost (fun x => x.2.readable)) (cost (fun x => p.writes x.1)) (chunkCycles - 100)
  let d := p.divides
  if d = 0 then n else max 32 (min n (16 * (chunkCycles - 100) / d) / 32 * 32)

/-- Whether the statistics can be stored: every block that a partial write must read is verified before any of them is written, so
that a failure leaves them all as they were (R205). -/
def State.statsFail (s : State) (j : Nat) (p : UeProgram) : List (Nat × Option UeStream) → ReadErr × State
  | [] => (none, s)
  | (i, st) :: rest =>
    match st with
    | none => State.statsFail s j p rest
    | some st =>
      if !st.isElem && p.writes i then
        let ps := s.physWrites j ((st.d.all.flatMap st.d.bytesOf).map (fun va => (va, 0#8)))
        let (_, err, s) := s.verifyAll st.d.checked (partialBlocks [] ps)
        match err with
        | some e => (some e, s)
        | none => State.statsFail s j p rest
      else State.statsFail s j p rest

/-- The blocks of a program over the first `n` elements: the element streams, then, after the last element, the statistics
(R202, R203). -/
def State.ueBlocks (s : State) (t j : Nat) (c : EngineCmd) (p : UeProgram) (q : Desc) (n : Nat) : Access Stage :=
  (s.ueRead j p q n p.streams).bind fun rd s =>
    let err := rd.foldl (fun (e : ReadErr) x => firstErr e ((x.2.map UeRead.err).getD none)) none
    let runs := (List.range (n / 32)).map (fun i =>
      let b := p.block q rd (32 * i)
      (b, p.runBlock (c.w.flag 3) (c.sreg.getD (c.w.imm 0 5) 0#64).toNat b))
    (s.ueStore t j c p runs err p.streams).bind fun r s =>
      let ops := runs.foldl (fun f x => x.2.flags.foldl (· ||| ·) f) 0#4
      match r.2 with
      | some (st, a) => .ok (.ready { failResult st a with flags := r.1 }) s
      | none =>
        if n < q.size then .ok (.ready { okResult with flags := ops ||| r.1 }) s
        else
          match s.statsFail j p p.streams with
          | (some (st, a), s) => .ok (.ready { failResult st a with flags := ops ||| r.1 }) s
          | (none, s) =>
          (s.ueStats t j c p q rd runs p.streams).bind fun z s =>
            match z.2 with
            | some (st, a) => .ok (.ready { failResult st a with flags := ops ||| r.1 ||| z.1 }) s
            | none => .ok (.ready { okResult with flags := ops ||| r.1 ||| z.1 }) s

/-- The work of `UE_RUN`: the program, its validation where it could not be read at dispatch, the probe, and the blocks. `lost` is
a fault that the probe met and that was not resolved. -/
def State.ueRun (s : State) (t j : Nat) (c : EngineCmd) (lost : Option (Status × Nat)) : Access Stage :=
  (s.readWhole j c.s0.addrVal 512).bind fun bytes s =>
    let c := if c.prog.isEmpty then { c with prog := bytes } else c
    match s.ueCheck t j c with
    | some st => .fail st c.s0.addrVal s
    | none =>
      match (parseProgram (ueDesc c) c.prog).bind (fun p => p.param.map (fun q => (p, q.d))) with
      | none => .fail stDescBad c.s0.addrVal s
      | some (p, q) =>
        let per := p.chunk (c.w.flag 3)
        s.chunked j lost (fun k => k / per * per) (p.reach q) q.size (fun n s => s.ueBlocks t j c p q n)

def State.ueWork (s : State) (t j : Nat) (c : EngineCmd) (lost : Option (Status × Nat) := none) : Stage × State :=
  Access.stage (s.ueRun t j c lost)

end Sys2Proof.Machine
end

