-- ==== Sys2Proof/Machine/Work.lean ====
section
/-! DEFINITION. Work.lean: checks 4 and 5 of Table 8.15 on a dispatched command, the work of every engine command by its
engine, and the start of cascades (R136, R174). -/

namespace Sys2Proof.Machine

open Sys2Proof

/-- The job context of a tile. -/
def Tile.jobOf (x : Tile) : Nat := x.owner.getD 0

/-! ## Checks 4 and 5 (R243, R244) -/

/-- A local tensor of a fabric command: present, and rows aligned (R114). -/
def localCheck (v : SlotVal) : Option Status :=
  match v.desc with
  | some d => if d.aligned then none else some stAlignment
  | none => some stDescBad

/-- The local destination of a fabric command: of no scale kind that only sources have (R59), not FX192 (R70), a calibrated one
within R83, and its rows aligned (R114). -/
def localDest (v : SlotVal) : Option Status :=
  match v.desc with
  | some d => if d.skind = 3 || d.skind = 4 || d.format == .fx192 || !d.calOk then some stDescBad else localCheck v
  | none => some stDescBad

/-- Checks 4 and 5 on a tile-mover command of the fabric and the collectives. -/
def fabricCheck (c : EngineCmd) : Option Status :=
  match c.op with
  | .fbStore | .fbSend | .storeStream => localCheck c.s0
  | .fbLoad | .fbRecv => localDest c.s0
  | .collGroup => if c.s0.addrVal % 64 = 0 then none else some stAlignment
  | .sumAll =>
    match c.s0.desc, c.s2.desc with
    | some a, some d => sumCheck (c.w.flag 3) a d
    | _, _ => some stDescBad
  | op => if isAtomic op && c.s1.addrVal % atomicAlign (atomicFmt c) ≠ 0 then some stAlignment else none

/-- Commands of the tile mover whose checks are those of chapters 2 and 9. -/
def isMover (op : Op) : Bool :=
  match op with
  | .handoff | .tmCopy | .tmGather | .tmScatter | .tmFill | .tmPrefetch | .tmClean => true
  | _ => false

/-- The number of K slices of a matrix command: its members under `SHAPE` 0 (R137, R148). -/
def slicesOf (op : Op) (w : CmdWord) : Nat := if cascMaster op w && w.imm 3 2 = 0 then 2 ^ w.imm 5 3 else 1

/-- Checks 4 and 5 on the operands of an engine command, with the limits that a load tests apart where `lim` says so; `known`
says which slots have a known address. -/
def State.operandCheck (s : State) (t j : Nat) (lim : Bool) (known : Nat → Bool) (staging : Nat × Nat) (c : EngineCmd) :
    Option Status :=
  match c.op.engine with
  | .me | .de =>
    if cascMember c.op then none
    else
      match matProblem c.op c.w c.s0 c.s1 c.s2 c.s3 with
      | none => some stDescBad
      | some p => p.check lim (slicesOf c.op c.w)
  | .dsu => dsuCheck c.op c.w c.s0 c.s1 c.s2
  | .se => s.solverCheck t j lim known c
  | .ve =>
    match c.s3.desc with
    | none => some stDescBad
    | some d => vectorCheck c.op c.w (vectorSources c) d c.mask
  | .ru => ruCheck lim c.op c.w c.s0 c.s1 c.s2 c.s3
  | .ue => s.ueCheck t j c
  | .tm => if isMover c.op then moverCheck lim c staging else fabricCheck c
  | .sq => none

/-- Checks 4 and 5 on an engine command at dispatch. -/
def State.dispatchCheck (s : State) (t j : Nat) (lim : Bool) (c : EngineCmd) : Option Status :=
  s.operandCheck t j lim (fun _ => true) (s.tile t).staging c

/-- The checks on a dispatched engine command in their order: 4 and 5; then those of check 6 that its operands decide, the mask of a
cascade's master (R135) and the limits. -/
def State.cmdCheck (s : State) (t j : Nat) (c : EngineCmd) : Option Status :=
  match s.dispatchCheck t j false c with
  | some st => some st
  | none => if cascMaster c.op c.w && !s.maskOk t c then some stDescBad else s.dispatchCheck t j true c

/-! ## Work -/

/-- A write that met a full guard area has not happened: the command waits for a slot (R414). -/
def State.guardHold (s : State) (r : Stage × State) : Stage × State :=
  if r.2.store.guardFull then (.guardFull, s.guardWait r.2) else r

/-- The work of a solver command as it starts: it is done, and the command's writes happen, when the command retires (R158,
R176), so that the start only meets the page faults on the way. -/
def State.solverTry (s : State) (t j : Nat) (c : EngineCmd) : Stage × State :=
  match s.solverWork t j c with
  | (.fault va w, _) => (.fault va w, s)
  | (_, s') => (.solved, { s with races := s'.races })

/-- The work of a tile-mover command, a failure with its element. -/
def State.named (s : State) (j : Nat) (c : EngineCmd) (f : State → Stage × State) : Stage × State :=
  let r := f s
  (r.2.nameElem j c r.1, r.2)

/-- The work of a command by its engine, whatever the guard says. -/
def State.workOf (s : State) (t : Nat) (c : EngineCmd) : Stage × State :=
  let j := (s.tile t).jobOf
  match c.op with
  | .mm | .mmS24 | .mmBs | .dmm => s.matWork t j c
  | .mmCasc | .mmJoin | .dmmCasc | .dmmJoin | .seJoin => (.cascade, s)
  | .dsDiv | .dsSqrt | .dsRsqrt | .dsRcp => s.dsuWork t j c
  | .seFact | .seSolve => if seCasc c then (.cascade, s) else s.solverTry t j c
  | .seResume =>
    match s.resumeOf t j c with
    | some (c', _) => if seCasc c' then (.cascade, s) else s.solverTry t j c
    | none => s.solverTry t j c
  | .seBand => s.solverTry t j c
  | .veEpi => s.epiStart t j c
  | .ruSum | .ruDot | .ruSsq | .ruMax | .ruMin | .ruAmax | .ruHist => s.ruWork t j c
  | .ueRun => s.ueWork t j c
  | .handoff => s.named j c (fun s => s.handoffWork t j c)
  | .tmCopy => s.named j c (fun s => s.copyWork t j c)
  | .tmGather => if c.w.flag 4 then s.fabWork t j c else s.gatherWork t j c
  | .tmScatter => s.scatterWork t j c
  | .tmFill => s.named j c (fun s => s.fillWork t j c)
  | .tmPrefetch => s.prefetchWork j c
  | .tmClean => s.cleanWork j c
  | .collGroup | .sumAll | .collWait => s.collWork t j c
  | op =>
    match op.engine with
    | .ve =>
      if veTakesB op && c.w.flag 4 then s.vectorForward t j c c.mask
      else s.vectorWork t j c c.mask []
    | .tm => s.fabWork t j c
    | _ => (.ready okResult, s)

/-- Work of a command under `DET`: the free values it draws are those of its place in the job, its step, tile and ordinal, so that
they do not depend on what else has drawn some (R419). -/
def State.steady {α : Type} (s : State) (t j : Nat) (c : EngineCmd) (f : State → α × State) : α × State :=
  if (s.job j).det then
    let r := f { s with fresh := ((c.step.toNat * 2 ^ 64 + c.ordinal) * 256 + t + 1) * 2 ^ 64 }
    (r.1, { r.2 with fresh := s.fresh })
  else f s

/-- The work of a command as it starts or is taken up again. -/
def State.runWork (s : State) (t : Nat) (c : EngineCmd) : Stage × State :=
  s.guardHold (s.watched (c.agent t) (fun s => s.steady t (s.tile t).jobOf c (fun s => s.workOf t c)))

/-- Straggler passes that a command whose work is done still has to run (R103). -/
def Stage.passes : Stage → Nat
  | .ready r => r.passes
  | .queue _ _ r => r.passes
  | _ => 0

/-- The cascade register of an engine: its offset (Tables 5.12, 6.15); the solver engine has none. -/
def cascRegOf (e : Engine) : Option Nat :=
  match e with
  | .me => some 0x30
  | .de => some 0x18
  | _ => none

/-- The role and mask a cascade register shows. -/
def Tile.showCascade (x : Tile) (e : Engine) (cid role mask : Nat) : Tile :=
  match cascRegOf e with
  | none => x
  | some off => x.setReg e off (setField (setField (setField 0#64 0 4 cid) 4 2 role) 32 32 mask)

/-- A command that enters its cascade wait shows role 3; any other leaves the register. DESIGN CHOICE (log 117): its `CID` is
that of the command, and `MASK` the mask of a waiting master and 0 of a waiting member. -/
def Tile.showWait (x : Tile) (c : EngineCmd) (st : Stage) : Tile :=
  if st == .cascade then x.showCascade c.op.engine (cascId c) 3 (if cascMember c.op then 0 else cascMask c) else x

/-- A stage that waits for room in the finished-tile queue. -/
def Stage.isQueue : Stage → Bool
  | .queue _ _ _ => true
  | _ => false

/-- A stage that waits because the finished-tile queue is full. -/
def Stage.isFull : Stage → Bool
  | .queue (_ :: _) _ _ => true
  | .queue [] [] _ => true
  | _ => false

/-- A command with the stage its work has come to; `before` are the blocks that the work wrote, as they were. Passes that a
command with entries to push has run stay run. -/
def Running.move (r : Running) (st : Stage) (before : List BlockImage) : Running :=
  { r with stage := st, passesLeft := if r.stage.isQueue then min r.passesLeft st.passes else st.passes
           full := r.full || st.isFull, before := r.before ++ before }

/-- Starting a command on an idle engine (R221, R222). It uses the values committed now to its end (R12). -/
def State.startCmd (s : State) (t : Nat) (c : EngineCmd) : State :=
  let c := { c with staging := (s.tile t).staging, began := s.now }
  let (st, s1) := s.runWork t c
  let r : Running := ⟨c, st, 0, 0, 0, false, []⟩
  s1.modTile t (fun x => (x.setEng c.op.engine
    { (x.eng c.op.engine) with running := some (r.move st (s.imagesOf s1 c.id)) }).showWait c st)

/-- The running command of an engine. -/
def State.runningOf (s : State) (t : Nat) (e : Engine) : Option Running := ((s.tile t).eng e).running

/-- Replacing the running command of an engine. -/
def State.setRunning (s : State) (t : Nat) (e : Engine) (r : Option Running) : State :=
  s.modTile t (fun x => x.setEng e { (x.eng e) with running := r })

/-- A running command moves on to a new stage. -/
def State.putStage (s : State) (t : Nat) (e : Engine) (r : Running) (st : Stage) : State :=
  s.setRunning t e (some (r.move st []))

/-- A running command moves on to a stage by work that led from state `s` to `s1`. -/
def State.workedTo (s s1 : State) (t : Nat) (e : Engine) (r : Running) (st : Stage) : State :=
  s1.setRunning t e (some (r.move st (s.imagesOf s1 r.cmd.id)))

/-- Running a command's work again from its start. -/
def State.rework (s : State) (t : Nat) (e : Engine) (r : Running) : State :=
  let (st, s1) := s.runWork t r.cmd
  s.workedTo s1 t e r st

/-- What a wait for the fabric ends with: the work of every command of a job's tiles that waits for responses, messages,
counters or collectives is tried again (R329, R340, R374). -/
def State.fabWake (s : State) (j : Nat) : State :=
  (s.job j).tiles.foldl (fun s t =>
    match s.runningOf t .tm with
    | some r => if r.stage == .fabric then s.rework t .tm r else s
    | none => s) s

/-- A vector command that waits for forwarded results tries again (R189). -/
def State.takeForwarded (s : State) (t : Nat) : State :=
  match s.runningOf t .ve with
  | none => s
  | some run =>
    match run.stage with
    | .forward _ _ => s.rework t .ve run
    | _ => s

/-! ## Failure from outside a command's work -/

/-- The blocks that a running command wrote, each as it was first met. -/
def Running.images (r : Running) : List BlockImage :=
  (r.before.foldl (fun (acc : List BlockImage) x => if acc.any (fun y => y.blk = x.blk) then acc else x :: acc) []).reverse

/-- A command that is cut short: each block of its destination holds its old or its new contents, by free choice (R141, R301).
Those of a queued matrix command are new, for it may have handed their tiles on (DEDUCED, log 124). -/
def State.unwrite (s : State) (r : Running) : State :=
  if r.cmd.op.engine = .me && r.cmd.w.flag 4 then s
  else
    let xs := r.images
    let s' := ((List.range xs.length).zip xs).foldl (fun (s' : State) x =>
      if s.choice x.1 then s'.withStore (s'.store.unwrite s.fresh x.2 (s.writtenIn r.cmd.id x.2.blk)) else s') s
    { s' with fresh := s.fresh + xs.length }

/-- The flags of what a running command has written so far, all of which it commits when it fails (R111). -/
def Stage.flags : Stage → BitVec 4
  | .ready r => r.flags
  | .queue _ _ r => r.flags
  | .epilogue _ r => r.flags
  | .forward _ r => r.flags
  | _ => 0#4

/-- A stage whose result commits flags beside its own. -/
def Stage.raise (st : Stage) (f : BitVec 4) : Stage :=
  match st with
  | .ready r => .ready { r with flags := r.flags ||| f }
  | .queue left late r => .queue left late { r with flags := r.flags ||| f }
  | st => st

/-- A command of an engine that works in chunks whose page fault was not resolved: nothing of the chunk in progress is written, and
the chunks before keep their writes (R186). -/
def State.keepChunks (s : State) (t : Nat) (c : EngineCmd) (st : Status) (addr : Nat) : Stage × State :=
  let j := (s.tile t).jobOf
  let r := s.watched (c.agent t) (fun s =>
    match c.op.engine with
    | .ru => s.ruWork t j c (some (st, addr))
    | .ue => s.ueWork t j c (some (st, addr))
    | _ => s.vectorLost t j c (st, addr))
  if r.2.store.guardFull then (.ready (failResult st addr), s)
  else
    match r.1 with
    | .ready _ => r
    | _ => (.ready (failResult st addr), r.2)

/-- The stage of a running command that fails with a status: a queued matrix command pushes its terminal entry (R128), a
forwarding DSU command marks its buffer (R189), and a solver command writes its record (R176). -/
def State.failStage (s : State) (t : Nat) (c : EngineCmd) (began queued : Bool) (st : Status) (addr : Nat) : Stage × State :=
  let r := failResult st addr
  match c.op.engine with
  | .me => if queued then s.queueStage t [] [] c.w.tag r else (.ready r, s)
  | .dsu => (.ready r, if c.w.flag 4 then s.modTile t (Tile.forwardFails st) else s)
  | .se =>
    if cascMember c.op then (.ready { r with regs := solverShown (solverRegs st 0 0 0 0) }, s)
    else
      -- a resumed state is gone with its command (R170)
      let (c, s) := match (if c.op == .seResume then s.resumeOf t (s.tile t).jobOf c else none) with
        | some (c, sv) => (c, s.dropSave t sv)
        | none => (c, s)
      let (r, s) := s.solverAbort t (s.tile t).jobOf c began st addr
      (.ready r, s)
  | .ve | .ru | .ue =>
    if st == stTranslation then
      let r := s.keepChunks t c st addr
      (r.1.noSats c, r.2)
    else ((Stage.ready r).noSats c, s)
  | .tm => (if isMover c.op then s.nameElem (s.tile t).jobOf c (.ready r) else .ready r, s)
  | _ => (.ready r, s)

/-- A stage whose result writes registers beside its own. -/
def Stage.writing (st : Stage) (rs : List RegEff) : Stage :=
  match st with
  | .ready r => .ready { r with regs := r.regs ++ rs }
  | .queue left late r => .queue left late { r with regs := r.regs ++ rs }
  | st => st

/-- A command of an engine fails, and commits the flags of what it wrote. `lead` is the command whose problem it works on: its
own, or its cascade's master's; a matrix command that had started has skipped some blocks (R133). -/
def State.failRunning (s : State) (t : Nat) (e : Engine) (x : Running) (lead : EngineCmd) (queued : Bool) (st : Status)
    (addr : Nat) : State :=
  let skips := if e = .me && !(x.stage == .cascade) then s.lostSkips (s.tile t).jobOf lead else []
  let s := if skips.isEmpty then s else s.drawn
  let (stage, s) := s.failStage t x.cmd (!(x.stage == .cascade)) queued st addr
  s.putStage t e x ((stage.raise x.stage.flags).writing skips)

/-- Whether a member is a queued command of its cascade (R128): all of them under a spatial split, the master alone otherwise. -/
def queuedMember (c : EngineCmd) (master : Bool) : Bool :=
  c.op.engine = .me && c.w.flag 4 && (master || c.w.imm 3 2 ≠ 0)

/-! ## Cascades (R135 to R140, R148, R174) -/

/-- The effective command of a cascade's master: for a resumed solver command the one it goes on with. -/
def State.cascadeCmd (s : State) (t : Nat) (c : EngineCmd) : EngineCmd :=
  if c.op == .seResume then ((s.resumeOf t (s.tile t).jobOf c).map Prod.fst).getD c else c

/-- A command waits in an engine for its cascade as a master, or as a member, of an id. -/
def State.waitsCascade (s : State) (t : Nat) (e : Engine) (cid : Nat) (master : Bool) : Bool :=
  match s.runningOf t e with
  | some r => r.stage == .cascade && (cascMember r.cmd.op != master) && cascId (s.cascadeCmd t r.cmd) = cid
  | none => false

/-- A cascade of an id runs on a die: one of its commands is past its wait. -/
def State.cascadeActive (s : State) (e : Engine) (die cid : Nat) : Bool :=
  ((List.range s.tilesPerDie).map (fun p => die * s.tilesPerDie + p)).any (fun t =>
    match s.runningOf t e with
    | some r =>
      let c := s.cascadeCmd t r.cmd
      !(r.stage == .cascade) && (cascMaster c.op c.w || cascMember c.op) && cascId c = cid
    | none => false)

/-- The tiles that a master's mask names, and whether each of them waits to join. -/
def State.cascadeReady (s : State) (e : Engine) (die cid t : Nat) (mask : Nat) : Bool :=
  (s.maskTiles die mask).all (fun q => q = t || !(s.tile q).avail || s.waitsCascade q e cid false)

/-- Every member ends as its master does (R140): outcome, status and address, with its own flags and passes. A member of a
solver cascade shows the command's status, phase and iterations like its master (Table 6.15). -/
def memberResult (master : CmdResult) (flags : Flags) (passes : Nat) : CmdResult :=
  { master with flags := flags, passes := passes, sres := [], regs := solverShown master.regs }

/-- Starting a matrix cascade: the master's problem over all members, then each member's stage with the flags, passes, skipped
blocks and queue entries that are its own (R137 to R139). -/
def State.startMatCascade (s : State) (t : Nat) (e : Engine) (r : Running) (members : List Nat) : State :=
  let c := r.cmd
  let j := (s.tile t).jobOf
  let shape := c.w.imm 3 2
  match matProblem c.op c.w c.s0 c.s1 c.s2 c.s3 with
  | none => members.foldl (fun s q => match s.runningOf q e with
      | some x => s.failRunning q e x c (queuedMember c (q = t)) stDescBad 0
      | none => s) s
  | some p =>
    let s0 := s
    let put (s1 : State) (passes : List (Nat × Nat)) (f : Nat → CmdResult) (ts : Nat → List (Nat × Nat × Nat)) : State :=
      ((List.range members.length).zip members).foldl (fun s m =>
        match s.runningOf m.2 e with
        | none => s
        | some x =>
          let (st, s) := if queuedMember c (m.1 = 0) then s.tilesStage m.2 p (ts m.1) passes x.cmd.w.tag (f m.1) else (.ready (f m.1), s)
          s.putStage m.2 e (if m.1 = 0 then { x with before := x.before ++ s0.imagesOf s1 c.id } else x) st) s1
    let slices := p.slices (if shape = 0 then members.length else 1)
    let tiles (q : Nat) : List (Nat × Nat × Nat) := if shape = 0 then p.tiles else p.share shape q
    let skips (s : State) (failed : Bool) (q : Nat) : Nat := { s with fresh := s.fresh + q }.skipped j p failed (tiles q)
      (if shape = 0 then sliceKbs p members.length q else List.range (blocks16 p.k))
    match s.watchAccess (c.agent t) (fun s => s.matOutputs j t c.step p slices) with
    | .fault va w _ => s.putStage t e r (.fault va w)
    | .fail st a s =>
      put (s.draws members.length) [] (fun q => { failResult st a with regs := skipReg (skips s true q) }) (fun _ => [])
    | .ok w s =>
      let base := writtenResult w.1 0
      let f (q : Nat) : CmdResult :=
        let part := p.memberPart shape q w
        { memberResult base part.1 part.2 with regs := skipReg (skips s w.1.err.isSome q) }
      put (if w.1.err.isSome then s.draws members.length else s) w.2 f (fun q => p.finished w.1 (tiles q))

/-- Starting a solver cascade: like a command alone, every member's work is done when they retire (R111, R176). -/
def State.startSolverCascade (s : State) (t : Nat) (r : Running) (members : List Nat) : State :=
  let c := { r.cmd with began := s.now }
  match s.watched (c.agent t) (fun s => s.steady t (s.tile t).jobOf c (fun s => s.solverTry t (s.tile t).jobOf c)) with
  | (.solved, s) =>
    members.foldl (fun s q =>
      match s.runningOf q .se with
      | none => s
      | some x => s.putStage q .se (if q = t then { x with cmd := c } else x) .solved) s
  | (st, s) => s.putStage t .se r st

/-- The stage of a whole cascade that fails, as with a lost member (R135, R140). -/
def State.failCascade (s : State) (e : Engine) (t : Nat) (c : EngineCmd) (members : List Nat) (st : Status) : State :=
  members.foldl (fun s q =>
    match s.runningOf q e with
    | some x => s.failRunning q e x c (queuedMember c (q = t)) st 0
    | none => s) s

/-- The masters waiting for a cascade of an id on a die, ascending, each with its members and whether all of them wait. -/
def State.cascadeMasters (s : State) (e : Engine) (die cid : Nat) : List (Nat × Running × List Nat × Bool) :=
  ((List.range s.tilesPerDie).map (fun p => die * s.tilesPerDie + p)).filterMap (fun t =>
    if s.waitsCascade t e cid true then
      (s.runningOf t e).map (fun r =>
        let mask := cascMask (s.cascadeCmd t r.cmd)
        (t, r, membersOf t (s.maskTiles die mask), s.cascadeReady e die cid t mask))
    else none)

/-- A cascade starts (R136): that of a master whose members all wait. DESIGN CHOICE (log 141): of two such masters of one id the
one of the lower tile starts, and an id is active from its cascade's start, not from the master's dispatch. -/
def State.startCascade (s : State) (e : Engine) (die cid : Nat) : State :=
  if s.cascadeActive e die cid then s
  else
    match (s.cascadeMasters e die cid).find? (fun m => m.2.2.2) with
    | none => s
    | some (t, r, ts, _) =>
      let mask := cascMask (s.cascadeCmd t r.cmd)
      let s := ts.foldl (fun s q => s.modTile q (fun x => x.showCascade e cid (if q = t then 1 else 2) mask)) s
      if ts.any (fun q => !(s.tile q).avail) then s.failCascade e t (s.cascadeCmd t r.cmd) (ts.filter (fun q => (s.tile q).avail)) stTileLost
      else
        let s' := if e = .se then s.startSolverCascade t r ts else s.startMatCascade t e r ts
        if s'.store.guardFull then (s.guardHold (.guardFull, s')).2.putStage t e r .guardFull else s'

/-- Taking up a command again after a resolved fault or a free guard slot: a cascade's master starts its cascade. -/
def State.restartCmd (s : State) (t : Nat) (e : Engine) (r : Running) : State :=
  let c := s.cascadeCmd t r.cmd
  if cascMaster c.op c.w then (s.putStage t e r .cascade).startCascade e (s.dieOf t) (cascId c)
  else s.rework t e r

/-- The running cascade that a tile's command belongs to: its master and its members (R136). -/
def State.cascadeOf (s : State) (t : Nat) (e : Engine) : Option (Nat × List Nat) :=
  let die := s.dieOf t
  ((List.range s.tilesPerDie).map (fun p => die * s.tilesPerDie + p)).findSome? (fun q =>
    match s.runningOf q e, s.runningOf t e with
    | some r, some x =>
      let c := s.cascadeCmd q r.cmd
      let ts := membersOf q (s.maskTiles die (cascMask c))
      if cascMaster c.op c.w && !(r.stage == .cascade) && ts.contains t
          && (q = t || (cascMember x.cmd.op && !(x.stage == .cascade) && cascId x.cmd = cascId c)) then
        some (q, ts.filter (fun m => (s.runningOf m e).isSome))
      else none
    | _, _ => none)

/-- A command fails; a cascade's master fails its members with it (R140). -/
def State.failCmd (s : State) (t : Nat) (e : Engine) (r : Running) (st : Status) (addr : Nat) : State :=
  let c := s.cascadeCmd t r.cmd
  let ts := if cascMaster c.op c.w then membersOf t (s.maskTiles (s.dieOf t) (cascMask c)) else [t]
  ts.foldl (fun s q =>
    match s.runningOf q e with
    | some x => if q = t || x.stage == .cascade then s.failRunning q e x c (queuedMember c (q = t)) st addr else s
    | none => s) s

end Sys2Proof.Machine
end

