-- ==== Sys2Proof/Machine/Sequencer.lean ====
section
/-! DEFINITION. Sequencer.lean: the sequencer of a tile (chapter 8): what reaches it, breakpoints and checks, predicates and
tags, its own commands, dispatch to the engines, halts, the retirement of engine commands, and the waits of `END`,
`STEP_END`, `WAIT` and `PSTAT`. -/

namespace Sys2Proof.Machine

open Sys2Proof

/-! ## Words of a stream -/

/-- The 256-bit word at a stream address of a tile's store (R208, R209). -/
def State.fetchWord (s : State) (t addr : Nat) : BitVec 256 :=
  BitVec.ofNat 256 (leNat ((List.range 32).map (fun k => s.storeByte t (addr + k))))

/-- The stream address of the command instance a sequencer reaches next. -/
def Tile.nextAddr (x : Tile) : Nat := x.xct.getD x.pc

/-- The sequencer can take an instance: the tile is there, its stream runs and neither waits nor halts. -/
def Tile.ready (x : Tile) : Bool := x.avail && x.mode == .running && x.wait == .none && x.haltPending.isNone

/-- A `PSEL` and `PINV` hold (R227). -/
def Tile.predicate (x : Tile) (w : CmdWord) : Bool :=
  !w.pen || ((x.sreg (0x74 + w.psel.toNat) != 0#64) != w.pinv)

/-! ## Tags, retirement counts and the way on -/

/-- The tag-table entry of a tag (R228). -/
def Tile.tagAt (x : Tile) (tag : BitVec 16) : TagEntry := SMap.get {} x.tags (tag.toNat % 64)
def Tile.setTag (x : Tile) (tag : BitVec 16) (e : TagEntry) : Tile :=
  if tag = 0#16 then x else { x with tags := SMap.set {} x.tags (tag.toNat % 64) e }
/-- A command takes its entry at dispatch. -/
def Tile.takeTag (x : Tile) (tag : BitVec 16) : Tile := x.setTag tag ⟨tag, true, .none, 0#16⟩
/-- At retirement it writes outcome and status there. -/
def Tile.endTag (x : Tile) (tag : BitVec 16) (o : ItemOutcome) (st : Status) : Tile := x.setTag tag ⟨tag, false, o, st⟩

/-- One more instance has retired (R236 Table 8.8). -/
def Tile.countRetired (x : Tile) : Tile :=
  x.setReg .sq 0x10 (setField 0#64 0 48 (fieldOf (x.reg .sq 0x10) 0 48 + 1))

/-- Past an instance: the next ordinal, and the next word unless this one came by `XCT` (R220, R236). -/
def Tile.advance (x : Tile) : Tile :=
  { x with
    ordinal := (x.ordinal + 1) % 2 ^ 48
    pc := if x.xct.isSome then x.pc else x.pc + 32
    xct := none
    skipBreak := false
    wait := .none
    held := none }

/-- A sequencer command, or a skipped command, retires (R220, R227). -/
def Tile.retire (x : Tile) (tag : BitVec 16) (o : ItemOutcome) (st : Status) : Tile :=
  ((x.endTag tag o st).countRetired).advance

def State.retireSeq (s : State) (t : Nat) (w : CmdWord) (o : ItemOutcome) (st : Status) : State :=
  s.modTile t (fun x => x.retire w.tag o st)

/-- A sequencer command that ends DONE. -/
def State.retireOk (s : State) (t : Nat) (w : CmdWord) : State := s.retireSeq t w .done stOK

/-- Keeping an instance at the dispatch point or in its wait; one that waits is dispatched and takes its tag (R228). -/
def State.hold (s : State) (t : Nat) (op : Op) (w : CmdWord) (k : SeqWait) : State :=
  s.modTile t (fun x => { (if k == .dispatch then x else x.takeTag w.tag) with
    wait := k, held := some (streamInstr op t w), skipBreak := x.skipBreak || k != .dispatch })

/-- The sequencer has a command of its own dispatched whose condition or access will still come: a halt waits for it to
retire (R234). -/
def Tile.seqBusy (x : Tile) : Bool :=
  match x.wait with
  | .condition | .access | .fault _ => true
  | _ => false

/-! ## Register writes of hampers (R239, R240) -/

/-- The register a `CFGR` or `CFGW` names. -/
def cfgTarget (w : CmdWord) : Option Engine × Nat := (engOf (w.slot0.field 8 4), w.slot0.field 0 8)

/-- The instance matches a breakpoint; the reset value of `SQ_BRK_COUNT` disables its test (Table 8.12). -/
def Tile.breaks (x : Tile) (w : CmdWord) : Bool :=
  let b := x.reg .sq 0x88
  let n := fieldOf (x.reg .sq 0x80) 0 48
  (n ≠ 0xFFFFFFFFFFFF && x.ordinal = n)
    || (fieldOf b 32 1 = 1 && (w.tag.toNat &&& fieldOf b 16 16) = (fieldOf b 0 16 &&& fieldOf b 16 16))

/-- A `REG_WRITE` whose engine has an empty pending slot is made, and its item ends by R13. -/
def State.regWriteNow (s : State) (t : Nat) (r : ItemRef) (e : Engine) (off : Nat) (v : BitVec 64) : State :=
  match s.writeReg t e off v with
  | (st, s) => s.finishItem r (if st = stOK then .done else .failed) st t 0#64

/-- A `CFGW` to an engine waits at the tile's dispatch point, held neither by a breakpoint nor by its tag (R221, R240). -/
def Tile.cfgwHeld (x : Tile) (e : Engine) : Bool :=
  match x.wait, x.held.bind Instr.streamOf with
  | .dispatch, some (.cfgw, _, w) =>
    decide ((cfgTarget w).1 = some e) && !(x.breaks w && !x.skipBreak) && !(w.tag ≠ 0#16 && (x.tagAt w.tag).pending)
  | _, _ => false

/-- The `REG_WRITE` hampers of an engine whose pending slot is empty, in their order; those that came after a `CFGW` that
still waits let it go first (R240). -/
def State.regWritesReady (s : State) (t : Nat) (e : Engine) : State :=
  if ((s.tile t).eng e).pending.isSome then s
  else
    let held := (s.tile t).cfgwHeld e
    let now (x : RegWait) : Bool := x.eng = e && !(x.behind && held)
    let mine := (s.tile t).regWrites.filter now
    let s := s.modTile t (fun x => { x with regWrites := x.regWrites.filter (fun y => !now y) })
    mine.foldl (fun s x => s.regWriteNow t x.item x.eng x.off x.v) s

/-- What waits behind a `CFGW` that has gone. -/
def State.regWritesBehind (s : State) (t : Nat) : State :=
  ((s.tile t).regWrites.filter (fun x => x.behind)).foldl (fun s x => s.regWritesReady t x.eng) s

/-! ## Halts (R233 to R235) -/

/-- A halt whose dispatched commands have all retired takes effect: `SQ_HALT`, `SQ_HALT_ORD` and the record. A halt for
any cause but `BREAK_HIT` ends the stream. What the sequencer held is gone, and register writes that came after it go on. -/
def State.settleHalt (s : State) (t : Nat) : State :=
  let x := s.tile t
  match x.haltPending with
  | none => s
  | some h =>
    if !x.enginesIdle || x.seqBusy then s
    else
      let x := (x.setReg .sq 0x20 (setField (BitVec.ofNat 64 h.reason.toNat) 16 22 h.addr)).setReg .sq 0x28
        (setField (setField 0#64 0 48 h.ord) 48 16 h.tag.toNat)
      let brk := decide (h.reason = stBreakHit)
      let s := s.setTile t { x with
        mode := .halted, wait := .none, held := none, haltPending := none, ended := x.ended || !brk
        skipBreak := false }
      (if brk then s.breakRecord t h else s.finishStream t .failed h.reason (haltDetail h)).regWritesBehind t

/-- The first cause of a halt is kept (R234). -/
def State.halt (s : State) (t : Nat) (h : HaltInfo) : State :=
  (s.modTile t (fun x => if x.haltPending.isSome || x.mode != .running then x else { x with haltPending := some h })).settleHalt t

/-- A halt that names the instance the sequencer stands at. -/
def State.haltAt (s : State) (t : Nat) (w : CmdWord) (st : Status) : State :=
  let x := s.tile t
  s.halt t ⟨st, x.nextAddr, x.ordinal, w.tag, true, none, none⟩

/-- A sequencer command that retires FAILED halts its sequencer after it (R233), with the address it failed at, if any. -/
def State.failSeq (s : State) (t : Nat) (w : CmdWord) (st : Status) (va : Option Nat) : State :=
  let x := s.tile t
  (s.retireSeq t w .failed st).halt t ⟨st, x.nextAddr, x.ordinal, w.tag, true, va, none⟩

/-! ## Checks 1 to 3 (R243, R244) -/

/-- Commands whose effect `DET` refuses (R325, R328), and those a word reached through `XCT` may not be (R220). -/
def detRefused (op : Op) (w : CmdWord) : Bool :=
  match op with
  | .fadd | .fbAtomicSwap | .fbAtomicCas => true
  | .fbRecv => w.slot2.field 0 16 = 0xFFFF
  | op => op.aop.isSome && w.slot0.field 13 1 = 1
def xctRefused (op : Op) : Bool :=
  match op with
  | .loop | .endloop | .xct | .endStream | .stepEnd => true
  | _ => false

/-- Check 1 of Table 8.15 on a word. -/
def State.check1 (s : State) (j : Nat) (op : Op) (w : CmdWord) : Bool :=
  wordLegal op w && !((s.job j).det && detRefused op w) &&
    (match op with
     | .cfgr | .cfgw =>
       match cfgTarget w with
       | (some e, off) => regNamed e off
       | (none, _) => false
     | _ => true)

/-- Check 2: the command's engine, and the one a `CFGR` or `CFGW` names, are present. -/
def State.check2 (s : State) (op : Op) (w : CmdWord) : Bool :=
  s.engPresent op.engine &&
    (match op with
     | .cfgr | .cfgw => ((cfgTarget w).1.map s.engPresent).getD true
     | _ => true)

/-- Check 3 at run time (R224). -/
def Tile.loopOk (x : Tile) (op : Op) : Bool :=
  match op with
  | .loop => decide (x.loops.length < 4)
  | .endloop => !x.loops.isEmpty
  | .endStream => x.loops.isEmpty
  | _ => true

/-- Checks 1 to 3 on an instance. -/
def State.wordCheck (s : State) (t : Nat) (op : Op) (w : CmdWord) : Option Status :=
  let x := s.tile t
  if !s.check1 x.jobOf op w || (x.xct.isSome && xctRefused op) then some stIllegal
  else if !s.check2 op w then some stEngineAbsent
  else if !x.loopOk op then some stLoopDepth
  else none

/-! ## Dispatch to an engine (R214, R221) -/

/-- A command with all it reads at dispatch; none for a bad descriptor. -/
def State.mkCmd (s : State) (t j : Nat) (op : Op) (w : CmdWord) : Option EngineCmd :=
  let x := s.tile t
  let areg (i : Nat) : BitVec 64 := x.sreg (0x20 + i)
  let u := slotUses op w
  let mask := s.maskDesc t op w
  match s.slotVal t j areg u.1 w.slot0, s.slotVal t j areg u.2.1 w.slot1, s.slotVal t j areg u.2.2.1 w.slot2,
      s.slotVal t j areg u.2.2.2 w.slot3 with
  | some v0, some v1, some v2, some v3 =>
    if mask.all (s.localOk t j) then
      some (s.ueCapture t j {
        op := op, w := w, s0 := v0, s1 := v1, s2 := v2, s3 := v3, mask := mask
        sreg := (List.range 32).map x.sreg
        deadline := if w.dsel = 0#8 then 0#64 else x.sreg (0x90 + w.dsel.toNat)
        ordinal := x.ordinal, addr := x.nextAddr, step := (s.job j).step, issued := s.now, id := s.races.next })
    else none
  | _, _, _, _ => none

/-- A started command, with what its start may have woken (R329, R354). -/
def State.start (s : State) (t : Nat) (c : EngineCmd) : State :=
  let s := s.startCmd t c
  match c.op with
  | .fbCtrset | .sumAll => s.fabWake (s.tile t).jobOf
  | .dsDiv | .dsSqrt | .dsRsqrt | .dsRcp => s.takeForwarded t
  | _ => s

/-- An engine can take up a command: it runs none; and while a solver command of the tile runs the FP64 engine belongs to
it, for which a solver command waits until that engine is idle (R26, R149). -/
def Tile.unitFree (x : Tile) (e : Engine) : Bool :=
  (x.eng e).running.isNone
    && (match e with
        | .de => (x.eng .se).running.isNone
        | .se => (x.eng .de).running.isNone
        | _ => true)

/-- `UE_STEP` holds the t that a dispatched `UE_RUN` latches (R196 Table 7.11). -/
def Tile.latchStep (x : Tile) (c : EngineCmd) : Tile :=
  if c.op == .ueRun then x.setReg .ue 0x18 (c.sreg.getD (c.w.imm 0 5) 0#64) else x

/-- Dispatch: a bad operand halts before it; a full pending slot holds it; else the command starts or waits pending. -/
def State.dispatch (s : State) (t : Nat) (op : Op) (w : CmdWord) : State :=
  let x := s.tile t
  let j := x.jobOf
  let e := x.eng op.engine
  if e.pending.isSome then s.hold t op w .dispatch
  else
    match s.mkCmd t j op w with
    | none => s.haltAt t w stDescBad
    | some c =>
      match s.cmdCheck t j c with
      | some st => s.haltAt t w st
      | none =>
        let s := (s.modTile t (fun x => (x.takeTag w.tag).advance.latchStep c)).takeId
        if !x.unitFree op.engine then
          s.modTile t (fun x => x.setEng op.engine { (x.eng op.engine) with pending := some c })
        else s.start t c

/-! ## The sequencer's own commands -/

/-- Operand b of `ALU` and `CMP`: a register, or a sign-extended immediate. -/
def State.operandB (s : State) (t : Nat) (immb : Bool) (x : OpSlot) : BitVec 64 :=
  if immb then x.off.signExtend 64 else s.readSeq t (x.field 0 8)

/-- Retiring with a register written. -/
def State.retireWrite (s : State) (t : Nat) (w : CmdWord) (n : Nat) (v : BitVec 64) : State :=
  (s.modTile t (fun x => x.writeSeq n v)).retireOk t w

def State.seqSeti (s : State) (t : Nat) (w : CmdWord) : State := s.retireWrite t w (w.imm 0 8) (w.slot1.off ++ w.slot0.off)
def State.seqMov (s : State) (t : Nat) (w : CmdWord) : State :=
  s.retireWrite t w (w.imm 0 8) (s.readSeq t (w.slot0.field 0 8))
/-- `ALU` (R218). -/
def State.seqAlu (s : State) (t : Nat) (w : CmdWord) : State :=
  s.retireWrite t w (w.imm 0 8)
    (aluResult (w.imm 8 4) (s.readSeq t (w.slot0.field 0 8)) (s.operandB t (w.imm 12 1 = 1) w.slot1))
/-- `CMP` (R218). -/
def State.seqCmp (s : State) (t : Nat) (w : CmdWord) : State :=
  let a := s.readSeq t (w.slot0.field 0 8)
  let b := s.operandB t (w.imm 7 1 = 1) w.slot1
  let r := if w.imm 8 1 = 1 then cmpFp (w.imm 3 3) a b else cmpInt (w.imm 6 1 = 1) (w.imm 3 3) a b
  s.retireWrite t w (0x74 + w.imm 0 3) (if r then 1#64 else 0#64)
/-- `STEP_GET` (R36). -/
def State.seqStepGet (s : State) (t : Nat) (w : CmdWord) : State :=
  s.retireWrite t w (w.imm 0 5) (s.job (s.tile t).jobOf).step

/-- The test of `PSTAT` (R229). -/
def pstatTest (test v : Nat) (e : TagEntry) : Bool :=
  match test with
  | 0 => e.status.toNat = v
  | 1 => e.status.toNat / 2 ^ 12 = v % 16
  | 2 => e.outcome == .done
  | _ => e.outcome == .done || e.outcome == .donePartial

/-- `PSTAT` (R229). -/
def State.seqPstat (s : State) (t : Nat) (w : CmdWord) : State :=
  let tag := BitVec.ofNat 16 (w.slot0.field 0 16)
  let e := (s.tile t).tagAt tag
  if e.pending || (w.tag ≠ 0#16 && w.tag.toNat % 64 = tag.toNat % 64) then s.hold t .pstat w .condition
  else if e.tag ≠ tag then s.haltAt t w stIllegal
  else
    s.retireWrite t w (0x74 + w.imm 0 3) (if pstatTest (w.imm 3 2) (w.slot1.field 0 16) e then 1#64 else 0#64)

/-- `WAIT` (R222). -/
def State.seqWait (s : State) (t : Nat) (w : CmdWord) : State :=
  let x := s.tile t
  if [Engine.me, .de, .ve, .ru, .dsu, .se, .ue, .tm].any (fun e => w.imm (engId e) 1 = 1 && x.busy e) then
    s.hold t .wait w .condition
  else s.retireOk t w

/-- The address of `LDS`, `STS` and `XCT`. -/
def State.seqAddr (s : State) (t : Nat) (w : CmdWord) : Nat :=
  effective 0 ((s.tile t).sreg (0x20 + w.slot0.aidx.toNat)) w.slot0

/-- `LDS` (R219). -/
def State.seqLds (s : State) (t : Nat) (w : CmdWord) : State :=
  let a := s.seqAddr t w
  if a % 8 ≠ 0 then s.haltAt t w stAlignment
  else
    match s.accessNow (some t) .sq (fun s => s.readVirt (s.tile t).jobOf false (vaRange a 8)) with
    | .ok bs s => s.retireWrite t w (w.imm 0 5) (BitVec.ofNat 64 (leNat bs))
    | .fault va _ s => s.hold t .lds w (.fault va)
    | .fail st a s => s.failSeq t w st (some a)

/-- `STS` (R219). -/
def State.seqSts (s : State) (t : Nat) (w : CmdWord) : State :=
  let a := s.seqAddr t w
  if a % 8 ≠ 0 then s.haltAt t w stAlignment
  else
    match s.accessNow (some t) .sq (fun s =>
        s.writeVirt (s.tile t).jobOf false ((vaRange a 8).zip (leBytes 8 ((s.tile t).sreg (w.imm 0 5)).toNat))) with
    | .ok _ s' => if s'.store.guardFull then (s.guardWait s').hold t .sts w .access else s'.retireOk t w
    | .fault va _ s => s.hold t .sts w (.fault va)
    | .fail st a s => s.failSeq t w st (some a)

/-- `CFGR` (R217). -/
def State.seqCfgr (s : State) (t : Nat) (w : CmdWord) : State :=
  match cfgTarget w with
  | (some e, off) => s.retireWrite t w (w.imm 0 5) (s.readReg t e off)
  | (none, _) => s.haltAt t w stIllegal

/-- `CFGW` (R239). -/
def State.seqCfgw (s : State) (t : Nat) (w : CmdWord) : State :=
  match cfgTarget w with
  | (none, _) => s.haltAt t w stIllegal
  | (some e, off) =>
    if ((s.tile t).eng e).pending.isSome then s.hold t .cfgw w .dispatch
    else
      match s.writeReg t e off ((s.tile t).sreg (w.imm 0 5)) with
      | (st, s) => if st = stOK then s.retireOk t w else s.failSeq t w st none

/-- `XCT` (R220). -/
def State.seqXct (s : State) (t : Nat) (w : CmdWord) : State :=
  let a := s.seqAddr t w
  if a % 32 ≠ 0 then s.haltAt t w stAlignment
  else if 0x400000 ≤ a then s.haltAt t w stIllegal
  else (s.retireOk t w).modTile t (fun x => { x with xct := some a })

/-- Address past the `ENDLOOP` that matches the loop whose body starts at `a`; none where the store ends first. -/
def State.loopEnd (s : State) (t : Nat) : Nat → Nat → Nat → Option Nat
  | 0, _, _ => none
  | fuel + 1, depth, a =>
    if 0x400000 ≤ a then none
    else
      let code := (s.fetchWord t a).toNat / 2 ^ 246
      if code = 0x011 then (if depth = 0 then some (a + 32) else State.loopEnd s t fuel (depth - 1) (a + 32))
      else State.loopEnd s t fuel (if code = 0x010 then depth + 1 else depth) (a + 32)

/-- `LOOP` (R225). -/
def State.seqLoop (s : State) (t : Nat) (w : CmdWord) : State :=
  let x := s.tile t
  let n := (x.sreg (0x70 + x.loops.length)).toNat
  if n = 0 then
    match s.loopEnd t 131072 0 (x.pc + 32) with
    | none => s.haltAt t w stLoopDepth
    | some a => (s.retireOk t w).modTile t (fun x => { x with pc := a })
  else
    (s.retireOk t w).modTile t (fun y => { y with
      loops := ⟨n, 0, (List.range 16).map (fun i => x.sreg (0x20 + i)), x.pc + 32⟩ :: y.loops })

/-- The A registers after a pass of a loop of level d: strides added. -/
def Tile.addStrides (x : Tile) (d : Nat) : Tile :=
  (List.range 16).foldl (fun y i => y.writeSeq (0x20 + i) (x.sreg (0x20 + i) + x.sreg (0x30 + 4 * i + d))) x
/-- The rewinds at the exit of a loop of level d. -/
def Tile.rewind (x : Tile) (d : Nat) (entry : List (BitVec 64)) : Tile :=
  (List.range 16).foldl (fun y i =>
    if (x.sreg (0x80 + i)).toNat.testBit d then y.writeSeq (0x20 + i) (entry.getD i 0#64) else y) x

/-- `ENDLOOP` (R225). -/
def State.seqEndloop (s : State) (t : Nat) (w : CmdWord) : State :=
  match (s.tile t).loops with
  | [] => s.haltAt t w stLoopDepth
  | l :: ls =>
    let d := ls.length
    let s := (s.modTile t (fun x => x.addStrides d)).retireOk t w
    if l.iter + 1 < l.count then
      s.modTile t (fun x => { x with pc := l.body, loops := { l with iter := l.iter + 1 } :: ls })
    else s.modTile t (fun x => { (x.rewind d l.entry) with loops := ls })

/-- The drain that `END` and `STEP_END` share (R39, R220, R340, R374): engines idle, the implied fence and the implied
collective wait, whose flags the tile mover commits (R325, R340). None while it goes on; else the failing status, if any. -/
def State.drained (s : State) (t : Nat) : Option (Status × State) :=
  let x := s.tile t
  if !x.enginesIdle then none
  else
    match s.finishFence x.jobOf (postedIssuer t) (fun _ => true) with
    | none => none
    | some (st, fl, _, s1) =>
      let s1 := s1.modTile t (fun x => x.raiseFlags fl)
      if st ≠ stOK then some (st, s1)
      else (s1.finishColls x.jobOf t).map (fun r => (r.1, r.2.2.modTile t (fun x => x.raiseFlags r.2.1)))

/-- `END` ends its stream once everything earlier has completed; a failed implied wait halts instead (R233, R235). -/
def State.tryEnd (s : State) (t : Nat) (w : CmdWord) : State :=
  match s.drained t with
  | none => s
  | some (st, s) =>
    if st ≠ stOK then s.haltAt t w st
    else
      ((s.retireOk t w).modTile t (fun x => { x with mode := .idle, ended := true })).finishStream t .done stOK 0#64

/-- `END` (R220). -/
def State.seqEnd (s : State) (t : Nat) (w : CmdWord) : State := (s.hold t .endStream w .endDrain).tryEnd t w

/-- `STEP_END` (R32, R39): refused at dispatch once the counter is at its end, else the drain begins. -/
def State.seqStepEnd (s : State) (t : Nat) (w : CmdWord) : State :=
  if (s.job (s.tile t).jobOf).step = BitVec.allOnes 64 then s.haltAt t w stRefused
  else s.hold t .stepEnd w .stepDrain

/-- A sequencer command that is dispatched. -/
def State.seqExec (s : State) (t : Nat) (op : Op) (w : CmdWord) : State :=
  match op with
  | .nop => s.retireOk t w
  | .endStream => s.seqEnd t w
  | .seti => s.seqSeti t w
  | .mov => s.seqMov t w
  | .cmp => s.seqCmp t w
  | .pstat => s.seqPstat t w
  | .wait => s.seqWait t w
  | .lds => s.seqLds t w
  | .sts => s.seqSts t w
  | .cfgr => s.seqCfgr t w
  | .cfgw => s.seqCfgw t w
  | .xct => s.seqXct t w
  | .loop => s.seqLoop t w
  | .endloop => s.seqEndloop t w
  | .stepEnd => s.seqStepEnd t w
  | .stepGet => s.seqStepGet t w
  | _ => s.seqAlu t w

/-! ## An instance reaches its sequencer -/

/-- Checks 4 and 5 on an instance that its predicate skips: a word reached through `XCT` undergoes them all the same
(R244). -/
def State.lateCheck (s : State) (t : Nat) (op : Op) (w : CmdWord) : Option Status :=
  if (s.tile t).xct.isNone then none
  else if op.engine = .sq then
    if (op == .lds || op == .sts) && s.seqAddr t w % 8 ≠ 0 then some stAlignment else none
  else
    match s.mkCmd t (s.tile t).jobOf op w with
    | none => some stDescBad
    | some c => s.dispatchCheck t (s.tile t).jobOf false c

/-- Tags, predicate and dispatch of an instance past its checks (R227, R228). -/
def State.takeIn (s : State) (t : Nat) (op : Op) (w : CmdWord) : State :=
  let x := s.tile t
  if w.tag ≠ 0#16 && (x.tagAt w.tag).pending then s.hold t op w .dispatch
  else if !x.predicate w then
    match s.lateCheck t op w with
    | some st => s.haltAt t w st
    | none => s.retireSeq t w .skipped stSkipped
  else if op.engine = .sq then s.seqExec t op w
  else s.dispatch t op w

/-- A command instance of a stream: nothing where the sequencer cannot take one; else shadowed values take effect, then
the breakpoint test, the checks, and the way on. -/
def State.issue (s : State) (t : Nat) (op : Op) (w : CmdWord) : State :=
  if !(s.tile t).ready then s
  else
    let s := s.modTile t (fun x => x.boundary .sq)
    let x := s.tile t
    if x.breaks w && !x.skipBreak then s.hold t op w .dispatch
    else
      match s.wordCheck t op w with
      | some st => s.haltAt t w st
      | none => s.takeIn t op w

/-- A word that is no command halts its sequencer (R210). -/
def State.illegalWord (s : State) (t : Nat) (b : BitVec 256) : State :=
  if !(s.tile t).ready then s else s.haltAt t (wordFields b) stIllegal

/-- A dispatched instance of the sequencer that waits is taken up again: it is no new dispatch, so that no shadowed value
takes effect and no test comes again (R10, R241). -/
def State.resume (s : State) (t : Nat) : State :=
  match (s.tile t).held.bind Instr.streamOf with
  | some (op, _, w) => (s.modTile t (fun x => { x with wait := .none, held := none })).seqExec t op w
  | none => s

/-- Issuing again what a sequencer holds at its dispatch point. -/
def State.reissue (s : State) (t : Nat) : State :=
  match (s.tile t).held.bind Instr.streamOf with
  | some (op, _, w) => (s.modTile t (fun x => { x with wait := .none, held := none })).issue t op w
  | none => s

/-- What a sequencer's wait may have come to (R222, R229, R234): a `WAIT` or `PSTAT` first, then a halt. `STEP_END` waits for
its own event. -/
def State.seqWake (s : State) (t : Nat) : State :=
  let s := (if (s.tile t).wait == .condition then s.resume t else s).settleHalt t
  let x := s.tile t
  if x.haltPending.isSome then s
  else
    match x.wait, x.held.bind Instr.streamOf with
    | .endDrain, some (_, _, w) => s.tryEnd t w
    | _, _ => s

/-! ## Pages that running commands hold (R185, R250) -/

/-- The pages of a tensor: its elements, its scale records, and its calibration record. -/
def Desc.pages (d : Desc) : List Nat :=
  let scales := if d.skind = 0 then []
    else d.all.flatMap (fun e => vaRange (d.scalePtr + (d.scaleRec e).1 * (d.scaleRec e).2) (d.scaleRec e).1)
  let cal := if d.calibrated then vaRange d.calPtr 576 else []
  dedup ((d.all.flatMap d.bytesOf ++ scales ++ cal).map (fun va => va % 2 ^ 48 / 0x200000))

/-- The pages an operand slot holds. -/
def SlotVal.pages : SlotVal → List Nat
  | .tensor d => d.pages
  | .address a => [a % 2 ^ 48 / 0x200000]
  | _ => []

/-- The slot of a command's destination tensor, whose calibration record it updates. -/
def destSlot (op : Op) : Option Nat :=
  match op.engine with
  | .me => some 2
  | .ve | .ru => some 3
  | .tm =>
    match op with
    | .handoff => some 1
    | .tmCopy | .tmGather | .tmScatter | .tmFill => some 2
    | _ => none
  | _ => none

/-- What a slot names, without the calibration record of a source, which no command reads (R83). -/
def SlotVal.touched (op : Op) (k : Nat) (v : SlotVal) : SlotVal :=
  match v with
  | .tensor d => if destSlot op = some k then v else .tensor { d with calPtr := 0 }
  | v => v

/-- Records of the solver and the update engine name further tensors, so that their commands hold every page. -/
def EngineCmd.holds (c : EngineCmd) (page : Nat) : Bool :=
  c.op.engine = .se || c.op.engine = .ue
    || ([c.s0.touched c.op 0, c.s1.touched c.op 1, c.s2.touched c.op 2, c.s3.touched c.op 3].flatMap SlotVal.pages).contains page || ((c.mask.map Desc.pages).getD []).contains page

/-- A running command or a collective of a job holds a page. -/
def State.pageHeld (s : State) (j page : Nat) : Bool :=
  (s.job j).pinnedPages.contains page
    || (s.job j).tiles.any (fun t => (s.tile t).engines.any (fun e => e.2.running.any (fun r => r.cmd.holds page)))

/-- A source side that stands, sending or suspended. -/
def Mirror.isSource (m : Mirror) : Bool := m.state = 1 || m.state = 2 || m.state = 3

/-- A cut copies or sends its manifest. -/
def Cut.active (c : Cut) : Bool := c.state = 2 || c.state = 3

/-- A page of regions given by base and size. -/
def inRegions (rs : List (Nat × Nat)) (page : Nat) : Bool :=
  rs.any (fun r => decide (r.1 / 0x200000 ≤ page) && decide (page < (r.1 + r.2) / 0x200000))

/-- A page that may not be unmapped: of a source region (R385), or of a cut that is pending or copying (R403). -/
def Job.pageKept (jb : Job) (page : Nat) : Bool :=
  (jb.mirror.isSource && inRegions jb.mirror.regions page)
    || ((jb.cut.state = 1 || jb.cut.active) && inRegions (jb.cut.regions.map (fun r => (r.base, r.size))) page)

/-- An `UNMAP` whose pages nobody holds any more unmaps them and ends (R250); one of a page that may no longer be unmapped fails
(R385, R403). -/
def State.unmapReady (s : State) (j : Nat) : State :=
  (s.job j).unmapItems.foldl (fun s u =>
    let pages := (List.range u.2.2).map (fun i => u.2.1 + i)
    if pages.any (s.job j).pageKept then
      (s.modJob j (fun jb => { jb with unmapItems := jb.unmapItems.filter (fun x => x ≠ u) })).finishItem u.1 .failed
        stNotPermitted 0xFFFF 0#64
    else if pages.any (s.pageHeld j) then s
    else
      (s.modJob j (fun jb => { jb with
        uncached := dedup (jb.uncached ++ (pages.map (fun p => SMap.get {} jb.pages p)).filterMap (fun e =>
          if e.mapped && e.cache then some e.frame else none))
        pages := pages.foldl (fun m p => SMap.set {} m p {}) jb.pages
        unmapItems := jb.unmapItems.filter (fun x => x ≠ u) })).finishItem u.1 .done stOK 0xFFFF 0#64) s

/-- Every wait of a job's tiles (R329, R340, R374). -/
def State.jobWake (s : State) (j : Nat) : State :=
  let s := s.fabWake j
  ((s.job j).tiles.foldl (fun s t => s.seqWake t) s).unmapReady j

/-! ## Retirement of engine commands (R111, R222, R233) -/

/-- Effects on the registers of an engine. -/
def Tile.regEff (x : Tile) (e : Engine) (r : RegEff) : Tile :=
  x.setReg e r.off (if r.add then addField (x.reg e r.off) r.lo r.len r.v else setField (x.reg e r.off) r.lo r.len r.v)

/-- `TM_FAULT` and `TM_FAULT_ADDR` of a failed tile-mover command (Table 9.14). -/
def tmFaultRegs (e : Engine) (r : CmdResult) : List RegEff :=
  if e = .tm && r.outcome == .failed then
    [⟨0x20, 0, 32, false, r.elem⟩, ⟨0x20, 32, 16, false, r.status.toNat⟩]
      ++ (if r.status = stTranslation || r.status = stTileLost then [⟨0x28, 0, 48, false, r.addr⟩] else [])
  else []

/-- The busy counter of an engine and the cycles it gained, which the spec does not fix (log 8). Cycles stalled on a full
queue are gained only by a command that met one (R129). -/
def busyRegs (e : Engine) (full : Bool) (free : Nat → Nat) : List RegEff :=
  match e with
  | .me => [⟨0x10, 0, 48, true, free 0 % 2 ^ 48⟩, ⟨0x18, 0, 48, true, free 1 % 2 ^ 48⟩]
      ++ (if full then [⟨0x28, 16, 48, true, free 2 % 2 ^ 48⟩] else [])
  | .de | .ve | .ru | .ue | .tm => [⟨0x10, 0, 48, true, free 0 % 2 ^ 48⟩]
  | _ => []

/-- Straggler passes of the last command (R105 Table 4.4). -/
def Tile.stragglers (x : Tile) (e : Engine) (n : Nat) : Tile :=
  match e with
  | .me | .de | .ru =>
    x.setReg e 0x08 (setField (addField (x.reg e 0x08) 0 48 n) 48 16 (min 0xFFFF n))
  | _ => x

/-- What a solver command adds to the busy counters of the engines it uses (R154, Table 6.15), free values (log 8), and to their
counts of straggler passes (R105): those of its panel updates to the DE's, those of its residuals to the RU's. -/
def solverBusy (x : Tile) (r : CmdResult) (free : Nat → Nat) : Tile :=
  let x := (x.countReg .de 0x10 0 48 (free 0 % 2 ^ 48)).countReg .dsu 0x10 0 48 (free 1 % 2 ^ 48)
  (x.stragglers .de r.passes).stragglers .ru r.ruPasses

/-- The tile after a command of an engine retires: flags, registers, S registers, tag, counts and the engine's boundary. -/
def Tile.retireCmd (x : Tile) (e : Engine) (c : EngineCmd) (r : CmdResult) (full : Bool) (free : Nat → Nat) : Tile :=
  let x := x.commitFlags e r.flags
  let x := (r.regs ++ tmFaultRegs e r ++ busyRegs e full free).foldl (fun x y => x.regEff e y) x
  let x := if e = .se then solverBusy x r free else x
  let x := x.stragglers e r.passes
  let x := r.sres.foldl (fun x v => x.writeSeq v.1 v.2) x
  let x := if cascMaster c.op c.w || cascMember c.op then x.showCascade e 0 0 0 else x
  let x := (x.endTag c.w.tag r.outcome r.status).countRetired
  (x.setEng e { (x.eng e) with running := none }).boundary e

/-- A command retires with a result; then halts and waits are settled. -/
def State.retireWith (s : State) (t : Nat) (e : Engine) (run : Running) (r : CmdResult) : State :=
  let c := run.cmd
  let free (k : Nat) : Nat := (Config.freeWord (s.fresh + k)).toNat
  let s := { s.modTile t (fun x => x.retireCmd e c r run.full free) with fresh := s.fresh + 4 }
  let elem := if c.op == .tmGather then some r.elem else none
  let s := if r.outcome == .failed && haltsOn r.status then s.halt t ⟨r.status, c.addr, c.ordinal, c.w.tag, true, some r.addr, elem⟩ else s
  (s.seqWake t).unmapReady (s.tile t).jobOf

/-- The solver work of a command that retires now. -/
def State.solveNow (s : State) (t : Nat) (c : EngineCmd) : Stage × State :=
  s.guardHold (s.watched (c.agent t) (fun s => s.steady t (s.tile t).jobOf c (fun s => s.solverWork t (s.tile t).jobOf c)))

/-- A command's work is done, or its retirement does it, and no straggler pass is left. -/
def Running.settled (r : Running) : Bool :=
  match r.stage with
  | .ready _ => r.passesLeft = 0
  | .solved => true
  | _ => false

/-- A command that belongs to no cascade retires once its work and straggler passes are done. -/
def State.retireOne (s : State) (t : Nat) (e : Engine) (run : Running) : State :=
  match run.stage with
  | .ready r => if run.passesLeft ≠ 0 then s else s.retireWith t e run r
  | .solved =>
    match s.solveNow t run.cmd with
    | (.ready r, s) => s.retireWith t e run r
    | (st, s) => s.putStage t e run st
  | _ => s

/-- A tile's share of the straggler passes of a solver cascade of several tiles is open: free values up to the cascade's (log 145). -/
def State.shareOf (s : State) (alone : Bool) (r : CmdResult) : CmdResult :=
  if alone then r
  else { r with passes := Config.cycles s.fresh % (r.passes + 1), ruPasses := Config.cycles (s.fresh + 1) % (r.ruPasses + 1) }

/-- The commands of a cascade retire together, once all of them are done: their outcome is one (R140, log 118). A solver
cascade whose master meets a page fault or a full guard area now waits for its start again. DESIGN CHOICE (log 140): a solver
cascade's flags are committed by the master's engine alone. -/
def State.retireAll (s : State) (e : Engine) (m : Nat) (members : List Nat) : State :=
  let ready (q : Nat) : Bool := match s.runningOf q e with | some x => x.settled | none => true
  match s.runningOf m e with
  | none => s
  | some run =>
    if !members.all ready then s
    else if run.stage == .solved then
      match s.solveNow m run.cmd with
      | (.ready res, s) =>
        members.foldl (fun s q =>
          match s.runningOf q e with
          | some x =>
            let r := if q = m then res else { memberResult res 0#4 res.passes with ruPasses := res.ruPasses }
            (s.draws 2).retireWith q e x (s.shareOf (members.length ≤ 1) r)
          | none => s) s
      | (st, s) =>
        members.foldl (fun s q =>
          match s.runningOf q e with
          | some x => s.putStage q e x (if q = m then st else .cascade)
          | none => s) s
    else
      members.foldl (fun s q =>
        match s.runningOf q e with
        | some x => s.retireOne q e x
        | none => s) s

/-- `COMMAND_RETIRE`: a command retires, with its whole cascade where it belongs to one. -/
def State.retireEngine (s : State) (t : Nat) (e : Engine) : State :=
  match s.runningOf t e with
  | none => s
  | some run =>
    match s.cascadeOf t e with
    | some (m, members) => s.retireAll e m members
    | none => s.retireOne t e run

/-- `PENDING_START`: the pending command starts on an idle engine (R222). -/
def State.startPending (s : State) (t : Nat) (e : Engine) : State :=
  let x := s.tile t
  match x.unitFree e, (x.eng e).pending with
  | true, some c => ((s.modTile t (fun x => x.setEng e { (x.eng e) with pending := none })).regWritesReady t e).start t c
  | _, _ => s

end Sys2Proof.Machine
end

