-- ==== Sys2Proof/Machine/Events.lean ====
section
/-! DEFINITION. Events.lean: the events of a tile's engines and sequencer (starts, retirements, chunks, stragglers, faults,
breakpoints, cascades, queues, forwarding, epilogues, deadlines) and the writes of registers (R9 to R13). An event that
cannot occur in the state it meets changes nothing (log 25). -/

namespace Sys2Proof.Machine

open Sys2Proof

/-! ## Engines -/

/-- `PENDING_START` (R222). -/
def execPendingStart (t : Nat) (e : Engine) (s : State) : Reply := .next (s.startPending t e)

/-- `DISPATCH_RESUME` (R221): an instance held at the dispatch point is tried again, and register writes that waited behind a
`CFGW` follow it (R240). -/
def execDispatchResume (t : Nat) (s : State) : Reply :=
  .next (if (s.tile t).wait == .dispatch then (s.reissue t).regWritesBehind t else s)

/-- `COMMAND_RETIRE` (R111). -/
def execCommandRetire (t : Nat) (e : Engine) (s : State) : Reply := .next (s.retireEngine t e)

/-- `CHUNK_END` (R231): the running command goes on in a further chunk, its state intact. -/
def execChunkEnd (t : Nat) (e : Engine) (s : State) : Reply :=
  .next (match s.runningOf t e with
    | some r => s.setRunning t e (some { r with chunks := r.chunks + 1 })
    | none => s)

/-- A queued command whose straggler passes are all done pushes the tiles that they held (R127). -/
def State.pushLate (s : State) (t : Nat) (e : Engine) : State :=
  match s.runningOf t e with
  | none => s
  | some run =>
    match run.stage with
    | .queue left (x :: xs) r =>
      if run.passesLeft = 0 then
        let (st, s) := s.queueStage t (left ++ x :: xs) [] run.cmd.w.tag r
        s.putStage t e run st
      else s
    | _ => s

/-- `STRAGGLER_PASS` (R103): one of the passes a command still has to run is done. -/
def execStragglerPass (t : Nat) (e : Engine) (s : State) : Reply :=
  .next (match s.runningOf t e with
    | some r => (s.setRunning t e (some { r with passesLeft := r.passesLeft - 1 })).pushLate t e
    | none => s)

/-- `CASCADE_START` (R136). -/
def execCascadeStart (cls : Engine) (die cid : Nat) (s : State) : Reply := .next (s.startCascade cls die cid)

/-- `QUEUE_RESUME` (R129): a matrix command that holds finished tiles pushes on as far as the queue has room. -/
def execQueueResume (t : Nat) (s : State) : Reply :=
  .next (match s.runningOf t .me with
    | none => s
    | some run =>
      match run.stage with
      | .queue left late r =>
        let (st, s) := s.queueStage t left late run.cmd.w.tag r
        s.putStage t .me run st
      | _ => s)

/-- `FORWARD_RESUME` (R153): the vector engine takes what it can, and the DSU fills the buffer on. -/
def execForwardResume (t : Nat) (s : State) : Reply :=
  let s := s.takeForwarded t
  .next (match s.runningOf t .dsu with
    | none => s
    | some run =>
      match run.stage with
      | .forward next r =>
        let (st, s) := s.dsuForward t (s.tile t).jobOf run.cmd next r
        (s.putStage t .dsu run st).takeForwarded t
      | _ => s)

/-- Restart counters (Tables 7.11, 9.14). -/
def restartReg (e : Engine) : Option Nat :=
  match e with
  | .ve | .ru | .tm => some 0x18
  | .ue => some 0x20
  | _ => none

/-- One more restart of a command (R186). -/
def State.countRestart (s : State) (t : Nat) (e : Engine) : State :=
  match restartReg e with
  | some off => s.modTile t (fun x => x.countReg e off 0 48 1)
  | none => s

/-- Faults that Skeka still resolves for a command: at most four on the engines of R186. -/
def faultsLeft (e : Engine) (r : Running) : Bool := (restartReg e).isNone || decide (r.restarts < 4)

/-- `EPI_TILE` (R190). A page fault is resolved with the tile it meets, or fails the command; a full guard area leaves the
entry in the queue. -/
def execEpiTile (t : Nat) (s : State) : Reply :=
  .next (match s.runningOf t .ve with
    | none => s
    | some run =>
      match run.stage with
      | .epilogue done r =>
        if (s.tile t).ftq.isEmpty then s
        else
          let j := (s.tile t).jobOf
          let (st, s') := s.watched (run.cmd.agent t) (fun s => s.steady t j run.cmd (fun s => s.epiTile t j run.cmd done r))
          match st with
          | .fault va _ =>
            match s.resolveFault j va with
            | some s1 =>
              if faultsLeft .ve run then
                (s1.countRestart t .ve).setRunning t .ve (some { run with restarts := run.restarts + 1 })
              else s.putStage t .ve run (.ready { failResult stTranslation va with flags := r.flags })
            | none => s.putStage t .ve run (.ready { failResult stTranslation va with flags := r.flags })
          | st => if s'.store.guardFull then (s.guardHold (st, s')).2 else s.workedTo s' t .ve run st
      | _ => s)

/-- The timebase is at least a deadline (the event that says so asserts it). -/
def State.passTo (s : State) (d : BitVec 64) : State :=
  { s with clk := { s.clk with timebase := if s.clk.timebase.ult d then d else s.clk.timebase } }

/-- `WAIT_DEADLINE_PASSED` (R329). -/
def execWaitDeadlinePassed (t : Nat) (s : State) : Reply :=
  .next (match s.runningOf t .tm with
    | none => s
    | some run =>
      let c := run.cmd
      if run.stage == .fabric && (c.op == .fbWait || c.op == .fbRecv) && c.w.dsel ≠ 0#8 then
        (s.passTo c.deadline).rework t .tm run
      else s)

/-! ## Breakpoints and faults -/

/-- `BREAK_HIT` (R236). -/
def execBreakHit (t : Nat) (s : State) : Reply :=
  let x := s.tile t
  .next (match x.held.bind Instr.streamOf with
    | some (_, _, w) =>
      if x.wait == .dispatch && x.haltPending.isNone && x.breaks w && !x.skipBreak && x.enginesIdle then
        s.haltAt t w stBreakHit
      else s
    | none => s)

/-- `TRANSLATION_FAULT` (R249): Skeka resolves the fault from the pool, or it fails. -/
def State.translationFault (s : State) (t : Nat) (e : Engine) : State :=
  let x := s.tile t
  let j := x.jobOf
  if e = .sq then
    match x.wait, x.held.bind Instr.streamOf with
    | .fault va, some (_, _, w) =>
      match s.resolveFault j va with
      | some s => (s.resume t).seqWake t
      | none => s.failSeq t w stTranslation (some va)
    | _, _ => s
  else
    match s.runningOf t e with
    | none => s
    | some run =>
      match run.stage with
      | .fault va _ =>
        match (if faultsLeft e run then s.resolveFault j va else none) with
        | some s => s.setRunning t e (some { run with stage := .resolved })
        | none => s.failCmd t e run stTranslation va
      | _ => s

def execTranslationFault (t : Nat) (e : Engine) (s : State) : Reply := .next (s.translationFault t e)

/-- `FAULT_RESTART` (R186). -/
def execFaultRestart (t : Nat) (e : Engine) (s : State) : Reply :=
  .next (match s.runningOf t e with
    | none => s
    | some run =>
      if run.stage == .resolved then
        (s.countRestart t e).restartCmd t e { run with restarts := run.restarts + 1 }
      else s)

/-! ## Writes of registers (R9 to R13, R112, R239 to R241) -/

/-- A register of a tile's page can be written: the tile and its engine are there. -/
def State.pageHere (s : State) (t : Nat) (e : Engine) : Bool := (s.tile t).avail && s.engPresent e

/-- A write that a busy engine rejects returns its status to the writer (R13). -/
def State.returns (s : State) (st : Status) : State := if st = stBusy then s.emit (.returned st) else s

/-- A write of a tile's register whose engine is there. -/
def State.pageWrite (s : State) (t : Nat) (e : Engine) (off : Nat) (v : BitVec 64) : State :=
  if s.pageHere t e then
    match s.writeReg t e off v with
    | (st, s) => s.returns st
  else s

/-- `ENG_FLAGS_WRITE` (R112): the named bits clear; a commit in the same cycle comes after. -/
def execEngFlagsWrite (t : Nat) (e : Engine) (v : BitVec 64) (racing : Bool) (s : State) : Reply :=
  let s := s.pageWrite t e 0x00 v
  .next (if racing then s.retireEngine t e else s)

/-- `ENG_GEN_WRITE` (R11). -/
def execEngGenWrite (t : Nat) (e : Engine) (v : BitVec 64) (s : State) : Reply := .next (s.pageWrite t e 0xF8 v)

/-- The register at an offset has fields of a kind of access. -/
def hasFields (e : Engine) (off : Nat) (p : AccessCode → Bool) : Bool :=
  match regAt e off with
  | some r => r.fields.any (fun f => p f.acc)
  | none => false

/-- `RWS_WRITE` (R10). -/
def execRwsWrite (t : Nat) (e : Engine) (off : Nat) (v : BitVec 64) (s : State) : Reply :=
  .next (if hasFields e off AccessCode.isShadow then s.pageWrite t e off v else s)

/-- `RWC_WRITE` (R11). -/
def execRwcWrite (t : Nat) (e : Engine) (off : Nat) (v : BitVec 64) (s : State) : Reply :=
  .next (if hasFields e off AccessCode.isCommitted then s.pageWrite t e off v else s)

/-- A job context that owns a region of a die runs (R13, R251). DESIGN CHOICE (log 136): the spec does not say whether a context
that is set up and not started, has ended or stands at a boundary runs; here each one whose PHASE is not 0 does. -/
def State.pantryBusy (s : State) (d : Nat) : Bool :=
  (List.range 16).any (fun n =>
    let r := SMap.get 0#24 s.store.panRegs (16 * d + n)
    panField r 19 1 = 1 && (s.job (panField r 20 4)).phase ≠ 0)

/-- Writing a pantry region register: staged, and refused while the die is busy (R13, R251). -/
def State.pantryWrite (s : State) (d n : Nat) (v : BitVec 64) : State :=
  if 16 ≤ n || 8 ≤ d then s
  else if s.pantryBusy d then s.returns stBusy
  else s.withStore { s.store with
    panStaged := SMap.set none s.store.panStaged (16 * d + n) (some (BitVec.ofNat 24 v.toNat)) }

/-- `PAN_GEN`, which is not static: the die's staged regions are committed (R11, R251). -/
def State.pantryCommit (s : State) (d : Nat) : State :=
  let mine := s.store.panStaged.filter (fun k => k.1 / 16 = d)
  let regs := mine.foldl (fun m k =>
    match k.2 with
    | some v => SMap.set 0#24 m k.1 v
    | none => m) s.store.panRegs
  s.withStore { s.store with
    panRegs := regs
    panStaged := s.store.panStaged.filter (fun k => k.1 / 16 ≠ d)
    panGen := SMap.set 0 s.store.panGen d ((SMap.get 0 s.store.panGen d + 1) % 2 ^ 32) }

/-- An access that reaches the block: on a port that is there, and under the IDE lock on a stream in the secure state (R463). -/
def State.tlpPasses (s : State) (p : Port) (stream : Option Nat) : Bool :=
  !(s.portOf p).lost && (!s.attic.ideLock || stream.any (fun n => (SMap.get {} (s.portOf p).ide n).secure))

/-- A write of the MSI-X table (R284, R300); a vector that is unmasked while pending sends its message, as PCIe has it.
The table is held as its difference from the reset table, in which every vector is masked. -/
def State.msixWrite (s : State) (p : Port) (k : Nat) (v : BitVec 64) : State :=
  let v' := if k % 2 = 1 then v ^^^ 0x100000000#64 else v
  let s := s.modPort p (fun q => { q with msixTable := SMap.set 0#64 q.msixTable k v' })
  let q := s.portOf p
  if k % 2 = 1 && fieldOf q.msixPending (k / 2) 1 = 1 && fieldOf v 32 1 = 0 then
    (s.setPort p { q with msixPending := setField q.msixPending (k / 2) 1 0 }).msix p (k / 2)
  else s

/-- A write of 8 bytes of the MSI-X table, or of the half of an entry at a multiple of 4, where it reaches the block (R463, R486). -/
def State.tableWrite (s : State) (p : Port) (off : Nat) (half : Bool) (stream : Option Nat) (v : BitVec 64) : State :=
  let k := (off - 0xF0000) / 8
  if !(0xF0000 ≤ off && off < 0xF0400 && off % (if half then 4 else 8) = 0) || !(s.tlpPasses p stream) then s
  else if half then s.msixWrite p k (setField (s.pageWord p (off / 8 * 8)) (8 * (off % 8)) 32 (v.toNat % 2 ^ 32))
  else s.msixWrite p k v

/-- A stream's settings in the configuration space of its port. -/
def State.ideConfig (s : State) (p : Port) (n : Nat) (f : IdeStream → IdeStream) : State :=
  if n < 4 then s.modPort p (fun q => { q with ide := SMap.modify {} q.ide n f }) else s

/-- `REGISTER_WRITE` (R9): a tile's register, a pantry region, the MSI-X table, or the command register of a port, whose
bit 2 is Bus Master Enable (R282), the control register of its Resizable BAR, whose bits [13:8] are the size of BAR4 as PCIe
codes it, 10 for 1 GiB to 18 for 256 GiB (log 125), or the address association of a stream, as its lowest and highest address
(R463, log 131). Any other BAR2 write is discarded (R284). -/
def execRegisterWrite (target : RegTarget) (v : BitVec 64) (s : State) : Reply :=
  .next (match target with
    | .page t e off => s.pageWrite t e off v
    | .bar2 p off half stream => s.tableWrite p off half stream v
    | .pantry d n => s.pantryWrite d n v
    | .pantryGen d => s.pantryCommit d
    | .command p => s.modPort p (fun q => { q with busMaster := fieldOf v 2 1 = 1 })
    | .barSize p =>
      let n := fieldOf v 8 6
      if 10 ≤ n && n ≤ 18 then s.modPort p (fun q => { q with barGib := 2 ^ (n - 10) }) else s
    | .ideBase p n => s.ideConfig p n (fun x => { x with base := v })
    | .ideLimit p n => s.ideConfig p n (fun x => { x with limit := v }))

end Sys2Proof.Machine
end

