-- ==== Sys2Proof/Machine/HostPort.lean ====
section
/-! DEFINITION. HostPort.lean: what a host does through its port, in the order of PCIe (R286): the cellar window BAR4 (R246, R253,
R262, R266, R285), the boot buffer that it reaches in recovery (R449), and the slots it seals (R289, R291), under the IDE lock
where that is fused (R463). -/

namespace Sys2Proof.Machine

open Sys2Proof

/-! ## Pantry policies (Table 9.4) -/

/-- The policies of a job's cache regions on a die. -/
def Store.policies (st : Store) (j d : Nat) : List Nat :=
  (List.range 16).filterMap (fun n =>
    let r := SMap.get 0#24 st.panRegs (16 * d + n)
    if panField r 19 1 = 1 && panField r 16 1 = 1 && panField r 20 4 = j then some (panField r 17 2) else none)

/-- The policy a line follows: that of the region which holds it on its home die. Where the die has several regions of
the job, which of them holds the line is the hash's (log 27). -/
def Store.policyOf (st : Store) (j blk : Nat) : Nat :=
  match st.homeDie j (blk * 4096) with
  | none => 0
  | some d =>
    let ps := st.policies j d
    ps.getD (Config.pantryHome blk % max 1 ps.length) 0

/-- A BAR4 access that breaks R253: to a block of a CACHE page of a context that does not stand stopped at a boundary with a
policy that allows it, `FLUSH` for a write, `CLEAN` or `FLUSH` for a read. -/
def State.cacheBreach (s : State) (write : Bool) (blk : Nat) : Bool :=
  (List.range 16).any (fun j =>
    let jb := s.job j
    jb.phase ≠ 0 && jb.pages.any (fun e => e.2.mapped && e.2.cache && e.2.frame = blk / 512)
      && !(jb.phase = 3 && (s.store.policyOf j blk = 2 || (!write && s.store.policyOf j blk = 1))))

/-! ## The cellar window -/

/-- The first window offset that BAR4 does not reach (R246). -/
def windowEnd : Nat := 0x3E00000000

/-- Where a port's window ends: at the cellar reserve, or at the size of its BAR4 (R284). -/
def State.windowSize (s : State) (p : Port) : Nat := min windowEnd ((s.portOf p).barGib * 2 ^ 30)


/-- The hearth of a port waits for a recovery image (R449). -/
def State.recovering (s : State) (p : Port) : Bool := (s.hearth (hearthOf p)).bootState = 1

/-- Bytes of the boot buffer. -/
def bufferEnd : Nat := 0x1000000

/-- The blocks a run of bytes touches. -/
def blockRun (addr len : Nat) : List Nat := (List.range ((addr + len - 1) / 4096 + 1 - addr / 4096)).map (fun i => addr / 4096 + i)

/-- A failure is logged through AER. -/
def State.logAer (s : State) (p : Port) (addr : Nat) (st : Status) : State := s.modPort p (fun q => { q with aer := q.aer ++ [(addr, st)] })

/-- One block of a BAR4 read: verified, not through pantry caches; whether it was bad. -/
def State.windowVerify (p : Port) (x : Bool × State) (blk : Nat) : Bool × State :=
  match x.2.store.verify false blk with
  | (none, st) => (x.1, x.2.withStore st)
  | (some e, st) => (true, (x.2.takeStore st).logAer p (blk * 4096) e)

/-- `BAR4_READ` (R266). The data of a completion with `EP` set is open (log 1), and so are bytes read against R253. -/
def State.windowRead (s : State) (p : Port) (addr len : Nat) (stream : Option Nat) : State :=
  if !(s.tlpPasses p stream) then s.emit (.unsupported p)
  else if s.recovering p && addr + len ≤ bufferEnd then
    s.emit (.completion p ((List.range len).map (fun i => SMap.get 0#8 (s.hearth (hearthOf p)).buffer (addr + i))) false)
  else if !s.sec.ready || s.windowSize p < addr + len then s.emit (.unsupported p)
  else
    let open_ := (blockRun addr len).filter (s.cacheBreach false)
    let (bad, s) := s.instantly none .sq (fun s =>
      let r := (blockRun addr len).foldl (State.windowVerify p) (false, s)
      (r.1, r.2.sawRead ((List.range len).map (fun i => addr + i))))
    if bad then (s.emit (.completion p ((List.range len).map (Config.freeByte s.fresh)) true)).drawn
    else if open_.isEmpty then s.emit (.completion p ((List.range len).map (fun i => s.store.byte false (addr + i))) false)
    else
      (s.emit (.completion p ((List.range len).map (fun i =>
        if open_.contains ((addr + i) / 4096) then Config.freeByte s.fresh i else s.store.byte false (addr + i))) false)).drawn

/-- One block of a BAR4 write: a checked write (R262); one that fails verification is dropped and logged. -/
def State.windowPut (p : Port) (ws : List (Nat × Byte)) (s : State) (blk : Nat) : State :=
  let ws := ws.filter (fun w => decide (w.1 / 4096 = blk))
  match s.store.writeChecked false blk ws with
  | (none, st) => (s.withStore st).sawWrite true blk (ws.map Prod.fst)
  | (some e, st) => (s.takeStore st).logAer p (blk * 4096) e

/-- `BAR4_WRITE` (R262, R266); bytes written against R253 are undefined. A write that meets a full guard area waits for a slot,
and all that comes behind it on its port waits too (R286, R414); one that is tried `again` is counted already. -/
def State.windowWrite (s : State) (p : Port) (again : Bool) (addr : Nat) (data : List Byte) (stream : Option Nat) : State :=
  if !(s.tlpPasses p stream) then s
  else if s.recovering p && addr + data.length ≤ bufferEnd then
    let h := hearthOf p
    s.setHearth h { (s.hearth h) with buffer := SMap.setList 0#8 (s.hearth h).buffer addr data }
  else if !s.sec.ready || s.windowSize p < addr + data.length then s.emit (.unsupported p)
  else
    let pas := (List.range data.length).map (fun i => addr + i)
    let open_ := (blockRun addr data.length).filter (s.cacheBreach true)
    let s' := (s.instantly none .sq (fun s => ((), (blockRun addr data.length).foldl (State.windowPut p (pas.zip data)) s))).2
    if s'.store.guardFull then
      (if again then s else s.guardWait s').modPort p (fun q => { q with posted := [.write addr data stream] })
    else s'.spoil (spansOf (pas.filter (fun a => open_.contains (a / 4096)))) []

/-! ## Seals (R289, R291) -/

/-- A `BAD_SEAL` of a slot, and the content that a write between the seal and the take leaves undefined (R289). -/
def State.sealAgain (s : State) (p : Port) (n : Nat) : State :=
  let x := s.slot p n
  let y : Slot := { x with badSeal := min 0xFFFF (x.badSeal + 1) }
  if x.mode == .sealed then
    (s.setSlot p n { y with
      hdr := (List.range 64).map (Config.freeByte s.fresh), body := (List.range 1984).map (fun i => Config.freeByte s.fresh (64 + i)) }).drawn
  else s.setSlot p n y

/-- `SEAL_WRITE` (R291): header, body and seal word of a FREE slot, which come on one stream (R463); a word of another form is
counted, and before Skeka is ready nothing is reported (R446). -/
def State.sealWrite (s : State) (p : Port) (n : Nat) (hdr body : List Byte) (x : SealWord) : State :=
  let word := x.word
  if !(s.tlpPasses p x.stream) then s
  else
    let x := s.slot p n
    if x.mode == .free then
      let y : Slot := { x with hdr := (hdr ++ zeros 64).take 64, body := body.take 1984 }
      if !s.sec.ready then s.setSlot p n y
      else if word.toNat / 2 ^ 32 = 0x5EA1ED01 && word.toNat % 2 ^ 32 = fieldAt y.hdr 4 4 then
        { (s.setSlot p n { y with mode := .sealed, sealNo := s.sealCount }) with sealCount := s.sealCount + 1 }
      else s.setSlot p n { y with badSeal := min 0xFFFF (x.badSeal + 1) }
    else if !s.sec.ready then s
    else s.sealAgain p n

/-! ## The order of a port (R286) -/

/-- An access takes place; a write is tried for the first time or again. -/
def State.hostAccess (s : State) (p : Port) (again : Bool) : HostAccess → State
  | .read a n enc => s.windowRead p a n enc
  | .write a d enc => s.windowWrite p again a d enc
  | .seal n hdr body word => s.sealWrite p n hdr body word

/-- An access takes place, or waits behind a write of its port that waits. -/
def State.hostOrder (s : State) (p : Port) (x : HostAccess) : State :=
  if (s.portOf p).posted.isEmpty then s.hostAccess p false x
  else s.modPort p (fun q => { q with posted := q.posted ++ [x] })

/-- What waits on a port goes on. -/
def State.drainPort (s : State) (p : Port) : State :=
  match (s.portOf p).posted with
  | [] => s
  | x :: xs =>
    xs.foldl (fun s x => s.hostOrder p x) ((s.modPort p (fun q => { q with posted := [] })).hostAccess p true x)
def State.drainPorts (s : State) : State := (s.drainPort .a).drainPort .b

end Sys2Proof.Machine
end

