-- ==== Sys2Proof/Machine/Boundary.lean ====
section
/-! DEFINITION. Boundary.lean: the step barrier and the boundary actions of Table 2.6 (chapter 2), captures and the
snapshot guard (R413 to R415), and the two sides of a mirror (R385 to R389). -/

namespace Sys2Proof.Machine

open Sys2Proof

/-! ## Blocks of regions -/

/-- The 64 KiB blocks of regions of a job, each as its virtual and its physical address over 64 KiB. -/
def Job.regionBlocks (jb : Job) (rs : List (Nat × Nat)) : List (Nat × Nat) :=
  rs.flatMap (fun r => (List.range (r.2 / 65536)).map (fun i =>
    let v := r.1 / 65536 + i
    (v, (SMap.get {} jb.pages (v / 32)).frame * 32 + v % 32)))

/-- The blocks of a mirror's source regions, and of a cut's regions. -/
def Job.mirrorBlocks (jb : Job) : List (Nat × Nat) := jb.regionBlocks jb.mirror.regions
def Job.cutBlocks (jb : Job) : List (Nat × Nat) := jb.regionBlocks (jb.cut.regions.map (fun r => (r.base, r.size)))

/-- The physical block of a virtual block, and whether accesses to it go through the pantry caches. -/
def State.physBlock (s : State) (j v : Nat) : Nat × Bool :=
  let e := SMap.get {} (s.job j).pages (v / 32)
  (e.frame * 32 + v % 32, e.cache && !(s.store.cacheDies j).isEmpty)

/-! ## Pantry step policy (Table 2.6 order 1) -/

/-- Blocks that the job's pantry caches hold: those of its CACHE pages, unmapped ones too. -/
def State.cachedLines (s : State) (j : Nat) : List Nat :=
  let frames := ((s.job j).pages.filter (fun e => e.2.mapped && e.2.cache)).map (fun e => e.2.frame) ++ (s.job j).uncached
  (s.store.lines.map Prod.fst).filter (fun b => frames.contains (b / 512))

def State.pantryPolicy (s : State) (j : Nat) : State :=
  (s.cachedLines j).foldl (fun s b =>
    match s.store.policyOf j b with
    | 1 => s.withStore (s.store.cleanLine false b)
    | 2 => s.withStore (s.store.cleanLine true b)
    | _ => s) s

/-- Every line of a job's caches written back and dropped (R254, R391, R438). -/
def State.flushCaches (s : State) (j : Nat) : State :=
  (s.cachedLines j).foldl (fun s b => s.withStore (s.store.cleanLine true b)) s

/-! ## Deltas (R386 to R389) -/

def State.modMirror (s : State) (j : Nat) (f : Mirror → Mirror) : State :=
  s.modJob j (fun jb => { jb with mirror := f jb.mirror })

/-- A mirror whose source side is up and not suspended. -/
def Mirror.sending (m : Mirror) : Bool := m.state = 1 || m.state = 2

/-- Mebibytes of a set of 64 KiB blocks, rounded up. -/
def mibOf (blocks : Nat) : Nat := (blocks + 15) / 16

/-- A delta that is abandoned: its whole set goes with the next one. -/
def Mirror.abandon (m : Mirror) : Mirror :=
  match m.delta with
  | none => m
  | some d => { m with delta := none, carried := dedup (m.carried ++ d.blocks), lagging := true }

/-- A delta fails (R388): the cause is recorded and event 5 raised. -/
def State.deltaFails (s : State) (j cause : Nat) : State :=
  (s.modMirror j (fun m => { m.abandon with cause := cause, state := 2, lagging := true })).mbxEvent 5

/-- A source mirror is suspended (R389): its delta, if any, is abandoned. -/
def State.suspendMirror (s : State) (j cause : Nat) : State :=
  if (s.job j).mirror.sending then
    (s.modMirror j (fun m => { m.abandon with cause := cause, state := 3 })).mbxEvent 5
  else s

def State.suspendMirrors (s : State) (cause : Nat) : State :=
  (List.range 16).foldl (fun s j => s.suspendMirror j cause) s

/-- Suspended mirrors go on once the twin is PAIRED and the gallery up (R389). -/
def State.resumeMirrors (s : State) : State :=
  if s.pair.state = 1 && s.pair.galleryUp ≠ 0#32 then
    (List.range 16).foldl (fun s j => s.modMirror j (fun m =>
      if m.state = 3 then { m with state := if m.lagging then 2 else 1 } else m)) s
  else s

/-- The dirty 64 KiB blocks of a job's source regions. -/
def Store.dirtyOf (st : Store) (j : Nat) : List Nat := (st.tracks.filter (fun t => t.job = j)).flatMap Track.dirty
def Store.clearDirty (st : Store) (j : Nat) : Store :=
  { st with tracks := st.tracks.map (fun t => if t.job = j then { t with dirty := [] } else t) }

/-! ## Capture (Table 2.6 order 3, R404) -/

/-- The delta of boundary `n`: formed of dirty and carried blocks; not sent where it exceeds the log. -/
def State.formDelta (s : State) (j : Nat) (n : BitVec 64) : List Nat × State :=
  let jb := s.job j
  let dirty := s.store.dirtyOf j
  let all := jb.mirrorBlocks.filter (fun b => dirty.contains b.2 || jb.mirror.carried.contains b.1)
  let set := all.map Prod.fst
  let s := s.modMirror j (fun m => { m with deltaMib := mibOf set.length, carried := [] })
  let s := s.withStore (s.store.clearDirty j)
  if jb.mirror.logBytes < 65536 * set.length then
    ([], (s.modMirror j (fun m => { m with
      carried := set, lagging := true, state := 2, cause := 1 })).mbxEvent 5)
  else (all.map Prod.snd, s.modMirror j (fun m => { m with delta := some ⟨n, set, set, false⟩ }))

/-- A cut of boundary `n` is due. -/
def Cut.due (c : Cut) (n : BitVec 64) : Bool := c.state = 1 && c.boundary = n

/-- The capture of boundary `n`: for a cut that is due, and for a delta where one is asked for. -/
def State.capture (s : State) (j : Nat) (n : BitVec 64) (delta : Bool) : State :=
  let (dl, s) := if delta && (s.job j).mirror.sending then s.formDelta j n else ([], s)
  let jb := s.job j
  let due := jb.cut.due n
  let cut := if due then jb.cutBlocks.map Prod.snd else []
  let s := if due then s.modJob j (fun jb => { jb with cut := { jb.cut with state := 2, next := 0 } }) else s
  if due || (delta && jb.mirror.delta.isSome) then
    s.withStore { s.store with captures := s.store.captures ++ [⟨j, n, cut, dl, []⟩] }
  else s

/-- A capture whose cut and delta are over (R415). -/
def State.captureOver (s : State) (c : Capture) : Bool :=
  let jb := s.job c.job
  !((jb.cut.state = 2 || jb.cut.state = 3) && jb.cut.boundary = c.boundary)
    && !(jb.mirror.delta.any (fun d => d.boundary = c.boundary))

/-- Captures of a job that are over release their blocks. -/
def State.endCaptures (s : State) (j : Nat) : State :=
  s.withStore { s.store with captures := s.store.captures.filter (fun c => !(c.job = j && s.captureOver c)) }

/-- A block read by the cut's or the delta's copier is pending for it no longer; its saved copy frees with the last. -/
def Capture.read (c : Capture) (cut : Bool) (b : Nat) : Capture :=
  let c := if cut then { c with cut := c.cut.filter (· ≠ b) } else { c with delta := c.delta.filter (· ≠ b) }
  if c.cut.contains b || c.delta.contains b then c
  else { c with saved := c.saved.filter (fun x => x.block ≠ b) }

def State.blockRead (s : State) (j : Nat) (n : BitVec 64) (cut : Bool) (b : Nat) : State :=
  s.withStore { s.store with
    captures := s.store.captures.map (fun c => if c.job = j && c.boundary = n then c.read cut b else c) }

/-- What a copier reads of a block (R405, R413): its bytes, or the status and 4 KiB block address it fails with. -/
abbrev BlockRead := Except (Status × Nat) (List Byte)

/-- The first 4 KiB block of a saved copy that is poisoned or whose check fails. -/
def SavedBlock.bad (x : SavedBlock) : Option (Status × Nat) :=
  x.stale.findSome? (fun k =>
    if x.poison.contains k.1 then some (stPoisoned, k.1 * 4096)
    else
      match k.2 with
      | none => none
      | some c => if blockCheck x.bytes k.1 = c then none else some (stChecksum, k.1 * 4096))

/-- A 4 KiB block of a saved copy fails its check: it becomes poisoned there, and the mismatch is counted and reported (R264). -/
def State.savedBad (s : State) (j : Nat) (n : BitVec 64) (b a : Nat) : State :=
  let hit (x : SavedBlock) : SavedBlock := if x.block = b then { x with poison := x.poison ++ [a / 4096] } else x
  let st := { s.store with captures := s.store.captures.map (fun (c : Capture) =>
    if c.job = j && c.boundary = n then { c with saved := c.saved.map hit } else c) }
  (s.withStore (Store.memCount st 2 48 16)).emit (.telemetry 5 a s.now)

/-- A block as the cut's or the delta's capture of a boundary holds it: its saved copy, or the block itself through its
home die. -/
def State.readCaptured (s : State) (j : Nat) (n : BitVec 64) (cut : Bool) (b : Nat) (cached : Bool) : BlockRead × State :=
  let mine (c : Capture) : Bool := c.job = j && c.boundary = n && (if cut then c.cut else c.delta).contains b
  let saved := (s.store.captures.filter mine).findSome? (fun c => c.saved.find? (fun x => x.block = b))
  match saved with
  | some x =>
    match x.bad with
    | some e => (.error e, if e.1 = stChecksum then s.savedBad j n b e.2 else s)
    | none => (.ok ((List.range 65536).map (fun i => SMap.get 0#8 x.bytes (b * 65536 + i))), s)
  | none =>
    match s.verifyBlocks true ((List.range 16).map (fun i => (b * 16 + i, cached))) with
    | .ok _ s => (.ok ((List.range 65536).map (fun i => s.store.byte cached (b * 65536 + i))), s)
    | .fail st a s => (.error (st, a), s)
    | .fault _ _ s => (.error (stTranslation, b * 65536), s)

/-! ## The barrier (R39, R40) -/

/-- Every tile of the job waits at `STEP_END`. -/
def State.allArrived (s : State) (j : Nat) : Bool :=
  !(s.job j).tiles.isEmpty && (s.job j).tiles.all (fun t => (s.tile t).wait == .arrived)

/-- A tile's `STEP_END` has drained (R39): it arrives, or halts with the status of its implied waits. -/
def State.arrive (s : State) (t : Nat) : State :=
  let x := s.tile t
  match x.wait, x.held.bind Instr.streamOf with
  | .stepDrain, some (_, _, w) =>
    match s.drained t with
    | none => s
    | some (st, s) =>
      if st ≠ stOK then s.haltAt t w st
      else
        let s := s.modTile t (fun x => { x with wait := .arrived })
        let j := x.jobOf
        if s.allArrived j then s.modJob j (fun jb => { jb with phase := 2 }) else s
  | _, _ => s

/-- One tile released (Table 2.6 order 7): its `STEP_END` retires and writes the counter where it asks. -/
def State.releaseTile (n : BitVec 64) (s : State) (t : Nat) : State :=
  let x := s.tile t
  match x.wait, x.held.bind Instr.streamOf with
  | .arrived, some (_, _, w) => if w.imm 5 1 = 1 then s.retireWrite t w (w.imm 0 5) n else s.retireOk t w
  | _, _ => s

/-- Order 7. -/
def State.release (s : State) (j : Nat) : State :=
  let s := (s.job j).tiles.foldl (State.releaseTile (s.job j).step) s
  s.modJob j (fun jb => { jb with phase := 1, stepTime := s.now })

/-- A die may rotate a tile (R398): it has a spare left and did not rotate within the last second. -/
def State.mayRotate (s : State) (t : Nat) : Bool :=
  let d := s.dieOf t
  let last := SMap.get 0 s.clk.lastRotation d
  SMap.get 0 s.clk.spares d ≠ 0 && (last = 0 || decide (last + 1000000000 ≤ s.now.toNat + 1))

/-- The tile moves to the first spare site of its die; its old site becomes a spare (R398), or is fenced off (R23). -/
def State.moveSite (s : State) (t : Nat) (keep : Bool) : State :=
  let d := s.dieOf t
  match SMap.get [] s.clk.spareSites d with
  | [] => s
  | n :: rest =>
    { s with clk := { s.clk with
      sites := SMap.set 0 s.clk.sites t (n ^^^ s.position t)
      spareSites := SMap.set [] s.clk.spareSites d (if keep then rest ++ [s.siteOf t] else rest) } }

/-- A spare that fails is counted out, and its site serves no more (R398). -/
def State.dropSpare (s : State) (d : Nat) : State :=
  { s with clk := { s.clk with
    spares := SMap.set 0 s.clk.spares d (SMap.get 0 s.clk.spares d - 1)
    spareSites := SMap.set [] s.clk.spareSites d (SMap.get [] s.clk.spareSites d).tail } }

/-- A rotation (R23, R398): every logical value stays; the sites, the count and the time of the die's last rotation
change. Where the spare fails during the copy, which is a free choice (log 130), the rotation is abandoned. -/
def State.rotateTile (s : State) (t : Nat) : State :=
  let fails := s.choice 0
  let s := s.drawn
  if fails then s.dropSpare (s.dieOf t)
  else
    let s := (s.count 0x630 32 32 1).moveSite t true
    { s with clk := { s.clk with lastRotation := SMap.set 0 s.clk.lastRotation (s.dieOf t) (s.now.toNat + 1) } }

/-- Order 5: at most one scheduled tile rotates (R398). Which of several the spec leaves open: the one reported first among
those whose die may rotate (DESIGN CHOICE, log 107). -/
def State.rotateOne (s : State) (j : Nat) : State :=
  match (s.job j).rotate.find? s.mayRotate with
  | none => s
  | some t => (s.rotateTile t).modJob j (fun jb => { jb with rotate := jb.rotate.filter (· ≠ t) })

/-- Order 6: the stop armed for this boundary takes effect. -/
def State.stopHere (s : State) (j : Nat) : State :=
  let item := (s.job j).stopItem
  (s.modJob j (fun jb => { jb with phase := 3, stopAt := BitVec.allOnes 64, stopItem := none })).finishItem? item
    .done stOK 0xFFFF 0#64

/-- Orders 3 to 7, once order 2 has passed. A `STOP_AT` of all ones arms no stop (Table 2.2). -/
def State.advanceStep (s : State) (j : Nat) : State :=
  let n := (s.job j).step + 1#64
  let s := s.capture j n true
  let s := (s.modJob j (fun jb => { jb with step := n })).rotateOne j
  if n ≠ BitVec.allOnes 64 && (s.job j).stopAt = n then s.stopHere j else s.release j

/-- The boundary actions (R40). A delta still on its way keeps the boundary at order 2. -/
def State.boundaryActions (s : State) (j : Nat) : State :=
  if !(s.allArrived j && ((s.job j).phase = 1 || (s.job j).phase = 2)) then s
  else
    let s := (s.modJob j (fun jb => { jb with phase := 2 })).pantryPolicy j
    let m := (s.job j).mirror
    if m.sending && m.delta.isSome then s else s.advanceStep j

/-- `TILE_ARRIVE` (R39). -/
def execTileArrive (t : Nat) (s : State) : Reply := .next (s.arrive t)

/-- `STEP_BOUNDARY` (R40). -/
def execStepBoundary (j : Nat) (s : State) : Reply := .next (s.boundaryActions j)

/-! ## The guard's events (R413 to R415) -/

/-- `GUARD_SAVE` (R413): the pending 64 KiB block of a physical block number is saved for a write that waits. -/
def execGuardSave (block : Nat) (s : State) : Reply :=
  .next (let s' := s.withStore (s.store.guard block); if s'.store.guardFull then s else s')

/-! ## A delta on the source (R386) -/

/-- The CRC-64 of each 4 KiB block of 64 KiB. -/
def blockCrcs (bs : List Byte) : List (BitVec 64) :=
  (List.range 16).map (fun i => BitVec.ofNat 64 (crc64 (slice bs (i * 4096) 4096)))

/-- The commit frame once every block is sent. -/
def State.sendCommit (s : State) (j : Nat) (d : Delta) : State :=
  if !d.todo.isEmpty || d.sentAll then s.modMirror j (fun m => { m with delta := some d })
  else
    (s.modMirror j (fun m => { m with delta := some { d with sentAll := true } })).emit
      (.gallery ⟨(s.job j).mirror.twinCtx, d.boundary, 0, [], [], d.blocks.length⟩)

/-- `MIRROR_DELTA_BLOCK` (R386, R388): the copier sends the next block, or ends the delta; a boundary that waits at order 2
waits for just that (R42). -/
def State.deltaBlock (s : State) (j : Nat) : State :=
  let m := (s.job j).mirror
  match m.delta with
  | none => s
  | some d =>
    if !m.sending then s
    else
      match d.todo with
      | [] => s.sendCommit j d
      | v :: rest =>
        let p := s.physBlock j v
        match s.readCaptured j d.boundary false p.1 p.2 with
        | (.error _, s) => s.deltaFails j 2
        | (.ok bs, s) =>
          let s := (s.blockRead j d.boundary false p.1).emit
            (.gallery ⟨m.twinCtx, d.boundary, v * 65536, bs, blockCrcs bs, 0⟩)
          s.sendCommit j { d with todo := rest }

def execMirrorDeltaBlock (j : Nat) (s : State) : Reply := .next (s.deltaBlock j)

/-- `MIRROR_ACK` (R387): the delta of `n` has committed. -/
def State.deltaAcked (s : State) (j : Nat) (n : BitVec 64) : State :=
  let m := (s.job j).mirror
  match m.delta with
  | none => s
  | some d =>
    if m.sending && d.sentAll && d.boundary = n then
      s.modMirror j (fun m => { m with delta := none, committed := n, lagging := false, state := 1 })
    else s

def execMirrorAck (j : Nat) (n : BitVec 64) (s : State) : Reply := .next (s.deltaAcked j n)

/-! ## The sink (R387) -/

/-- Bytes that the spec leaves open take an area of memory, with valid checks (log 1). -/
def State.freeArea (s : State) (base len : Nat) : State :=
  let put (st : Store) (blk : Nat) : Store :=
    st.putBytes false true blk
      ((List.range 4096).map (fun i => (blk * 4096 + i, Config.freeByte s.fresh (blk * 4096 + i)))) true
  (s.withStore (((List.range (len / 4096)).map (fun i => base / 4096 + i)).foldl put s.store)).drawn

/-- The offset of a source block in the copy (R384): regions follow one another. -/
def copyOffset : List (Nat × Nat) → Nat → Option Nat
  | [], _ => none
  | (b, n) :: rs, va => if b ≤ va && va < b + n then some (va - b) else (copyOffset rs va).map (· + n)

/-- The complete log is applied to the copy (R387). -/
def State.applyLog (s : State) (j : Nat) : State :=
  let m := (s.job j).mirror
  if m.logDone.isNone then s
  else
    let s := m.log.foldl (fun s f =>
      match copyOffset m.regions f.blockVa with
      | some o => (s.writePhys (m.copyBase + o) f.data).2
      | none => s) s
    s.modMirror j (fun m => { m with log := [], logDone := none })

/-- `LOG_APPLY` (R387). -/
def execLogApply (j : Nat) (s : State) : Reply := .next (s.guardWait (s.applyLog j))

/-- The sink side begins. -/
def State.startSink (s : State) (j : Nat) : State :=
  (s.modMirror j (fun m => { m with state := 4, confirmed := true, item := none })).finishItem? (s.job j).mirror.item
    .done stOK 0xFFFF 0#64

/-- A delta that comes shows a sink that has accepted its source that the source has accepted it (R383, log 126). -/
def State.sinkHears (s : State) (j : Nat) : State :=
  let m := (s.job j).mirror
  if m.side == some true && m.agreed && !m.confirmed then s.startSink j else s

/-- A block frame is whole and verifies. -/
def frameGood (f : GalleryFrame) : Bool := f.data.length = 65536 && blockCrcs f.data == f.checks

/-- A block of a delta enters the log. A log of another boundary that never became whole is discarded. What the log's
frames then hold is not laid out by the spec (log 26). -/
def State.receiveBlock (s : State) (f : GalleryFrame) : State :=
  let s := (s.sinkHears f.ctx).applyLog f.ctx
  let m := (s.job f.ctx).mirror
  if m.state ≠ 4 || !frameGood f then s
  else
    let log := m.log.filter (fun g => g.boundary = f.boundary && g.blockVa ≠ f.blockVa)
    (s.modMirror f.ctx (fun m => { m with log := log ++ [f] })).freeArea m.logBase m.logBytes

/-- `DELTA_RECEIVE` (R387). -/
def execDeltaReceive (f : GalleryFrame) (s : State) : Reply := .next (s.guardWait (s.receiveBlock f))

/-- The commit frame: a log that holds the whole delta commits it and is acknowledged. A complete log is applied first. -/
def State.receiveCommit (s : State) (f : GalleryFrame) : State :=
  let s := (s.sinkHears f.ctx).applyLog f.ctx
  let m := (s.job f.ctx).mirror
  let have_ := m.log.filter (fun g => g.boundary = f.boundary)
  if m.state = 4 && have_.length = f.count then
    (s.modMirror f.ctx (fun m => { m with
      log := have_, logDone := some f.boundary, committed := f.boundary, deltaMib := mibOf f.count })).emit
      (.mirrorAck m.twinCtx f.boundary)
  else s

/-- `DELTA_COMMIT` (R387). -/
def execDeltaCommit (f : GalleryFrame) (s : State) : Reply := .next (s.guardWait (s.receiveCommit f))

end Sys2Proof.Machine
end

