-- ==== Sys2Proof/Machine/Checkpoint.lean ====
section
/-! DEFINITION. Checkpoint.lean: the checkpoint copier of a job context: blocks, digests and writers, the manifest and the
end of a cut (R405 to R412). -/

namespace Sys2Proof.Machine

open Sys2Proof

def State.modCut (s : State) (j : Nat) (f : Cut → Cut) : State :=
  s.modJob j (fun jb => { jb with cut := f jb.cut })

/-- Blocks of 1 MiB in a region. -/
def CutRegion.blocks (r : CutRegion) : Nat := r.size / 2 ^ 20
/-- A region has a replica group. -/
def CutRegion.replicated (r : CutRegion) : Bool := r.first ≤ r.last
/-- The blocks of a cut in order (R406): region index and block index in it. -/
def Cut.blocks (c : Cut) : List (Nat × Nat) :=
  ((List.range c.regions.length).zip c.regions).flatMap (fun r => (List.range r.2.blocks).map (fun i => (r.1, i)))
def Cut.region (c : Cut) (n : Nat) : CutRegion := c.regions.getD n ⟨0, 0, 1, 0⟩
/-- The number of the first block of a region. -/
def Cut.regionFirst (c : Cut) (n : Nat) : Nat := ((c.regions.take n).map CutRegion.blocks).foldl (· + ·) 0

/-- The issuer of the copier's operations: no tile. -/
def copierIssuer : Issuer := ⟨0xFF, 0xFF, .copier⟩
/-- The copier's operations of a job. -/
def copierOps (jb : Job) : List FabOp := jb.ops.filter (fun o => o.owner == .copier)

/-! ## The end of a cut (R411, R412) -/

/-- A cut ends: nothing more is sent for it. -/
def State.endCut (s : State) (j state : Nat) (o : ItemOutcome) (st : Status) (detail : BitVec 64) : State :=
  let item := (s.job j).cut.item
  (s.modJob j (fun jb => { jb with
    ops := jb.ops.filter (fun o => !(o.owner == .copier))
    cut := { jb.cut with state := state, status := st, item := none, heard := [] } })).finishItem? item o st 0xFFFF detail

/-- A cut fails. -/
def State.failCut (s : State) (j : Nat) (st : Status) (detail : BitVec 64) : State := s.endCut j 5 .failed st detail

/-- The status a failed operation of the copier gives the cut: one of Table 14.5 (log 29). -/
def cutStatus (st : Status) : Status := if st = stTorn || st = stTargetDead then st else stFenceTimeout

/-- A failed operation of the copier fails the cut. -/
def State.copierCheck (s : State) (j : Nat) : State :=
  if !(s.job j).cut.active then s
  else
    match (copierOps (s.job j)).find? (fun o => o.answered && o.status ≠ stOK) with
    | some o => s.failCut j (cutStatus o.status) 0#64
    | none => s

/-! ## Blocks (R405, R406) -/

/-- The 64 KiB blocks of a 1 MiB block. -/
def Cut.parts (c : Cut) (b : Nat × Nat) : List Nat :=
  (List.range 16).map (fun i => (c.region b.1).base / 65536 + b.2 * 16 + i)

/-- Reading a 1 MiB block as it stood at the boundary. -/
def State.readBlock (s : State) (j : Nat) (b : Nat × Nat) : BlockRead × State :=
  let c := (s.job j).cut
  (c.parts b).foldl (fun acc v =>
    match acc with
    | (.error e, s) => (.error e, s)
    | (.ok bs, s) =>
      let p := s.physBlock j v
      match s.readCaptured j c.boundary true p.1 p.2 with
      | (.error e, s) => (.error e, s)
      | (.ok xs, s) => (.ok (bs ++ xs), s)) (.ok [], s)

/-- A block is pending for the cut no longer. -/
def State.blockDone (s : State) (j : Nat) (b : Nat × Nat) : State :=
  let c := (s.job j).cut
  (c.parts b).foldl (fun s v => s.blockRead j c.boundary true (s.physBlock j v).1) s

/-- A request of the copier leaves. Where the fabric context is torn down, or the sending checks do not permit it, nothing is
sent and the cut fails (R331, R344, log 29). -/
def State.copierSend (s : State) (j e : Nat) (r : Req) : State :=
  if !(s.job j).cut.active then s
  else
    match (s.job j).binding with
    | none => s.failCut j stTorn 0#64
    | some b => if b.permits e r then s.sendReq j copierIssuer e r else s.failCut j stNotPermitted 0#64

/-- Bytes sent to a stream handle of the gateway, in packets of 4 KiB. -/
def State.streamOut (s : State) (j handle off : Nat) (bs : List Byte) : State :=
  let c := (s.job j).cut
  (List.range ((bs.length + 4095) / 4096)).foldl (fun s i =>
    let pl := slice bs (i * 4096) (min 4096 (bs.length - i * 4096))
    s.copierSend j c.gateway ⟨tyStream, 0, 0, handle, off + i * 4096, pl, pl.length⟩) s

/-- Block `k` is written to the gateway. -/
def State.writeBlock (s : State) (j k : Nat) (bs : List Byte) : State :=
  let c := (s.job j).cut
  (s.streamOut j c.dataHandle (k * 2 ^ 20) bs).modCut j (fun c =>
    if c.active then { c with written := c.written + 1, writers := c.writers ++ [(k, s.fab.endpoint.getD 0)] } else c)

/-! ## Replica groups (R407, R408) -/

/-- Digests heard for block `i` of region `r` of the current cut, by endpoint. -/
def Cut.heardOf (c : Cut) (b : Nat × Nat) : List (Nat × List Byte) :=
  c.heard.filterMap (fun h => if h.2.1 = b.1 && h.2.2.1 = b.2 then some (h.1, h.2.2.2) else none)

/-- A digest message (Table 14.3) as its cut, region, first block and digests. -/
def parseDigests (m : List Byte) : Nat × Nat × Nat × List (List Byte) :=
  (fieldAt m 0 4, fieldAt m 4 2, fieldAt m 8 4, (List.range (fieldAt m 6 2)).map (fun i => slice m (16 + 48 * i) 48))

/-- A digest message of this cut adds what it carries. -/
def Cut.hear (c : Cut) (src : Nat) (m : List Byte) : Cut :=
  let p := parseDigests m
  if p.1 = c.boundary.toNat % 2 ^ 32 then
    { c with heard := c.heard ++ ((List.range p.2.2.2.length).zip p.2.2.2).map (fun d => (src, p.2.1, p.2.2.1 + d.1, d.2)) }
  else c

/-- The copier of a cut with replica groups takes every message of queue 15. -/
def State.hearDigests (s : State) (j : Nat) : State :=
  let jb := s.job j
  if !(jb.cut.active && jb.cut.regions.any CutRegion.replicated) then s
  else
    s.setJob j { jb with
      queues := SMap.set [] jb.queues 15 []
      cut := (SMap.get [] jb.queues 15).foldl (fun c m => c.hear m.src m.msg) jb.cut }

/-- The endpoints of a block's replica group below this package's. -/
def State.lowerEnds (s : State) (r : CutRegion) : List Nat :=
  let own := s.fab.endpoint.getD 0
  (List.range (min own (r.last + 1) - r.first)).map (fun i => r.first + i)

/-- Digest messages of blocks `first` on go to every other endpoint of the group. -/
def State.sendDigests (s : State) (j region first : Nat) (ds : List (List Byte)) : State :=
  let c := (s.job j).cut
  let r := c.region region
  let body := leBytes 4 (c.boundary.toNat % 2 ^ 32) ++ leBytes 2 region ++ leBytes 2 ds.length ++ leBytes 4 first
    ++ zeros 4 ++ ds.flatten
  ((List.range (r.last + 1 - r.first)).map (fun i => r.first + i)).foldl (fun s e =>
    let r : Req := ⟨tySend, 0, 15, 0, 0, body, 0⟩
    if some e = s.fab.endpoint then s else s.copierSend j e r) s

/-- The digests of a region go out four at a time, and the rest with its last block. -/
def State.shareDigest (s : State) (j : Nat) (b : Nat × Nat) : State :=
  let c := (s.job j).cut
  let r := c.region b.1
  if !(r.replicated && (b.2 % 4 = 3 || b.2 + 1 = r.blocks)) then s
  else
    let first := b.2 / 4 * 4
    let k := c.regionFirst b.1
    s.sendDigests j b.1 first ((List.range (b.2 + 1 - first)).map (fun i => c.digests.getD (k + first + i) []))

/-- Deciding block `k` (R408), when every lower endpoint's digest is held or the wait is over. -/
def State.decideBlock (s : State) (j k : Nat) (timeout : Bool) : State :=
  let c := (s.job j).cut
  match c.blocks[k]? with
  | none => s
  | some b =>
    if c.state ≠ 2 || c.digests.length ≤ k || c.writers.any (fun w => w.1 = k) then s
    else
      let lower := s.lowerEnds (c.region b.1)
      let heard := (c.heardOf b).filter (fun h => lower.contains h.1)
      let all := lower.all (fun e => heard.any (fun h => h.1 = e))
      if !(all || timeout) then s
      else
        let equal := (heard.filter (fun h => h.2 == c.digests.getD k [])).map Prod.fst
        let s := if all then s else s.modCut j (fun c => { c with partialSet := true })
        match equal.min? with
        | some e => (s.blockDone j b).modCut j (fun c => { c with writers := c.writers ++ [(k, e)] })
        | none =>
          match s.readBlock j b with
          | (.error (st, a), s) => s.failCut j st (BitVec.ofNat 64 a)
          | (.ok bs, s) => (s.blockDone j b).writeBlock j k bs

/-- Every block of replicated regions that can be decided is. -/
def State.decideAll (s : State) (j : Nat) : State :=
  (List.range (s.job j).cut.digests.length).foldl (fun s k => s.decideBlock j k false) (s.hearDigests j)

/-- The copier takes its next block (R405): its digest, then its write, or its place among the replicas. -/
def State.copyBlock (s : State) (j : Nat) : State :=
  let c := (s.job j).cut
  match c.blocks[c.next]? with
  | none => s
  | some b =>
    if c.state ≠ 2 then s
    else
      match s.readBlock j b with
      | (.error (st, a), s) => s.failCut j st (BitVec.ofNat 64 a)
      | (.ok bs, s) =>
        let s := s.modCut j (fun c => { c with next := c.next + 1, digests := c.digests ++ [sha384 bs] })
        if (c.region b.1).replicated then (s.shareDigest j b).decideAll j
        else (s.blockDone j b).writeBlock j c.next bs

/-- `CKPT_BLOCK_COPY` (R405). -/
def execCkptBlockCopy (j : Nat) (s : State) : Reply := .next ((s.copierCheck j).copyBlock j)

/-- `REPLICA_DECIDE_TIMEOUT` (R408). -/
def execReplicaDecideTimeout (j k : Nat) (s : State) : Reply := .next ((s.hearDigests j).decideBlock j k true)

/-! ## The manifest (R409 Table 14.4) -/

def State.manifest (s : State) (j : Nat) : List Byte :=
  let jb := s.job j
  let c := jb.cut
  let body := List.flatten
    [ "KNCKPT01".toList.map (fun ch => BitVec.ofNat 8 ch.toNat)
    , leBytes 8 c.boundary.toNat
    , leBytes 8 jb.seed.toNat
    , jb.image
    , leBytes 2 (s.fab.endpoint.getD 0)
    , leBytes 2 c.gateway
    , leBytes 4 c.packages
    , leBytes 4 c.rank
    , leBytes 4 (bit jb.det + 2 * bit c.gen + 4 * bit c.partialSet)
    , leBytes 4 c.regions.length
    , leBytes 4 c.blocks.length
    , c.regions.flatMap (fun r => leBytes 8 r.base ++ leBytes 6 r.size ++ leBytes 2 r.first ++ leBytes 2 r.last ++ zeros 14)
    , ((List.range c.blocks.length).zip c.blocks).flatMap (fun b =>
        leBytes 2 b.2.1 ++ zeros 2 ++ leBytes 4 b.2.2
          ++ leBytes 2 (((c.writers.find? (fun w => w.1 = b.1)).map Prod.snd).getD 0) ++ zeros 6 ++ c.digests.getD b.1 []) ]
  body ++ sha384 body

/-- The writes of the copier, and whether each of them has its response. -/
def gatewayAnswered (jb : Job) : Bool := (copierOps jb).all (fun o => o.answered || o.pkt.typ.toNat ≠ tyStream)

/-- Every block is digested and decided, and every one that the package writes has its response. -/
def State.copied (s : State) (j : Nat) : Bool :=
  let c := (s.job j).cut
  c.next = c.blocks.length && (List.range c.next).all (fun k => c.writers.any (fun w => w.1 = k))
    && gatewayAnswered (s.job j)

/-- `MANIFEST_SEND` (R409). -/
def execManifestSend (j : Nat) (s : State) : Reply :=
  let s := s.copierCheck j
  let c := (s.job j).cut
  .next (if c.state = 2 && s.copied j then
      (s.streamOut j c.manHandle 0 (s.manifest j)).modCut j (fun c => if c.active then { c with state := 3 } else c)
    else s)

/-- `CKPT_DONE` (R409). -/
def execCkptDone (j : Nat) (s : State) : Reply :=
  let s := s.copierCheck j
  let c := (s.job j).cut
  .next (if c.state = 3 && gatewayAnswered (s.job j) then
      s.endCut j 4 .done stOK (BitVec.ofNat 64 c.written)
    else s)

end Sys2Proof.Machine
end

