-- ==== Sys2Proof/Machine/Packets.lean ====
section
/-! DEFINITION. Packets.lean: the receiving side of the Wetas fabric (R316, R322 to R329, R334 to R346): requests applied
with their responses, triggered lists, messages, responses taken by their sender, retransmission, fences that time out,
and the end of a job's fabric context. -/

namespace Sys2Proof.Machine

open Sys2Proof

/-! ## What a porch drops (R316, R334) -/

/-- The types of Tables 11.3 and 12.10. -/
def packetTypes : List Nat :=
  [0x01, 0x02, 0x03, 0x04, 0x05, 0x06, 0x07, 0x08, 0x10, 0x11, 0x20, 0x21, 0x22, 0x23, 0x24, 0x30, 0x3F]

/-- A packet whose trailer, length, type and reserved bits hold. -/
def packetOk (p : Packet) : Bool :=
  p.trailer = packetCrc p && p.payload.length = p.length.toNat && decide (p.length.toNat ≤ 4096)
    && packetTypes.contains p.typ.toNat && p.rsvd = 0#8 && decide (p.pflags.toNat < 4) && decide (p.path.toNat < 16)
    && decide (p.jtag.toNat < 2 ^ 28)
    && (if p.typ.toNat = tyLoad then decide (p.handle.toNat < 4096) else true)
    && (if 0x20 ≤ p.typ.toNat && p.typ.toNat < 0x25 then
          bitsOf p.subop.toNat 2 2 = 0 && decide (p.offset.toNat < 2 ^ 42)
            && (decide (p.typ.toNat = 0x23) || decide (p.subop.toNat < 16))
            && (decide (p.typ.toNat = 0x21) || decide (p.typ.toNat = 0x24) || p.handle = 0#16)
        else true)

/-- A packet counted bad. -/
def State.dropBad (s : State) : State := s.count 0x248 0 32 1

/-- A stranger (R334). -/
def State.stranger (s : State) (p : Packet) : State :=
  (s.count 0x220 0 48 1).setBar2 0x228 (setField (setField 0#64 0 28 p.jtag.toNat) 32 16 p.src.toNat)

/-- The job context bound to a packet's tag and epoch. -/
def State.jobOfTag (s : State) (jtag : BitVec 32) : Option Nat :=
  (List.range 16).find? (fun j => (s.job j).binding.any (fun b => b.word = jtag))

/-- Receiving a packet of a type: bad ones and strangers are dropped and counted, one of another type is another event. -/
def State.receive (s : State) (typ : Nat) (p : Packet) (f : Nat → State → State) : State :=
  if !packetOk p || s.fab.endpoint ≠ some p.dst.toNat then s.dropBad
  else if p.typ.toNat ≠ typ then s
  else
    match s.jobOfTag p.jtag with
    | none => s.stranger p
    | some j => f j s

/-! ## Applying requests -/

/-- The NACK code of a failed access (Table 11.4). -/
def nackOf (st : Status) : Nat :=
  if st = stPoisoned then 2 else if st = stChecksum then 3 else if st = stDescBad then 4 else if st = stNonfinite then 6 else 1

/-- What applying a request comes to: its response's type, payload and the state; a NACK; nothing yet; or a wait for a guard
slot (R414). -/
inductive Applying where
  | done (typ : Nat) (payload : List Byte) (s : State)
  | nack (code : Nat) (s : State)
  | wait (s : State)
  | full (s : State)

/-- An access whose faults Skeka resolves from the pool, as often as there are pages it can meet (R314). -/
def resolving {α : Type} (f : State → Access α) (j : Nat) : Nat → State → Access α
  | 0, s => f s
  | fuel + 1, s =>
    match f s with
    | .fault va w s' =>
      match s.resolveFault j va with
      | some s1 => resolving f j fuel s1
      | none => .fault va w s'
    | x => x

/-- An access as the porch makes it: done, or the NACK it is answered with. A full guard area leaves it for later. -/
def State.porchAccess {α : Type} (s : State) (j : Nat) (f : State → Access α) (k : α → State → Applying) : Applying :=
  match resolving (fun s => s.accessNow none .tm f) j 4 s with
  | .ok a s' => if s'.store.guardFull then .full (s.guardWait s') else k a s'
  | .fault _ _ s' => .nack 1 s'
  | .fail st _ s' => .nack (nackOf st) s'

/-- `LOAD` (R322). -/
def State.applyLoad (s : State) (j : Nat) (p : Packet) : Applying :=
  s.porchAccess j (fun s => s.readField j p.offset.toNat (p.handle.toNat % 4096 + 1)) (fun bs s => .done tyLoadRsp bs s)

/-- `STORE` (R322): the block written with its check, the counter, and who waits for it. -/
def State.applyStore (s : State) (j : Nat) (p : Packet) : Applying :=
  s.porchAccess j (fun s => s.writeField j p.offset.toNat p.payload) (fun _ s =>
    let s := if p.pflags.toNat.testBit 1 then
        s.modJob j (fun jb => { jb with
          counters := SMap.set 0#64 jb.counters p.subop.toNat (jb.counter p.subop.toNat + BitVec.ofNat 64 p.length.toNat) })
      else s
    .done tyAck [] s)

/-- The new bits of an element under an atomic (Table 11.7); an overflow of the limbs gives none. -/
def atomicNew (f : Fmt) (aop mode old operand cmp : Nat) : Option Nat :=
  let a := signExt f.bits old
  let b := signExt f.bits operand
  let wrap (x : Int) : Nat := (x % ((2 ^ f.bits : Nat) : Int)).toNat
  match aop with
  | 0x00 => some (wrap (a + b))
  | 0x01 => some (old &&& operand)
  | 0x02 => some (old ||| operand)
  | 0x03 => some (old ^^^ operand)
  | 0x04 => some (if a ≤ b then old else operand)
  | 0x05 => some (if a ≤ b then operand else old)
  | 0x06 => some (min old operand)
  | 0x07 => some (max old operand)
  | 0x08 => some operand
  | 0x09 => some (if old = cmp then operand else old)
  | 0x10 => some (narrow f (Val.add mode (decodeElem f old) (decodeElem f operand)).1 ⟨mode, false, 0⟩).bits
  | _ => limbsOf (limbInt old + limbInt operand)

/-- The format an operation of Table 11.7 takes. -/
def atomicFormatOk (f : Fmt) (aop : Nat) : Bool :=
  if aop < 0x0A then f == .int32 || f == .int64
  else if aop = 0x10 then f == .fp64 || f == .fp32
  else aop = 0x20 && f == .fx192

/-- `ATOMIC` (R323, R324): the element's block is read and verified, the operation applied, the block written. The old
value returns where the control word asks for it (log 21). -/
def State.applyAtomic (s : State) (j : Nat) (p : Packet) : Applying :=
  let ctl := fieldAt p.payload 0 8
  let aop := p.subop.toNat
  match Fmt.ofCode (ctl % 32) with
  | none => .nack 4 s
  | some f =>
    let n := f.bits / 8
    if !atomicFormatOk f aop || p.offset.toNat % atomicAlign f ≠ 0 then .nack 4 s
    else
      s.porchAccess j (fun s => (s.readField j p.offset.toNat n).bind fun bs s =>
          match atomicNew f aop (bitsOf ctl 5 2) (leNat bs) (fieldAt p.payload 8 n) (fieldAt p.payload (8 + n) n) with
          | none => .fail stNonfinite 0 s
          | some v => (s.writeField j p.offset.toNat (leBytes n v)).bind fun _ s => .ok bs s)
        (fun old s => .done tyAtomicRsp (if ctl.testBit 7 then old else []) s)

/-! ## Triggered lists (R326, R327) -/

/-- The porch that keeps a flow's state: the live one the hash names (R312, R335). -/
def State.homePorch (s : State) (ep : Nat) : Nat :=
  let p := Config.homeHash ep % 4
  ((List.range 4).map (fun i => (p + i) % 4)).find? (fun q => s.fab.porchUp.getLsbD q) |>.getD p

/-- Lists that the porch of a source runs now. -/
def State.listsOn (s : State) (ep : Nat) : Nat :=
  ((s.jobs.flatMap (fun j => j.2.lists)).filter (fun l => s.homePorch l.src = s.homePorch ep)).length

/-- A trigger-table entry's fields (Table 11.8). -/
structure TrigEntry where
  valid : Bool
  once : Bool
  tile : Nat
  words : Nat
  addr : Nat
  ctr : Option Nat
  reservedOk : Bool

def parseTrig (b : List Byte) : TrigEntry :=
  let w0 := fieldAt b 0 8
  let w1 := fieldAt b 8 8
  let w2 := fieldAt b 16 8
  { valid := w0.testBit 0, once := w0.testBit 1, tile := bitsOf w0 8 8, words := bitsOf w0 16 7, addr := bitsOf w1 0 22
    ctr := if w2.testBit 8 then some (w2 % 256) else none
    reservedOk := bitsOf w0 2 6 = 0 && bitsOf w0 23 41 = 0 && bitsOf w1 22 42 = 0 && bitsOf w2 9 55 = 0 && fieldAt b 24 8 = 0 }

/-- A list failed (R327). -/
def State.listFailed (s : State) (index : Nat) : State := (s.count 0x250 0 48 1).fbEvent 4 index 0

/-- A word of a list: a fabric command other than the excluded ones, or `SUM_ALL`, that passes check 1. -/
def State.listWord (s : State) (j : Nat) (b : BitVec 256) : Option (Op × CmdWord) :=
  match decodeWord b with
  | none => none
  | some (op, w) =>
    let kind := match op with
      | .fbStore | .fbTrigger | .fbFence | .fbSend | .storeStream | .fbCtrset | .sumAll => true
      | op => op.aop.isSome && w.slot0.field 13 1 = 0
    if kind && s.check1 j op w then some (op, w) else none

/-- The words of a list; none where one of them is bad. -/
def State.listWords (s : State) (j t addr n : Nat) : Option (List (Op × CmdWord)) :=
  (List.range n).foldr (fun i acc =>
    match s.listWord j (s.fetchWord t (addr + 32 * i)), acc with
    | some x, some xs => some (x :: xs)
    | _, _ => none) (some [])

/-- A list's command with all it reads: A15 and S30, S31 from the trigger, every other register 0. -/
def State.listCmd (s : State) (j : Nat) (l : TrigList) (op : Op) (w : CmdWord) : Option EngineCmd :=
  let areg (i : Nat) : BitVec 64 := if i = 15 then BitVec.ofNat 64 (l.arg.toNat % 2 ^ 48) else 0#64
  let u := slotUses op w
  match s.slotVal l.tile j areg u.1 w.slot0, s.slotVal l.tile j areg u.2.1 w.slot1,
      s.slotVal l.tile j areg u.2.2.1 w.slot2, s.slotVal l.tile j areg u.2.2.2 w.slot3 with
  | some v0, some v1, some v2, some v3 =>
    some { op := op, w := w, s0 := v0, s1 := v1, s2 := v2, s3 := v3, mask := none
           sreg := (List.range 32).map (fun i => if i = 30 then BitVec.ofNat 64 l.src else if i = 31 then l.arg else 0#64)
           deadline := 0#64, ordinal := 0, addr := 0, step := (s.job j).step, issued := s.now }
  | _, _, _, _ => none

def listIssuer (l : TrigList) : Issuer := ⟨l.tile, 0xFF, .list l.id⟩

/-- One word of a list: whether it is past, or waits, or fails the list. A predicated word reads predicate 0. -/
def State.listStep (s : State) (j : Nat) (l : TrigList) (op : Op) (w : CmdWord) : Except (Option Status) Unit × State :=
  if w.pen && !w.pinv then (.ok (), s)
  else
    match s.listCmd j l op w with
    | none => (.error (some stDescBad), s)
    | some c =>
      match fabricCheck c with
      | some st => (.error (some st), s)
      | none =>
        match op with
        | .fbCtrset => (.ok (), s.modJob j (fun jb =>
            { jb with counters := SMap.set 0#64 jb.counters (c.s3.immVal.toNat % 256) (c.sr (w.imm 0 5)) }))
        | .fbFence =>
          match s.finishFence j (listIssuer l) (fenceCovers c) with
          | none => (.error none, s)
          | some (st, _, _, s) => if st = stOK then (.ok (), s) else (.error (some st), s)
        | .sumAll =>
          match s.sumAll j l.tile (some l.id) c with
          | (some st, _, s) => (.error (some st), s)
          | (none, true, s) => (.ok (), s)
          | (none, false, s) => (.error none, s)
        | _ =>
          match resolving (fun s => s.issueReqs j (listIssuer l) (listIssuer l) c) j 64 s with
          | .ok .waits s => (.error none, s)
          | .ok (.failed st _ _) s => (.error (some st), s)
          | .ok (.sent _) s => (.ok (), s)
          | .fault _ _ s => (.error (some stTranslation), s)
          | .fail st _ s => (.error (some st), s)

/-- Replacing a list of a job. -/
def State.putList (s : State) (j : Nat) (l : TrigList) : State :=
  s.modJob j (fun jb => { jb with lists := jb.lists.map (fun x => if x.id = l.id then l else x) })

/-- A list goes on as far as it can. -/
def State.listRun (s : State) (j : Nat) : Nat → TrigList → State
  | 0, l => s.putList j l
  | fuel + 1, l =>
    match l.words[l.next]? with
    | none => s.putList j l
    | some (op, w) =>
      if l.failed.isSome then s.putList j l
      else
        match s.listStep j l op w with
        | (.ok _, s) => State.listRun s j fuel { l with next := l.next + 1 }
        | (.error none, s) => s.putList j l
        | (.error (some st), s) => s.putList j { l with failed := some st }

/-- Every list of a job goes on. -/
def State.runLists (s : State) (j : Nat) : State :=
  (s.job j).lists.foldl (fun s l => s.listRun j 65 l) s

/-- A valid entry starts its list: `ONCE` clears `VALID`; a bad entry fails its list before the first word. -/
def State.startList (s : State) (j index src : Nat) (arg : BitVec 64) (e : TrigEntry) : Access Unit :=
  let va := (((s.job j).binding.map Binding.trigBase).getD 0 + 32 * index) % 2 ^ 48
  let go (s : State) : Access Unit :=
    let tileOk := (s.tile e.tile).owner = some j && (s.tile e.tile).avail
    match (if e.reservedOk && tileOk && 1 ≤ e.words && e.words ≤ 64 && e.addr % 32 = 0 then
        s.listWords j e.tile e.addr e.words else none) with
    | none => .ok () (s.listFailed index)
    | some ws =>
      let id := (s.job j).nextList
      let l : TrigList := ⟨id, index, e.tile, ws, 0, src, arg, e.ctr, none⟩
      let s := (s.modJob j (fun jb => { jb with lists := jb.lists ++ [l], nextList := id + 1 })).toRun
      .ok () (s.listRun j 65 l)
  if e.once then
    (s.readField j va 1).bind fun b s =>
      (s.writeField j va [(b.getD 0 0#8) &&& 0xFE#8]).bind fun _ s => go s
  else go s

/-- The code of a trigger whose `ONCE` write waits for a guard slot (R414): no NACK has it. -/
def trigWaits : Nat := 16

/-- Reading a trigger's entry and starting its list (R326): the NACK code it is answered with, 0 for an `ACK`. -/
def State.trigger (s : State) (j : Nat) (p : Packet) : Nat × State :=
  let index := fieldAt p.payload 0 8 % 4096
  let va := (((s.job j).binding.map Binding.trigBase).getD 0 + 32 * index) % 2 ^ 48
  match resolving (fun s => s.readField j va 32) j 2 s with
  | .fault _ _ s => (1, s)
  | .fail st _ s => (nackOf st, s)
  | .ok b s =>
    let e := parseTrig b
    if !e.valid then (4, s)
    else if 64 ≤ s.listsOn p.src.toNat then (5, s)
    else
      match s.startList j index p.src.toNat (BitVec.ofNat 64 (fieldAt p.payload 8 8)) e with
      | .ok _ s' => if s'.store.guardFull then (trigWaits, s.guardWait s') else (0, s')
      | .fault _ _ s => (1, s)
      | .fail st _ s => (nackOf st, s)

/-- `TRIGGER` (R326): held while the job stands stopped, else started. -/
def State.applyTrigger (s : State) (j : Nat) (p : Packet) : Applying :=
  if (s.job j).heldTriggers.any (fun q => q.src = p.src && q.seq = p.seq && q.rsvd = p.rsvd) then .wait s
  else if (s.job j).phase = 3 then .wait (s.modJob j (fun jb => { jb with heldTriggers := jb.heldTriggers ++ [p] }))
  else
    match s.trigger j p with
    | (0, s) => .done tyAck [] s
    | (c, s) => if c = trigWaits then .full s else .nack c s

/-! ## Messages (R328) -/

/-- The lowest entry of a queue that holds no message (log 21). -/
def freeEntry (q : List QMsg) : Nat := ((List.range 256).find? (fun i => !(q.any (fun m => m.entry = i)))).getD 0

/-- A message enters its queue: its entry in memory, then the queue. -/
def State.enqueue (s : State) (j : Nat) (p : Packet) : Applying :=
  let jb := s.job j
  let q := p.subop.toNat % 16
  let old := SMap.get [] jb.queues q
  if 240 < p.payload.length || p.payload.isEmpty then .nack 4 s
  else if 256 ≤ old.length then .nack 5 s
  else
    let i := freeEntry old
    let va := ((jb.binding.map Binding.queueBase).getD 0 + 65536 * q + 256 * i) % 2 ^ 48
    let bytes := leBytes 2 p.src.toNat ++ leBytes 2 p.payload.length
      ++ (List.range 12).map (fun k => Config.freeByte s.fresh k) ++ p.payload
    s.porchAccess j (fun s => s.writeField j va bytes) (fun _ s =>
      .done tyAck [] (s.drawn.modJob j (fun jb => { jb with
        queues := SMap.set [] jb.queues q (SMap.get [] jb.queues q ++ [⟨i, p.src.toNat, p.payload⟩]) })))

/-! ## Flows (R337) -/

def Job.flow (jb : Job) (src : Nat) : RecvFlow := (jb.flows.find? (fun f => f.src = src)).getD ⟨src, 0, [], []⟩

def State.putFlow (s : State) (j : Nat) (f : RecvFlow) : State :=
  s.modJob j (fun jb => { jb with flows := f :: jb.flows.filter (fun x => x.src ≠ f.src) })

/-- Distance of two numbers by serial arithmetic (R335). -/
def serialDist (base seq : Nat) : Nat := (seq + 2 ^ 32 - base) % 2 ^ 32

/-- The window moves on with a later `ACKBASE`: what lies below it is forgotten. -/
def RecvFlow.advance (f : RecvFlow) (ack : Nat) : RecvFlow :=
  if serialDist f.base ack < 2 ^ 31 then
    { f with
      base := ack
      applied := f.applied.filter (fun a => serialDist ack a.seq < 1024)
      msgs := f.msgs.filter (fun p => serialDist ack p.seq.toNat < 1024) }
  else f

/-- Recording an applied request with its response. -/
def State.recordApplied (s : State) (j src seq : Nat) (resp : Packet) : State :=
  let f := (s.job j).flow src
  s.putFlow j { f with applied := f.applied ++ [⟨seq, resp⟩] }

/-- A response leaves. -/
def State.respond (s : State) (p : Packet) : State := s.sendPacket p

/-- The end of applying a request of a flow: response, record, and whoever it may have woken. -/
def State.settle (_s : State) (j : Nat) (p : Packet) (x : Applying) : State :=
  match x with
  | .wait s => s
  | .full s => { s with fab := { s.fab with waiting := s.fab.waiting ++ [(j, p)] } }
  | .nack c s => s.respond (replyTo p tyNack c [])
  | .done typ pl s =>
    let r := replyTo p typ 0 pl
    ((s.recordApplied j p.src.toNat p.seq.toNat r).respond r).jobWake j

/-- All earlier numbers of a flow from its base are applied. -/
def RecvFlow.reached (f : RecvFlow) (seq : Nat) : Bool :=
  (List.range (serialDist f.base seq)).all (fun i => f.applied.any (fun a => a.seq = (f.base + i) % 2 ^ 32))

/-- Held messages of a flow that have become next enter their queue, in order. -/
def State.drainMsgs (s : State) (j src : Nat) : Nat → State
  | 0 => s
  | fuel + 1 =>
    let f := (s.job j).flow src
    match f.msgs.find? (fun p => f.reached p.seq.toNat) with
    | none => s
    | some p =>
      let s := s.putFlow j { f with msgs := f.msgs.filter (fun q => q.seq ≠ p.seq) }
      State.drainMsgs (s.settle j p (s.enqueue j p)) j src fuel

/-- A flow of which the receiver knows nothing that its sender could still await: no request of its window is applied, no
message is held (log 121). -/
def RecvFlow.idle (f : RecvFlow) : Bool := f.applied.isEmpty && f.msgs.isEmpty

/-- The flows that a porch keeps, by job and source (R335). -/
def State.flowsOn (s : State) (q : Nat) : List (Nat × RecvFlow) :=
  (s.jobs.flatMap (fun j => j.2.flows.map (fun f => (j.1, f)))).filter (fun x => s.homePorch x.2.src = q)

/-- A place for the flow of a request on its home porch (R337): the one it has; a free one; or that of an idle flow, whose
entry is freed. None where the porch can hold no more. -/
def State.holdFlow (s : State) (j : Nat) (p : Packet) : Option State :=
  let src := p.src.toNat
  let new (s : State) : State := s.putFlow j ⟨src, p.ackbase.toNat, [], []⟩
  match (s.job j).flows.find? (fun f => f.src = src) with
  | some f => some (s.putFlow j (f.advance p.ackbase.toNat))
  | none =>
    let here := s.flowsOn (s.homePorch src)
    if here.length < s.fab.flowSlots then some (new s)
    else
      match here.find? (fun x => x.2.idle) with
      | some x => some (new (s.modJob x.1 (fun jb => { jb with flows := jb.flows.filter (fun f => f.src ≠ x.2.src) })))
      | none => none

/-- What a package makes of a request of a flow whose state its porch holds (R337). -/
def State.requestIn (s : State) (j : Nat) (p : Packet) (apply : State → Applying) : State :=
  let src := p.src.toNat
  let f := (s.job j).flow src
  let d := serialDist f.base p.seq.toNat
  let s :=
    if 2 ^ 31 ≤ d then s
    else if 1024 ≤ d then s.count 0x248 32 32 1
    else if s.fab.waiting.any (fun x => x.1 = j && x.2.src = p.src && x.2.seq = p.seq && x.2.rsvd = p.rsvd) then s
    else
      match f.applied.find? (fun a => a.seq = p.seq.toNat) with
      | some a =>
        let s := s.count 0x238 0 48 1
        if p.typ.toNat = tyLoad then
          match apply s with
          | .done typ pl s => s.respond (replyTo p typ 0 pl)
          | .nack c s => s.respond (replyTo p tyNack c [])
          | .wait s => s
          | .full s => s
        else s.respond { a.resp with path := p.path, trailer := packetCrc { a.resp with path := p.path } }
      | none => s.settle j p (apply s)
  let s := s.drainMsgs j src 1024
  if (s.job j).cut.active then s.decideAll j else s

/-- A request arrives (R337): without a place for its flow's state it is answered NACK code 5. -/
def State.request (s : State) (j : Nat) (p : Packet) (apply : State → Applying) : State :=
  match s.holdFlow j p with
  | some s => s.requestIn j p apply
  | none => s.respond (replyTo p tyNack 5 [])

/-- Applying a message (R328): at once where every earlier number of its flow is applied, else held. -/
def State.applySend (s : State) (j : Nat) (p : Packet) : Applying :=
  let f := (s.job j).flow p.src.toNat
  if f.reached p.seq.toNat then
    (s.putFlow j { f with msgs := f.msgs.filter (fun q => q.seq ≠ p.seq) }).enqueue j p
  else if f.msgs.any (fun q => q.seq = p.seq) then .wait s
  else .wait (s.putFlow j { f with msgs := f.msgs ++ [p] })

/-- `LOAD` (R322). -/
def execLoad (p : Packet) (s : State) : Reply := .next (s.receive tyLoad p fun j s => s.request j p (fun s => s.applyLoad j p))
/-- `STORE` (R322). -/
def execStore (p : Packet) (s : State) : Reply :=
  .next (s.receive tyStore p fun j s => s.request j p (fun s => s.applyStore j p))
/-- `ATOMIC` (R323). -/
def execAtomic (p : Packet) (s : State) : Reply :=
  .next (s.receive tyAtomic p fun j s => s.request j p (fun s => s.applyAtomic j p))
/-- `TRIGGER` (R326). -/
def execTrigger (p : Packet) (s : State) : Reply :=
  .next (s.receive tyTrigger p fun j s => s.request j p (fun s => s.applyTrigger j p))
/-- `SEND` (R328). -/
def execSend (p : Packet) (s : State) : Reply := .next (s.receive tySend p fun j s => s.request j p (fun s => s.applySend j p))

/-! ## Responses (R336, R339) -/

/-- What a change of a job's operations may have let go on. -/
def State.opsChanged (s : State) (j : Nat) : State := ((((s.pump j).jobWake j).runLists j).copierCheck j)

/-- Changing the operation of a destination and number that awaits its response. -/
def State.answer (s : State) (j : Nat) (p : Packet) (f : FabOp → FabOp) : State :=
  let hit (o : FabOp) : Bool := o.dst = p.src.toNat && o.seq = p.seq.toNat && !o.answered && decide (0 < o.attempts)
  if (s.job j).ops.any hit then
    (s.modJob j (fun jb => { jb with ops := jb.ops.map (fun o => if hit o then f o else o) })).opsChanged j
  else s

/-- Receiving a response of a type (R336). -/
def State.response (s : State) (typ : Nat) (p : Packet) (f : FabOp → FabOp) : State :=
  s.receive typ p fun j s => s.answer j p f

/-- `LOAD_RSP` (R336). -/
def execLoadRsp (p : Packet) (s : State) : Reply :=
  .next (s.response tyLoadRsp p (fun o => { o with answered := true, data := p.payload }))

/-- The flags of an `FADD` by its request and the old value that came back: those of its single rounding (R325). -/
def faddFlags (req : Packet) (old : List Byte) : Flags :=
  let ctl := fieldAt req.payload 0 8
  match Fmt.ofCode (ctl % 32) with
  | none => 0#4
  | some f =>
    let n := f.bits / 8
    let mode := bitsOf ctl 5 2
    let r := Val.add mode (decodeElem f (fieldAt old 0 n)) (decodeElem f (fieldAt req.payload 8 n))
    r.2 ||| (narrow f r.1 ⟨mode, false, 0⟩).flags

/-- `ATOMIC_RSP` (R336). The flags of an `FADD` follow from the old value where the response returns it; of one that returns
none they are not laid out in the packet, a free value (log 21). -/
def execAtomicRsp (p : Packet) (s : State) : Reply :=
  .next ((s.response tyAtomicRsp p (fun o => { o with
    answered := true
    value := BitVec.ofNat 64 (fieldAt p.payload 0 8)
    flags := if o.pkt.subop ≠ 0x10#8 then o.flags
      else o.flags ||| (if p.payload.isEmpty then BitVec.ofNat 4 s.freeWord.toNat else faddFlags o.pkt p.payload) })).drawn)

/-- `ACK` (R336). -/
def execAck (p : Packet) (s : State) : Reply := .next (s.response tyAck p (fun o => { o with answered := true }))

/-- `NACK` (R336, R339): code 5 sends the operation again after a back-off, any other fails it. -/
def execNack (p : Packet) (s : State) : Reply :=
  .next (s.response tyNack p (fun o =>
    match nackStatus p.subop.toNat with
    | none => { o with busy := o.busy + 1 }
    | some st => { o with answered := true, status := st }))

/-- The operation of a destination and number that has been sent and awaits its response. -/
def Job.awaiting (jb : Job) (dst seq : Nat) : Option FabOp :=
  jb.ops.find? (fun o => o.dst = dst && o.seq = seq && !o.answered && decide (0 < o.attempts))

/-- `BUSY_RETRY` (R339). -/
def execBusyRetry (j dst seq : Nat) (s : State) : Reply :=
  .next (match (s.job j).awaiting dst seq with
    | some o => if o.busy = 0 then s else s.transmit j o false
    | none => s)

/-- A path on which an attempt timed out is marked down (R317). -/
def State.pathDown (s : State) (p : Nat) : State :=
  { s with fab := { s.fab with pathsDown := if s.fab.pathsDown.contains p then s.fab.pathsDown else s.fab.pathsDown ++ [p] } }

/-- `RETRANSMIT` (R338): the attempt's path has timed out; up to 8 attempts. -/
def execRetransmit (j dst seq : Nat) (s : State) : Reply :=
  .next (match (s.job j).awaiting dst seq with
    | none => s
    | some o =>
      if o.unreachable || 8 ≤ o.attempts then s
      else
        let p := o.pkt.path.toNat
        ((s.pathDown p).count 0x230 0 48 1).transmit j o true)

/-- `MARK_UNREACHABLE` (R338, R345): after 8 attempts of one request, every request of its flow still awaiting. The path of the last
attempt timed out too (R317). -/
def execMarkUnreachable (j dst : Nat) (s : State) : Reply :=
  .next (match (s.job j).ops.find? (fun o => o.dst = dst && !o.answered && !o.unreachable && decide (8 ≤ o.attempts)) with
    | none => s
    | some o =>
      let s := (s.pathDown o.pkt.path.toNat)
      let s := s.modJob j (fun jb => { jb with
        ops := jb.ops.map (fun o => if o.dst = dst && !o.answered then { o with unreachable := true } else o) })
      ((s.fbEvent 1 0 dst).mbxEvent 5).emit (.management 1 dst))

/-! ## Held triggers and the ends of lists (R49, R326) -/

/-- The first held trigger runs, with its response where it came by a flow. -/
def State.runHeld (s : State) (j : Nat) : State :=
  match (s.job j).heldTriggers with
  | [] => s
  | p :: rest =>
    if (s.job j).phase = 3 || (s.job j).binding.isNone then s
    else
      match s.trigger j p with
      | (5, s) => s
      | (c, s) =>
        let s := s.modJob j (fun jb => { jb with heldTriggers := rest })
        if c = trigWaits then s.settle j p (.full s)
        else if p.rsvd ≠ 0#8 then s
        else if c = 0 then s.settle j p (.done tyAck [] s) else s.settle j p (.nack c s)

/-- `HELD_TRIGGER_RUN` (R49). -/
def execHeldTriggerRun (j : Nat) (s : State) : Reply := .next ((s.runHeld j).opsChanged j)

/-- What the end of a collective lets go on: waits, lists, and its chained trigger (R354). -/
def State.collsChanged (s : State) (j : Nat) : State :=
  let s := s.opsChanged j
  if (s.job j).heldTriggers.isEmpty then s
  else ((List.range (s.job j).heldTriggers.length).foldl (fun s _ => s.runHeld j) s).opsChanged j

/-- A collective of a list that has ended: its failure, if any. -/
def listColls (jb : Job) (id : Nat) : List Coll := jb.colls.filter (fun c => c.list = some id)

/-- `LIST_COMPLETE` (R326, R327, R352): every word past and every operation and collective ended. -/
def execListComplete (j id : Nat) (s : State) : Reply :=
  .next (match (s.job j).lists.find? (fun l => l.id = id) with
    | none => s
    | some l =>
      let ops := postedBy (s.job j) (listIssuer l)
      let cs := listColls (s.job j) id
      if ops.any (fun o => !o.answered) || cs.any Coll.waited then s
      else
        let bad := l.failed.isSome || (firstFailed ops).isSome || cs.any (fun c => c.endedWith ≠ some stOK)
        if !bad && l.next < l.words.length then s
        else
          let s := s.modJob j (fun jb => { jb with
            lists := jb.lists.filter (fun x => x.id ≠ id)
            ops := jb.ops.filter (fun o => o.owner != .list id)
            colls := jb.colls.filter (fun c => c.list ≠ some id)
            counters := match l.ctr with
              | some n => if bad then jb.counters else SMap.set 0#64 jb.counters n (jb.counter n + 1)
              | none => jb.counters })
          (if bad then s.listFailed l.index else s).opsChanged j)

/-! ## The fabric timeout (R341) -/

/-- The operations of a job that hold a predicate are abandoned. -/
def State.abandonOps (s : State) (j : Nat) (f : FabOp → Bool) : State :=
  s.modJob j (fun jb => { jb with ops := jb.ops.filter (fun o => !(f o)) })

/-- The operations abandoned that a tile's command waits for, and the element that a remote gather then fails at: the lowest
with no response (R275). -/
def State.timeoutElem (s : State) (j : Nat) (c : EngineCmd) (os : List FabOp) : Nat :=
  if c.op == .tmGather then
    ((s.gatherFailed j c ((os.filter (fun o => !o.answered)).map (fun o => { o with status := stFenceTimeout }))).map Prod.fst).getD 0
  else 0

/-- The operations that a waiting fabric command of a tile waits for: those a fence covers; its own; or, before it is issued, the
earlier posted ones that `FENCED` names (R321). None for a command that waits for no response. -/
def State.awaitsOps (s : State) (t j : Nat) (c : EngineCmd) : Option (FabOp → Bool) :=
  let posted (o : FabOp) : Bool := o.owner == .posted && o.tile = t
  if c.op == .fbFence then some (fun o => posted o && fenceCovers c o)
  else if waitsForOps c && !(awaitedBy (s.job j) t).isEmpty then some (fun o => o.owner == .waiting && o.tile = t)
  else if isFenced c then some (fun o => posted o && decide (o.dst = destOf c))
  else none

/-- `END` or `STEP_END` meets the timeout of its implied fence: the sequencer halts, and the flags of the covered atomics are
committed (R340). -/
def State.drainTimeout (s : State) (t j : Nat) (w : CmdWord) : State :=
  let posted (o : FabOp) : Bool := o.owner == .posted && o.tile = t
  if (s.tile t).enginesIdle && (s.job j).ops.any (fun o => posted o && !o.answered) then
    let fl := ((s.job j).ops.filter posted).foldl (fun f o => f ||| o.flags) 0#4
    (((s.abandonOps j posted).modTile t (fun x => x.raiseFlags fl)).haltAt t w stFenceTimeout)
  else s

/-- The fabric timeout of a tile: its waiting load, fetching atomic, remote gather or fence, a `FENCED` command that is not issued
yet (DEDUCED, log 134), or the fence implied by its `END` or `STEP_END`. -/
def State.tileTimeout (s : State) (t : Nat) : State :=
  let x := s.tile t
  let j := x.jobOf
  match s.runningOf t .tm with
  | some r =>
    let c := r.cmd
    match (if r.stage == .fabric then s.awaitsOps t j c else none) with
    | none => s
    | some mine =>
      let s := s.passTo (BitVec.ofNat 64 (c.issued.toNat + ((s.job j).binding.map Binding.timeoutMs).getD 2000 * 1000000))
      let fl := if c.op == .fbFence then ((s.job j).ops.filter mine).foldl (fun f o => f ||| o.flags) 0#4 else 0#4
      let k := s.timeoutElem j c ((s.job j).ops.filter mine)
      (s.abandonOps j mine).putStage t .tm r (.ready { failResult stFenceTimeout 0 with flags := fl, elem := k })
  | none =>
    match x.wait, x.held.bind Instr.streamOf with
    | .endDrain, some (_, _, w) => s.drainTimeout t j w
    | .stepDrain, some (_, _, w) => s.drainTimeout t j w
    | _, _ => s

/-- The operations that the next word of a list waits for: those its fence covers, or the earlier ones to a `FENCED` word's
destination. -/
def State.listWaits (s : State) (j : Nat) (l : TrigList) : Option (FabOp → Bool) :=
  match (if l.failed.isNone then l.words[l.next]? else none) with
  | none => none
  | some (op, w) =>
    (s.listCmd j l op w).bind (fun c =>
      let mine (o : FabOp) : Bool := o.owner == .list l.id
      if op == .fbFence then some (fun o => mine o && fenceCovers c o)
      else if op != .fbCtrset && op != .sumAll && w.flag 4 then some (fun o => mine o && decide (o.dst = destOf c))
      else none)

/-- The fabric timeout of a triggered list that waits at a fence or a `FENCED` word: it fails (R327, R341). -/
def State.listTimeout (s : State) (j id : Nat) : State :=
  match (s.job j).lists.find? (fun l => l.id = id) with
  | none => s
  | some l =>
    match s.listWaits j l with
    | none => s
    | some waits =>
      if (s.job j).ops.any (fun o => waits o && !o.answered) then
        (s.abandonOps j waits).putList j { l with failed := some stFenceTimeout }
      else s

/-- `FENCE_TIMEOUT` (R341): of a tile; 256 to 271 names the copier of a job context, and 272 + 16 k + j the triggered list
number k of job context j (log 30). -/
def execFenceTimeout (t : Nat) (s : State) : Reply :=
  .next (if t < 256 then s.tileTimeout t
    else if t < 272 then
      let j := t - 256
      if (s.job j).cut.active && (copierOps (s.job j)).any (fun o => !o.answered) then s.failCut j stFenceTimeout 0#64 else s
    else s.listTimeout ((t - 272) % 16) ((t - 272) / 16))

/-! ## The end of a fabric context (R344) -/

/-- Every operation that awaits a response completes (R344): unreachable, or torn. -/
def Job.tearOps (jb : Job) : Job :=
  { jb with ops := jb.ops.map (fun o =>
      if o.answered then o else { o with answered := true, status := if o.unreachable then stTargetDead else stTorn }) }

/-- What a waiting fabric command of a torn context retires with, its operations having completed. A gather fails with its own
failed elements before those that the tear alone ended (R275). -/
def State.tornResult (s : State) (t j : Nat) (c : EngineCmd) : CmdResult :=
  let jb := s.job j
  if c.op == .fbFence then
    let os := (postedBy jb ⟨t, t, .posted⟩).filter (fenceCovers c)
    { failResult (((fenceFailed os).map (fun o => o.status)).getD stTorn) 0 with flags := os.foldl (fun f o => f ||| o.flags) 0#4 }
  else
    let os := if waitsForOps c then awaitedBy jb t else []
    let own := os.filter (fun o => o.status ≠ stTorn)
    match (if c.op == .tmGather then (s.gatherFailed j c own).orElse (fun _ => s.gatherFailed j c os) else none) with
    | some (k, o) => { failResult o.status o.pkt.offset.toNat with elem := k }
    | none =>
      match firstFailed os with
      | some o => { failResult o.status o.pkt.offset.toNat with flags := o.flags }
      | none => failResult stTorn 0

/-- A fabric command that waits on a tile retires. -/
def State.tearTile (j : Nat) (s : State) (t : Nat) : State :=
  match s.runningOf t .tm with
  | none => s
  | some r =>
    let c := r.cmd
    if !(r.stage == .fabric) || c.op == .collWait then s
    else
      let mine (o : FabOp) : Bool := if waitsForOps c then o.owner == .waiting && o.tile = t
        else c.op == .fbFence && o.owner == .posted && o.tile = t && fenceCovers c o
      (s.abandonOps j mine).putStage t .tm r (.ready (s.tornResult t j c))

/-- Held and running triggered lists end with `FABRIC_TORN` (R49, R344): each is a list that failed (R327). -/
def State.tearLists (s : State) (j : Nat) : State :=
  let held := (s.job j).heldTriggers.map (fun p => fieldAt p.payload 0 8 % 4096)
  ((s.job j).lists.map TrigList.index ++ held).foldl State.listFailed s

/-- Collectives of a torn context: those past their setup round send notice; all end `FABRIC_TORN` here (R372). -/
def State.tearColls (s : State) (j : Nat) : State :=
  (s.job j).colls.foldl (fun s c =>
    match c.phase with
    | .ended _ => s
    | .data => (s.collNotice j c.gid c.seq c.stages stCollAbort).endColl j c stTorn
    | _ => s.endColl j c stTorn) s

/-- The fabric context of a job is torn down: the tag leaves and enters quarantine for 100 ms (R344, R346). -/
def State.tearFabric (s : State) (j : Nat) : State :=
  match (s.job j).binding with
  | none => s
  | some b =>
    let s := ((s.tearColls j).modJob j Job.tearOps).tearLists j
    let s := (s.job j).tiles.foldl (State.tearTile j) s
    let s := s.modJob j (fun jb => { jb with
      binding := none, tagState := 2, lastTag := b.jtag, torn := true, queues := [], heldTriggers := [], lists := [], flows := [] })
    let s := { s with fab := { s.fab with
      quarantine := s.fab.quarantine ++ [(b.jtag, s.now + 100000000#64)], waiting := s.fab.waiting.filter (fun x => x.1 ≠ j) } }
    let s := (s.fbEvent 5 0 0).copierCheck j
    (if (s.job j).cut.active then s.failCut j stTorn 0#64 else s).jobWake j

/-- `QUARANTINE_EXPIRY` (R346). -/
def execQuarantineExpiry (jtag : Nat) (s : State) : Reply :=
  .next (match s.fab.quarantine.find? (fun q => q.1 = jtag) with
    | none => s
    | some q =>
      let s := s.passTo q.2
      let s := { s with fab := { s.fab with quarantine := s.fab.quarantine.filter (fun x => x.1 ≠ jtag) } }
      (List.range 16).foldl (fun s j => s.modJob j (fun jb =>
        if jb.tagState = 2 && jb.lastTag = jtag then { jb with tagState := 0 } else jb)) s)

/-! ## The guard's events (R414, R415) -/

/-- A request whose write waits for a guard slot is applied again; a chained trigger goes back to its place (R354). -/
def State.applyWaiting (s : State) (j : Nat) (p : Packet) : State :=
  if p.rsvd ≠ 0#8 then (s.modJob j (fun jb => { jb with heldTriggers := p :: jb.heldTriggers })).runHeld j
  else
    s.requestIn j p (fun s =>
      match p.typ.toNat with
      | 3 => s.applyStore j p
      | 4 => s.applyAtomic j p
      | 6 => s.applyTrigger j p
      | _ => s.applySend j p)

/-- The requests that wait try again, in their order; one that must wait on stays as it is. -/
def State.porchRetry (s : State) : State :=
  s.fab.waiting.foldl (fun s x =>
    let s' := { s with fab := { s.fab with waiting := s.fab.waiting.filter (fun y => y ≠ x) } }.applyWaiting x.1 x.2
    if s'.fab.waiting.contains x then s else s'.opsChanged x.1) s

/-- The engine commands and the store of a tile that wait for a guard slot try again. -/
def State.tileRetry (s : State) (t : Nat) : State :=
  let s := [Engine.me, .de, .ve, .ru, .dsu, .se, .ue, .tm].foldl (fun s e =>
    match s.runningOf t e with
    | some r =>
      if r.stage == .guardFull then
        let s' := s.restartCmd t e r
        if (s'.runningOf t e).any (fun r => r.stage == .guardFull) then s else s'
      else s
    | none => s) s
  if (s.tile t).wait == .access then
    let s' := (s.resume t).seqWake t
    if (s'.tile t).wait == .access then s else s'
  else s

/-- Every write that waits for a guard slot tries again, and is not counted again (R414): of engines and sequencers, of
collectives, of the porches and of the host. -/
def State.guardRetry (s : State) : State :=
  let s := (s.tiles.map Prod.fst).foldl State.tileRetry s
  let s := (s.jobs.map Prod.fst).foldl (fun s j =>
    if (s.job j).colls.any (fun c => c.restoring || c.chunks.any CollChunk.held) then
      (((s.job j).colls).foldl (fun s c => s.collRetry j c) s).collsChanged j
    else s) s
  s.porchRetry.drainPorts

/-- `GUARD_SLOT_FREE` (R414): waiting writes go on where a slot is free. -/
def execGuardSlotFree (s : State) : Reply := .next (if s.store.guardUsed < 65536 then s.guardRetry else s)

/-- `CAPTURE_END` (R415). -/
def execCaptureEnd (j : Nat) (s : State) : Reply := .next (s.endCaptures j).guardRetry

/-! ## Management packets (R313) -/

/-- `MGMT` (R313, R316): a valid keyed check under the fabric management key, else a stranger. Before the package has an
endpoint number no `DST` can be its own, and any is taken (DEDUCED, log 122). -/
def execMgmt (p : Packet) (endpt : BitVec 16) (paths downPaths : Nat) (checkOk : Bool) (s : State) : Reply :=
  .next (if !packetOk p || s.fab.endpoint.any (fun e => e ≠ p.dst.toNat) then s.dropBad
    else if p.typ.toNat ≠ 0x3F then s
    else if p.jtag ≠ 0#32 || !checkOk || s.sec.fmk.isNone then s.stranger p
    else if paths = 0 || 16 < paths then s
    else { s with fab := { s.fab with
      endpoint := some endpt.toNat, paths := paths, pathsDown := (List.range 16).filter (fun i => downPaths.testBit i) } })

end Sys2Proof.Machine
end

