-- ==== Sys2Proof/Machine/CollEvents.lean ====
section
/-! DEFINITION. CollEvents.lean: the events of collectives (R356, R358, R366 to R372): starts, setup records and verdicts,
chunk data up and down, endings, timeouts and retransmission. -/

namespace Sys2Proof.Machine

open Sys2Proof

/-- A collective of a job that has not ended, by group and sequence. -/
def Job.liveColl (jb : Job) (gid seq : Nat) : Option Coll :=
  jb.colls.find? (fun c => c.gid = gid && c.seq = seq && c.endedWith.isNone)

/-- The collective a packet belongs to, where it holds a context (R358). -/
def Job.collOf (jb : Job) (p : Packet) : Option Coll :=
  (jb.liveColl p.ackbase.toNat p.seq.toNat).bind (fun c => if c.active then some c else none)

/-- `COLL_START` (R369): the earliest queued collective takes a free context. -/
def State.collStart (s : State) (j : Nat) : State :=
  if s.collsActive < 16 then
    match (s.job j).firstQueued with
    | some c => (s.startColl j c).collsChanged j
    | none => s
  else s

def execCollStart (j : Nat) (s : State) : Reply := .next (s.collStart j)

/-- A stage a member collects. -/
def Coll.collects (c : Coll) (i : Nat) : Option StageEntry :=
  c.stages[i]?.bind (fun e => if e.collector then some e else none)

/-- The record a collector repeats with its verdict. -/
def Coll.verdictRecord (s : State) (j : Nat) (c : Coll) : SetupRecord :=
  { step := (s.job j).step, count := c.src.size, srcFmt := BitVec.ofNat 5 c.src.fmt, dstFmt := BitVec.ofNat 5 c.dst.fmt
    exact := c.exact, fixed := c.fixed, slotLog2 := c.slotLog2, abort := false, stepDiffers := false, paramsDiffer := false
    chunks := c.anchors }

/-- A packet of a setup record joins those that have come (R376). -/
def Coll.takeSetup (c : Coll) (x : SetupPart) : Coll :=
  if c.setupParts.any (fun y => y.frm = x.frm && y.packet = x.packet) then c else { c with setupParts := c.setupParts ++ [x] }

/-- The parts of one record. -/
def Coll.setupFrom (c : Coll) (frm : Option (Nat × Nat)) : List SetupPart := c.setupParts.filter (fun x => x.frm = frm)

/-- `COLL_SETUP` (R366): a stage's input's record, taken once whole; a repeated one gets the verdict again. -/
def execCollSetup (p : Packet) (stage input : Nat) (r : SetupRecord) (s : State) : Reply :=
  .next (s.receive 0x20 p fun j s =>
    match (s.job j).collOf p with
    | none => s
    | some c =>
      match c.collects stage with
      | none => s
      | some e =>
        if c.phase == .data then
          if bitsOf p.offset.toNat 32 10 = 0 then s.sendSetup j c 0x21 stOK e (Coll.verdictRecord s j c) 0 else s
        else if c.records.any (fun x => x.1 = stage && x.2.1 = input) then s
        else
          let c := c.takeSetup (setupPart p (some (stage, input)) r)
          match wholeSetup (c.setupFrom (some (stage, input))) with
          | none => s.putColl j c
          | some (_, r) =>
            (s.setupUp j (c.stages.length + 1) { c with records := c.records ++ [(stage, input, r)] }).collsChanged j)

/-- `COLL_SETUP_RSP` (R367): the verdict comes down, taken once whole. A status outside Table 18.1 makes a bad packet (R14, log 133). -/
def execCollSetupRsp (p : Packet) (r : SetupRecord) (s : State) : Reply :=
  .next (s.receive 0x21 p fun j s =>
    match (s.job j).collOf p with
    | some c =>
      if !(statusCodes.contains (BitVec.ofNat 16 p.handle.toNat)) then s.dropBad
      else if c.phase == .setup && c.setupSent then
        let c := c.takeSetup (setupPart p none r)
        match wholeSetup (c.setupFrom none) with
        | none => s.putColl j c
        | some (st, r) => (s.applyVerdict j c st r).collsChanged j
      else s
    | none => s)

/-- A registered group of a job by its group id. -/
def Job.groupOf (jb : Job) (gid : Nat) : Option Group :=
  (jb.groups.filterMap Prod.snd).find? (fun g => g.gid = gid)

/-- The part of a chunk that a packet carries. -/
def partOf (p : Packet) (stage input : Nat) (down : Bool) : CollPart :=
  { chunk := bitsOf p.offset.toNat 0 32, stage := stage, input := input, packet := bitsOf p.offset.toNat 32 10
    special := p.subop.toNat.testBit 1, down := down, bytes := p.payload, flags := BitVec.ofNat 4 (p.subop.toNat / 16) }

/-- `COLL_UP` (R360, R358): data of a stage's input; for a chunk whose result was sent the result goes down again. -/
def execCollUp (p : Packet) (stage input : Nat) (s : State) : Reply :=
  .next (s.receive 0x22 p fun j s =>
    match (s.job j).collOf p with
    | none => s
    | some c =>
      let x := partOf p stage input false
      match c.collects stage with
      | none => s
      | some e =>
        match (c.chunk x.chunk).bind CollChunk.result with
        | some (d, w, fl) => s.sendChunk j c x.chunk e 0x23 0 fl.toNat d w 0
        | none =>
          if c.phase == .data && decide (x.chunk < c.chunkCount) && !(c.parts.any (samePlace x)) then
            (s.collStep j { c with parts := c.parts ++ [x] }).collsChanged j
          else s)

/-- `COLL_DOWN` (R356): the first result of a chunk is taken once whole, written, and passed down. -/
def execCollDown (p : Packet) (s : State) : Reply :=
  .next (s.receive 0x23 p fun j s =>
    match (s.job j).collOf p with
    | none => s
    | some c =>
      match c.chunk (bitsOf p.offset.toNat 0 32) with
      | none => s
      | some ch =>
        let x := partOf p ch.stage 0 true
        if !(c.phase == .data) || !ch.sent || ch.result.isSome || c.parts.any (samePlace x) then s
        else
          let c := { c with parts := c.parts ++ [x] }
          let ps := c.partsAt ch.chunk ch.stage true
          if c.whole ch.chunk ps then
            let r := (c.join ch.chunk false ps, c.join ch.chunk true ps, x.flags)
            (s.collStep j (c.setChunk { ch with result := some r })).collsChanged j
          else s.putColl j c)

/-- `COLL_END` (R370): the collective ends with the notice's status, which goes on; one not issued here yet is recorded, and the
notice goes on through the stages of its group. A status outside Table 18.1 makes a bad packet (R14, log 133). -/
def execCollEnd (p : Packet) (s : State) : Reply :=
  .next (s.receive 0x24 p fun j s =>
    let gid := p.ackbase.toNat
    let seq := p.seq.toNat
    let st : Status := BitVec.ofNat 16 p.handle.toNat
    if !(statusCodes.contains st) then s.dropBad else
    match (s.job j).liveColl gid seq with
    | some c => (s.abortColl j c st).collsChanged j
    | none =>
      if (s.endedColl j gid seq).isSome then s
      else
        match (s.job j).groupOf gid with
        | some g => (s.collNotice j gid seq g.stages st).recordEnded j gid seq st
        | none => s.recordEnded j gid seq st)

/-- `COLL_TIMEOUT` (R370). -/
def execCollTimeout (j gid seq : Nat) (s : State) : Reply :=
  .next (match (s.job j).liveColl gid seq with
    | some c =>
      ((s.passTo (BitVec.ofNat 64 (c.issued.toNat + c.timeoutMs * 1000000))).abortColl j c stCollTimeout).collsChanged j
    | none => s)

/-- `COLL_RETRANSMIT` (R358): what an input sent goes again with `RETX`: the chunk's packets, which are counted (Table 12.11), or
its setup record. -/
def execCollRetransmit (j gid seq chunk : Nat) (s : State) : Reply :=
  .next (match (s.job j).liveColl gid seq with
    | none => s
    | some c =>
      if c.phase == .setup then
        match c.stages[c.setupStage]?, c.setup with
        | some e, some r =>
          if c.setupSent then s.sendSetup j c 0x20 stOK e r 1 else s
        | _, _ => s
      else
        match c.chunk chunk with
        | none => s
        | some ch =>
          match c.stages[ch.stage]? with
          | none => s
          | some e =>
            if ch.sent && ch.result.isNone then
              (s.sendChunk j c chunk e 0x22 (if e.kind = 2 then bit (c.form ≠ 2) else 0) 0 ch.data ch.special 1).count
                0x290 32 32 1
            else s)

end Sys2Proof.Machine
end

