-- ==== Sys2Proof/Machine/Teardown.lean ====
section
/-! DEFINITION. Teardown.lean: the end of a job context (R301, R254, R344), which `TEARDOWN`, a takeover, a handover and a
declared package failure share. -/

namespace Sys2Proof.Machine

open Sys2Proof

/-! ## Stopping the tiles (R301 step 1) -/

/-- The tiles of a die, by any tile on it. -/
def State.dieTiles (s : State) (t : Nat) : List Nat :=
  (List.range s.tilesPerDie).map (fun p => s.dieOf t * s.tilesPerDie + p)

/-- The cascades of an engine class whose mask includes a tile, as master and members. -/
def State.cascadesWith (s : State) (e : Engine) (t : Nat) : List (Nat × List Nat) :=
  (s.dieTiles t).filterMap (fun q =>
    match s.runningOf q e with
    | none => none
    | some r =>
      let c := s.cascadeCmd q r.cmd
      if cascMaster c.op c.w then
        let ts := membersOf q (s.maskTiles (s.dieOf t) (cascMask c))
        if ts.contains t then some (cascId c, ts) else none
      else none)

/-- The running command of a tile that belongs to a cascade of an id. -/
def State.inCascade (s : State) (e : Engine) (cid q : Nat) : Option Running :=
  (s.runningOf q e).filter (fun r =>
    let c := s.cascadeCmd q r.cmd
    (cascMaster c.op c.w || cascMember c.op) && cascId c = cid)

/-- The command of a cascade's master, which stands first among its members and wrote for all of them, is cut short. -/
def State.cutMaster (s : State) (e : Engine) (ts : List Nat) : State :=
  (((ts.head?).bind (fun m => s.runningOf m e)).map s.unwrite).getD s

/-- Every cascade that includes a tile ends with its members; their commands report nothing. -/
def State.dropCascades (s : State) (t : Nat) : State :=
  [Engine.me, .de, .se].foldl (fun s e =>
    (s.cascadesWith e t).foldl (fun s c =>
      let s := s.cutMaster e c.2
      c.2.foldl (fun s q =>
        if (s.inCascade e c.1 q).isSome then s.setRunning q e none else s) s) s) s

/-- A tile stopped: no command runs or waits on it, its sequencer idles, and shadowed values are in use. -/
def Tile.stop (x : Tile) : Tile :=
  { (allEngines.foldl Tile.boundary x) with
    engines := [], mode := .idle, wait := .none, held := none, xct := none, haltPending := none, loops := [], ftq := []
    fwd := [], taken := [], fwdFail := [], epi := none, solver := [], skipBreak := false }

/-- The running commands of a tile are cut short. -/
def State.cutTile (s : State) (t : Nat) : State :=
  allEngines.foldl (fun s e => ((s.runningOf t e).map s.unwrite).getD s) s

/-- Every tile of a context stops. -/
def State.stopTiles (s : State) (j : Nat) : State :=
  let ts := (s.job j).tiles
  let s := (ts.foldl State.dropCascades s)
  let s := ts.foldl State.cutTile s
  let s := ts.foldl (fun s t => s.modTile t Tile.stop) s
  ts.foldl (fun s t => allEngines.foldl (fun s e => s.regWritesReady t e) s) s

/-! ## Items (R301 step 3) -/

/-- How the items of an ending context end: as `TEARDOWN` says, its streams alone with a status (R391), or all of them
(R393, R396). -/
inductive Ending where
  | teardown
  | streams (st : Status)
  | all (st : Status)
  deriving DecidableEq, Repr

/-- A stream item that is still open. -/
def State.endStreamItem (k : Ending) (s : State) (t : Nat) : State :=
  match k with
  | .teardown => s.finishStream t .donePartial stPartial (BitVec.ofNat 64 (fieldOf ((s.tile t).reg .sq 0x10) 0 48))
  | .streams st => s.finishStream t .failed st 0#64
  | .all st => s.finishStream t .failed st 0#64

/-- How an armed stop ends. -/
def Ending.waiting : Ending → ItemOutcome × Status
  | .all st => (.failed, st)
  | _ => (.skipped, stSkipped)

/-- The cut of an ending context: skipped before its capture, torn while it copies, however the context ends (Table 14.5, log 132). -/
def State.endJobCut (s : State) (j : Nat) : State :=
  let c := (s.job j).cut
  if c.state = 1 then s.endCut j 6 .skipped stSkipped 0#64
  else if c.active then s.failCut j stTorn 0#64
  else s

/-- Everything that an ending context still has open (log 31: a `MIRROR_SETUP` without its confirmation fails as at its
expiry). -/
def State.endItems (s : State) (j : Nat) (k : Ending) : State :=
  let s := (s.job j).tiles.foldl (State.endStreamItem k) s
  let s := s.finishItem? (s.job j).stopItem k.waiting.1 k.waiting.2 0xFFFF 0#64
  let s := s.endJobCut j
  let s := match k with
    | .all st =>
      let s := (s.job j).unmapItems.foldl (fun (s : State) (u : ItemRef × Nat × Nat) => s.finishItem u.1 .failed st 0xFFFF 0#64) s
      s.modJob j (fun jb => { jb with unmapItems := [] })
    | _ => s
  let s := s.finishItem? (s.job j).mirror.item .failed (match k with | .all st => st | _ => stNotPermitted) 0xFFFF 0#64
  s.unmapReady j

/-! ## Memory (R254, R301 step 4) -/

/-- Device addresses of the frames of a job's scratchpad regions. -/
def Store.scratchFrames (st : Store) (j : Nat) : List Nat :=
  (st.panRegs.filter (fun r => panField r.2 19 1 = 1 && panField r.2 16 1 = 0 && panField r.2 20 4 = j)).flatMap (fun r =>
    (List.range (panField r.2 8 8)).map (fun i => pantryBase (r.1 / 16) / 0x200000 + panField r.2 0 8 + i))

/-- The 2 MiB frames a job context maps or holds: mapped ones, those of its scratchpad regions and of its tiles' stores,
and the copy and log frames of a sink. -/
def State.framesOf (s : State) (j : Nat) : List Nat :=
  let jb := s.job j
  (jb.pages.filter (fun e => e.2.mapped)).map (fun e => e.2.frame) ++ s.store.scratchFrames j
    ++ jb.tiles.flatMap (fun t => [tileBase t / 0x200000, tileBase t / 0x200000 + 1])
    ++ (List.range (jb.mirror.copyBytes / 0x200000)).map (fun i => jb.mirror.copyBase / 0x200000 + i)
    ++ (List.range (jb.mirror.logBytes / 0x200000)).map (fun i => jb.mirror.logBase / 0x200000 + i)

/-- A frame of the copy or the log that a sink holds (R384). -/
def Mirror.holds (m : Mirror) (f : Nat) : Bool :=
  let within (base len : Nat) : Bool := decide (base / 0x200000 ≤ f) && decide (f < base / 0x200000 + (len + 0x1FFFFF) / 0x200000)
  within m.copyBase m.copyBytes || within m.logBase m.logBytes

/-- A frame that some context other than one maps, or holds for a mirror. -/
def State.mappedElsewhere (s : State) (j f : Nat) : Bool :=
  (List.range 16).any (fun k => k ≠ j &&
    ((s.job k).pages.any (fun e => e.2.mapped && e.2.frame = f) || (s.job k).mirror.holds f))

/-- Zero-fill of the frames that the context maps and no other does. -/
def State.zeroFrames (s : State) (j : Nat) : State :=
  ((dedup (s.framesOf j)).filter (fun f => !(s.mappedElsewhere j f))).foldl
    (fun s f => s.withStore (s.store.zeroFill (f * 0x200000) 0x200000)) s

/-- The pantry regions of a context are free again: 0 is staged for each of its registers, and `PAN_GEN` of every die it had a
region on is written, as at its load (R11, R251, R301). -/
def State.freeRegions (s : State) (j : Nat) : State :=
  let mine := (s.store.panRegs.filter (fun r => panField r.2 19 1 = 1 && panField r.2 20 4 = j)).map Prod.fst
  (dedup (mine.map (fun k => k / 16))).foldl State.pantryCommit
    (s.withStore { s.store with
      panStaged := mine.foldl (fun m k => SMap.set none m k (some 0#24)) s.store.panStaged
      tracks := s.store.tracks.filter (fun t => t.job ≠ j) })

/-- A tile that belongs to no context. -/
def Tile.release (x : Tile) : Tile :=
  { x with owner := none, loaded := false, started := false, ended := false, streamItem := none, breakItem := none, tags := [] }

/-- What the registers show of the latest cut of a context (Table 14.9) stays when the context is gone. -/
def Cut.shown (c : Cut) : Cut :=
  { state := c.state, gen := c.gen, status := c.status, written := c.written, boundary := c.boundary }

/-- The context is gone; its torn tag stays shown while it is in quarantine, and its latest cut as it ended. -/
def State.clearJob (s : State) (j : Nat) : State :=
  let jb := s.job j
  let s := jb.tiles.foldl (fun s t => s.modTile t Tile.release) s
  s.setJob j { ({} : Job) with tagState := jb.tagState, lastTag := jb.lastTag, cut := jb.cut.shown }

/-- The fabric tag of an ending context is torn down, so that its collectives end; then its caches are written back, its
captures release their blocks, its frames are zero-filled and its pages unmapped. -/
def State.freeJob (s : State) (j : Nat) : State :=
  let s := (s.tearFabric j).flushCaches j
  let s := s.withStore { s.store with captures := s.store.captures.filter (fun c => c.job ≠ j) }
  let s := s.zeroFrames j
  ((s.freeRegions j).clearJob j).guardRetry

/-- Steps 3 and 4 of R301 once the tiles have stopped. -/
def State.endJobRest (s : State) (j : Nat) (k : Ending) : State := (s.endItems j k).freeJob j

/-- The register writes that wait on a context's tiles fail with it, where its items do (R393, R396). -/
def State.failWrites (s : State) (j : Nat) (k : Ending) : State :=
  match k with
  | .all st =>
    (s.job j).tiles.foldl (fun s t =>
      ((s.tile t).regWrites.foldl (fun (s : State) (w : RegWait) => s.finishItem w.item .failed st 0xFFFF 0#64) s).modTile t
        (fun x => { x with regWrites := [] })) s
  | _ => s

/-- A job context ends. -/
def State.endJob (s : State) (j : Nat) (k : Ending) : State :=
  if (s.job j).phase = 0 then s else ((s.failWrites j k).stopTiles j).endJobRest j k

end Sys2Proof.Machine
end

