-- ==== Sys2Proof/Machine/Faults.lean ====
section
/-! DEFINITION. Faults.lean: single faults inside a package (R23, R24, R45, R395 to R398), lanes and porches (R310 to R312),
memory errors and background activity (R256, R257, R267), the hearth pair (R303 to R305), failure warnings (R401), and the
declared failure of the package (R396). -/

namespace Sys2Proof.Machine

open Sys2Proof

/-! ## Tiles (R23, R24, R45, R397, R489) -/

/-- The command of a cascade's master, which stands first among its members. -/
def State.masterCmd (s : State) (e : Engine) (ts : List Nat) : Option EngineCmd :=
  (ts.head?).bind (fun t => (s.runningOf t e).map (fun r => s.cascadeCmd t r.cmd))

/-- A cascade that includes a lost tile fails on every member that remains (R140). A member that has pushed its last queue
entry already pushes no other (R128). -/
def State.loseCascades (s : State) (t : Nat) : State :=
  [Engine.me, .de, .se].foldl (fun s e =>
    (s.cascadesWith e t).foldl (fun s c =>
      let master := s.masterCmd e c.2
      let s := s.cutMaster e c.2
      c.2.foldl (fun s q =>
        match s.inCascade e c.1 q with
        | some r =>
          let settled := match r.stage with
            | .ready _ => true
            | _ => false
          if q = t then s
          else s.failRunning q e r (master.getD r.cmd) (!settled && master.any (fun m => queuedMember m (c.2.head? = some q))) stTileLost 0
        | none => s) s) s) s

/-- Solver states that a lost tile belonged to are discarded (R170). -/
def State.loseSaves (s : State) (t : Nat) : State :=
  (s.dieTiles t).foldl (fun s q =>
    s.modTile q (fun x => { x with
      solver := x.solver.filter (fun v => !(seCasc v.cmd && (s.maskTiles (s.dieOf t) (cascMask v.cmd)).contains t)) })) s

/-- A held tile halts with `TILE_LOST` (R45). -/
def State.haltHeld (s : State) (q : Nat) : State :=
  match (s.tile q).wait, (s.tile q).held.bind Instr.streamOf with
  | .arrived, some (_, _, w) => s.haltAt q w stTileLost
  | _, _ => s

/-- A boundary whose tile is lost (R45): while tiles wait or the actions run, nothing of it is kept; at a stop, the
boundary stands, and `PHASE` becomes 1 whether or not another tile is held. -/
def State.failBoundary (s : State) (j : Nat) : State :=
  let jb := s.job j
  let waiting := jb.tiles.any (fun q => (s.tile q).wait == .arrived)
  if jb.phase = 0 || (jb.phase = 1 && !waiting) then s
  else
    let s := if jb.phase ≠ 3 && jb.cut.due (jb.step + 1#64) then s.failCut j stTileLost 0#64 else s
    let s := jb.tiles.foldl State.haltHeld s
    s.modJob j (fun jb => { jb with phase := 1 })

/-- A page of a job that lies in a tile's store. -/
def State.pageInTile (s : State) (j t page : Nat) : Bool :=
  let e := SMap.get {} (s.job j).pages page
  e.mapped && inTiles (e.frame * 0x200000) && tileOfPa (e.frame * 0x200000) = t

/-- Collectives whose buffer lies in a lost tile (R372). -/
def State.loseColls (s : State) (t j : Nat) : State :=
  (s.job j).colls.foldl (fun s c =>
    if (c.src.pages ++ c.dst.pages).any (s.pageInTile j t) then
      match c.phase with
      | .ended _ => s
      | .data => (s.abortColl j c stCollAbort).collsChanged j
      | _ => s.putColl j { c with abort := true, setup := c.setup.map (fun r => { r with abort := true }) }
    else s) s

/-- The tile after the loss (R489): a spare's registers show the halt of a stream that had started and not ended. -/
def Tile.lost (x : Tile) (spare : Bool) : Tile :=
  let live := x.started && !x.ended
  let y : Tile := { avail := spare, owner := x.owner, started := x.started, ended := x.ended || live
                    streamItem := x.streamItem, breakItem := x.breakItem }
  if spare && live then
    { (y.setReg .sq 0x20 (BitVec.ofNat 64 stTileLost.toNat)).setReg .sq 0x28 (setField 0#64 0 48 (2 ^ 48 - 1)) with mode := .halted }
  else y

/-- Lanes of a word that are down. -/
def lanesDown (n : Nat) {w : Nat} (up : BitVec w) : Nat := ((List.range n).filter (fun k => !(up.getLsbD k))).length

/-- A condition of Table 14.1 that the state itself shows, as it stands now; a package with no twin beside it has no gallery
lanes to lose. -/
def State.warned (s : State) (b : Nat) : Bool :=
  match b with
  | 5 => decide (8 ≤ lanesDown 128 s.fab.lanesUp) || (s.board.pairSense && decide (4 ≤ lanesDown 32 s.pair.galleryUp))
  | 6 => s.clk.hot90.any (fun t => decide (t.toNat + 1000000000 ≤ s.now.toNat))
  | 7 => (List.range 8).any (fun d => SMap.get 0 s.clk.spares d = 0)
  | 8 => !s.store.later.isEmpty
  | 9 => s.fab.porchUp ≠ 15#4
  | 10 => !s.sec.standbyOk && !s.sec.asleep
  | _ => false

/-- The advisory of a condition that a change has made true: one that was true before it raises nothing again (R401, log 138). -/
def State.adviseNew (s was : State) (b : Nat) : State := if s.warned b && !was.warned b then s.advise b else s

/-- A spare takes the logical id, with its store lost; or the id becomes unavailable. -/
def State.substitute (s : State) (t : Nat) : State :=
  let d := s.dieOf t
  let n := SMap.get 0 s.clk.spares d
  let spare := decide (0 < n)
  let s := s.modTile t (fun x => x.lost spare)
  if !spare then s
  else
    let was := s
    let s := ({ s with clk := { s.clk with spares := SMap.set 0 s.clk.spares d (n - 1) } }).moveSite t false
    (s.freeArea (tileBase t) 0x400000).adviseNew was 7

/-- `TILE_FAULT` (R397). -/
def State.loseTile (s : State) (t : Nat) : State :=
  let x := s.tile t
  if !x.avail then s
  else
    let s := (s.loseCascades t).loseSaves t
    let s := x.regWrites.foldl (fun s w => s.finishItem w.item .failed stTileLost t 0#64) s
    let s := (s.faultRaised 1 t).substitute t
    let s := if x.started && !x.ended then s.finishStream t .failed stTileLost (BitVec.allOnes 64) else s
    match x.owner with
    | none => s
    | some j => ((s.failBoundary j).loseColls t j).jobWake j

def execTileFault (t : Nat) (s : State) : Reply := .next (s.loseTile t)

/-- `AGING_REPORT` (R398): a tile below the threshold rotates, one of a job at its next boundary. None is made in Doze and below
(R441). -/
def execAgingReport (t : Nat) (below : Bool) (s : State) : Reply :=
  .next (if !below || !(s.tile t).avail || 2 ≤ s.clk.powerState then s
    else
      match (s.tile t).owner with
      | some j => s.modJob j (fun jb => { jb with rotate := if jb.rotate.contains t then jb.rotate else jb.rotate ++ [t] })
      | none => if s.mayRotate t then s.rotateTile t else s)

/-! ## Lanes (R310 to R312) -/

/-- With the last gallery lane every source mirror is suspended (R388, R389). -/
def State.galleryCheck (s : State) : State := if s.pair.galleryUp = 0#32 then s.suspendMirrors 3 else s

/-- A lane goes down (R312). -/
def State.dropLane (s : State) (gallery : Bool) (lane : Nat) : State :=
  if gallery then
    if !(s.pair.galleryUp.getLsbD lane) then s
    else
      let was := s
      let s := { s with pair := { s.pair with galleryUp := s.pair.galleryUp &&& ~~~(BitVec.ofNat 32 (2 ^ lane)) } }
      (s.faultRaised 3 lane).galleryCheck.adviseNew was 5
  else if !(s.fab.lanesUp.getLsbD lane) then s
  else
    let was := s
    let s := { s with fab := { s.fab with lanesUp := s.fab.lanesUp &&& ~~~(BitVec.ofNat 128 (2 ^ lane)) } }
    ((s.faultRaised 2 lane).fbEvent 2 lane 0).adviseNew was 5

/-- `LANE_DOWN` (R312). -/
def execLaneDown (gallery : Bool) (lane : Nat) (s : State) : Reply := .next (s.dropLane gallery lane)

/-- `LINK_FRAME` (R310): FEC corrections are counted; a frame that fails its CRC is discarded and retried, and one that
fails 16 retries in a row takes its lane down. -/
def execLinkFrame (gallery : Bool) (lane corrected : Nat) (crcOk : Bool) (s : State) : Reply :=
  let k := if gallery then 128 + lane else lane
  let n := SMap.get 0 s.fab.retries k + 1
  let put (s : State) (v : Nat) : State := { s with fab := { s.fab with retries := SMap.set 0 s.fab.retries k v } }
  let s := s.count 0x240 0 32 corrected
  .next (if crcOk then put s 0
    else if n = 17 then (put s 0).dropLane gallery lane
    else (put (s.count 0x240 32 32 1) n).emit (.frameRetry gallery lane))

/-- `EYE_RECENTRE` (R311): timing only. -/
def execEyeRecentre (_gallery : Bool) (_lane : Nat) (s : State) : Reply := .next s

/-! ## The declared failure of the package (R396) -/

/-- The codes with which an item can be FAILED (R483 Table 18.1). -/
def failedCodes : List Status :=
  [stIllegal, stEngineAbsent, stRefused, stAlignment, stLoopDepth, stDescBad, stBusy, stSingular, stNonfinite, stChecksum,
    stPoisoned, stTranslation, stTorn, stTargetDead, stFenceTimeout, stCollTimeout, stStepMismatch, stCollAbort, stAuthTag,
    stAuthReplay, stNotPermitted, stTileLost, stTakeover, stHearthFailover]

/-- A status as one of those: B1 returns no other (R14, R483), so that a free value stands for one of them (log 32). -/
def failedCode (st : Status) : Status :=
  if failedCodes.contains st then st else failedCodes.getD (st.toNat % failedCodes.length) stTileLost

/-- Notice to the twin, no more heartbeats, every job context ended with its items FAILED with the status of the fault, and the
event. -/
def State.declareFailed (s : State) (cause : Status) : State :=
  let cause := failedCode cause
  if s.sec.failed then s
  else
    let s := if (s.pair.state = 1 || s.pair.state = 2) && s.pair.galleryUp ≠ 0#32 then s.emit .failureNotice else s
    let s := (List.range 16).foldl (fun s j => s.endJob j (.all cause)) s
    let s := { s with sec := { s.sec with failed := true } }
    (s.faultRaised 8 0).mbxEvent 5

/-- `PACKAGE_FAILED` (R396). -/
def execPackageFailed (cause : Status) (s : State) : Reply := .next (s.declareFailed cause)

/-! ## Planes and porches (R19, R312, R396) -/

/-- `PLANE_FAILOVER` (R19). Where no plane is left, which Table 13.5 does not list, the package is declared failed, with a status
that the spec does not state (R396, log 32). -/
def execPlaneFailover (plane : Nat) (s : State) : Reply :=
  .next (if !(s.clk.planesUp.getLsbD plane) then s
    else
      let s := { s with clk := { s.clk with planesUp := s.clk.planesUp &&& ~~~(BitVec.ofNat 2 (2 ^ plane)) } }
      let s := (s.faultRaised 5 plane).mbxEvent 5
      if s.clk.planesUp = 0#2 then (s.declareFailed (BitVec.ofNat 16 s.freeWord.toNat)).drawn else s)

/-- `PORCH_FAULT` (R312): the porch's lanes leave; its flow and collective state goes on in the next porch. Where that
porch is lost too and the state it had promoted is not mirrored again, the package is declared failed, with a status that
the spec does not state (log 32). -/
def State.losePorch (s : State) (p : Nat) : State :=
  if !(s.fab.porchUp.getLsbD p) then s
  else
    let next := (p + 1) % 4
    let fatal := !(s.fab.porchUp.getLsbD next) && !(s.fab.mirrored.getLsbD next)
    let one := BitVec.ofNat 4 (2 ^ p)
    let was := s
    let s := { s with
      fab := { s.fab with
        porchUp := s.fab.porchUp &&& ~~~one
        mirrored := s.fab.mirrored &&& ~~~one
        lanesUp := s.fab.lanesUp &&& ~~~(BitVec.ofNat 128 (0xFFFFFFFF * 2 ^ (32 * p))) }
      pair := { s.pair with galleryUp := s.pair.galleryUp &&& ~~~(BitVec.ofNat 32 (0xFF * 2 ^ (8 * p))) } }
    let s := ((((s.faultRaised 4 p).fbEvent 3 p 0).adviseNew was 9).galleryCheck).adviseNew was 5
    if fatal then (s.declareFailed (BitVec.ofNat 16 s.freeWord.toNat)).drawn else s

def execPorchFault (p : Nat) (s : State) : Reply := .next (s.losePorch p)

/-- `PORCH_REMIRROR` (R396): the state that a lost porch left is mirrored again. -/
def execPorchRemirror (p : Nat) (s : State) : Reply :=
  .next (if s.fab.porchUp.getLsbD p then s
    else { s with fab := { s.fab with mirrored := s.fab.mirrored ||| BitVec.ofNat 4 (2 ^ p) } })

/-! ## Memory (R256, R257, R259, R267) -/

/-- The cellar blocks that touch a pseudo-channel, with one mapped out before it or none. -/
def channelBlocks (mapped : Option Nat) (pc : Nat) : List Nat := (List.range 0x4000000).filter (fun b => blockTouches mapped b pc)

/-- Every block of a failed pseudo-channel becomes poisoned. -/
def State.poisonChannel (s : State) (mapped : Option Nat) (pc : Nat) : State :=
  s.takeStore ((channelBlocks mapped pc).foldl Store.poisonBlock s.store)

/-- `PC_MAPOUT` (R257): the first is redirected, a later one is not and its blocks stay poisoned. -/
def State.mapOut (s : State) (pc : Nat) : State :=
  if s.store.mapped = some pc || s.store.later.contains pc then s
  else
    let first := s.store.mapped.isNone
    let before := s.store.mapped
    let s := if first then s.withStore { s.store with mapped := some pc }
      else s.withStore { s.store with later := s.store.later ++ [pc] }
    let s := ((s.poisonChannel before pc).faultRaised 6 pc).emit (.telemetry 5 pc s.now)
    if s.store.later.length = 1 && !first then s.advise 8 else s

def execPcMapout (pc : Nat) (s : State) : Reply := .next (s.mapOut pc)

/-- An uncorrectable word (R259): its block is poisoned; a clean line is dropped instead. -/
def Store.wordLost (st : Store) (blk : Nat) (line : Bool) : Store :=
  let l := SMap.get {} st.lines blk
  if line && l.present && !l.dirty then
    { st with lines := SMap.set {} st.lines blk {}, cacheMem := SMap.clearRange st.cacheMem (blk * 4096) 4096 }
  else st.poisonBlock blk

/-- `SCRUB` (R267): scrubbing pauses in Doze and below (R441). -/
def execScrub (addr : Nat) (line : Bool) (outcome : ScrubOutcome) (s : State) : Reply :=
  let n := if line then 1 else memoryOf addr
  let blk := addr / 4096
  .next (if 2 ≤ s.clk.powerState then s else match outcome with
    | .clean => s
    | .corrected => s.withStore (s.store.memCount n 0 32)
    | .uncorrectable =>
      let s' := s.takeStore ((s.store.wordLost blk line).memCount n 32 16)
      if s'.store.poison.length = s.store.poison.length then s' else s'.advise 3)

/-- `REFRESH` (R256): timing only. -/
def execRefresh (_pc _bank : Nat) (s : State) : Reply := .next s
/-- `REFRESH_MANAGEMENT` (R256): timing only. -/
def execRefreshManagement (_pc _bank : Nat) (s : State) : Reply := .next s

/-! ## Failure warnings (R401) -/

/-- `CKPT_ADVISORY` (R401): a condition of Table 14.1 becomes true. One that the state shows raised and still true becomes so no
more. -/
def execCkptAdvisory (b : Nat) (s : State) : Reply :=
  .next (if b < 11 && !(s.warned b && fieldOf (s.bar2Word 0x800) b 1 = 1) then s.advise b else s)

/-- `ADVISORY_CLEAR` (R401): the condition has been false for 60 s, and is. -/
def execAdvisoryClear (b : Nat) (s : State) : Reply := .next (if b < 11 && !s.warned b then s.putField 0x800 b 1 0 else s)

/-! ## The hearth pair (R303 to R305) -/

/-- `HEARTH_HEARTBEAT` (R303): the standby hears it or counts it missed. -/
def execHearthHeartbeat (missed : Bool) (s : State) : Reply :=
  .next (if !s.sec.standbyOk then s
    else { s with sec := { s.sec with missedHearth := if missed then s.sec.missedHearth + 1 else 0 } })

/-- What a pairing under way has shown is done with. -/
def Pair.unasked (x : Pair) : Pair :=
  { x with item := none, itemTwin := [], twinId := [], twinChecked := false, told := false }

/-- Started items that a failover ends (R304): those that do not live in tiles, porches or sequencers. -/
def State.failoverItems (s : State) : State :=
  let s := s.finishItem? s.pair.item .failed stHearthFailover 0xFFFF 0#64
  let s := if s.pair.item.isSome then { s with pair := s.pair.unasked } else s
  (List.range 16).foldl (fun s j =>
    let s := (s.job j).unmapItems.foldl (fun s u => s.finishItem u.1 .failed stHearthFailover 0xFFFF 0#64) s
    let s := s.modJob j (fun jb => { jb with unmapItems := [] })
    match (s.job j).mirror.item with
    | none => s
    | some r =>
      (s.modJob j (fun jb => { jb with mirror := {} })).finishItem r .failed stHearthFailover 0xFFFF 0#64) s

/-- A hearth is lost, and with it the secured SPDM session of its port (R452). -/
def State.hearthDead (s : State) (h : Nat) : State :=
  let s := s.setHearth h { (s.hearth h) with alive := false }
  s.modPort (if h = 0 then .a else .b) (fun q => { q with spdm := {} })

/-- The standby fences the active hearth and takes over (R303 Table 10.12). -/
def State.promote (s : State) : State :=
  if !s.sec.standbyOk then s
  else
    let old := s.sec.active
    let s := s.hearthDead old
    let s := { s with sec := { s.sec with
      active := 1 - old, standbyOk := false, missedHearth := 0, failovers := min 0xFFFF (s.sec.failovers + 1)
      failoverTime := s.now } }
    (s.failoverItems.faultRaised 7 old).mbxEvent 1

/-- `HEARTH_FAILOVER` (R303): after 25 missed heartbeats. -/
def execHearthFailover (s : State) : Reply := .next (if 25 ≤ s.sec.missedHearth then s.promote else s)

/-- The standby is lost (R305). -/
def State.loseStandby (s : State) : State :=
  if !s.sec.standbyOk then s
  else
    let h := 1 - s.sec.active
    let s := s.hearthDead h
    let s := { s with sec := { s.sec with standbyOk := false, missedHearth := 0 } }
    ((s.faultRaised 7 h).mbxEvent 2).advise 10

/-- `STANDBY_LOST` (R305). -/
def execStandbyLost (s : State) : Reply := .next s.loseStandby

end Sys2Proof.Machine
end

