-- ==== Sys2Proof/Machine/Mailbox.lean ====
section
/-! DEFINITION. Mailbox.lean: seals, hampers and their acceptance (R286 to R298, Tables 10.4 to 10.10): what a slot holds, the
order in which Skeka takes hampers, the eight tests, keyed checks and counters, and answers. -/

namespace Sys2Proof.Machine

open Sys2Proof

/-! ## Hampers -/

/-- A taken hamper (R290): its place, the header's fields, its body, and the port's challenge at the take. -/
structure Hamper where
  port : Port
  slot : Nat
  opcode : Nat
  hflags : Nat
  version : Nat
  seq : Nat
  length : Nat
  job : Nat
  reserved : Nat
  counter : Nat
  deadline : Nat
  check : List Byte
  head : List Byte
  body : List Byte
  chal : List Byte
  deriving DecidableEq, Repr

/-- The hamper a slot holds (Tables 10.4, 10.6). -/
def State.hamperAt (s : State) (p : Port) (n : Nat) : Hamper :=
  let x := s.slot p n
  let h := x.hdr
  { port := p, slot := n, opcode := fieldAt h 0 2, hflags := fieldAt h 2 1, version := fieldAt h 3 1, seq := fieldAt h 4 4
    length := fieldAt h 8 4, job := fieldAt h 12 1, reserved := fieldAt h 13 3, counter := fieldAt h 16 8
    deadline := fieldAt h 24 8, check := slice h 32 32, head := slice h 0 32
    body := (x.body ++ zeros 1984).take (min 1984 (fieldAt h 8 4)), chal := (s.portOf p).chal }

/-- Fields of the body. -/
def Hamper.at_ (h : Hamper) (off len : Nat) : Nat := fieldAt h.body off len
def Hamper.item (h : Hamper) : ItemRef := ⟨h.port, h.slot, 0⟩
def Hamper.keyed (h : Hamper) : Bool := h.hflags % 2 = 1

/-- A row of Table 10.10: urgent, critical, the body's size (none for any), and whether the header names a job. -/
structure HamperRow where
  urgent : Bool
  critical : Bool
  size : Option Nat
  named : Bool
  deriving DecidableEq, Repr

/-- Table 10.10, with what test 7 asks. -/
def hamperRow (opcode : Nat) : Option HamperRow :=
  match opcode with
  | 0x0001 => some ⟨true, false, none, false⟩
  | 0x0008 => some ⟨false, false, some 200, false⟩
  | 0x0010 => some ⟨false, true, some 120, true⟩
  | 0x0011 => some ⟨false, true, some 16, true⟩
  | 0x0012 => some ⟨false, false, some 40, true⟩
  | 0x0013 => some ⟨false, false, some 24, true⟩
  | 0x0014 => some ⟨false, false, some 16, true⟩
  | 0x0018 => some ⟨false, false, some 16, false⟩
  | 0x0019 => some ⟨false, false, some 16, false⟩
  | 0x001A => some ⟨false, false, some 8, false⟩
  | 0x0020 => some ⟨true, false, some 8, true⟩
  | 0x0021 => some ⟨false, false, some 0, true⟩
  | 0x0022 => some ⟨true, true, some 0, true⟩
  | 0x0030 => some ⟨false, false, some 224, true⟩
  | 0x0040 => some ⟨false, true, some 56, false⟩
  | 0x0041 => some ⟨false, true, some 8, true⟩
  | 0x0042 => some ⟨false, true, some 0, false⟩
  | 0x0043 => some ⟨false, true, some 136, true⟩
  | 0x0050 => some ⟨false, true, some 200, true⟩
  | 0x0051 => some ⟨false, true, some 0, true⟩
  | 0x0060 => some ⟨false, true, some 16, false⟩
  | 0x0070 => some ⟨false, true, some 24, false⟩
  | 0x0071 => some ⟨false, true, some 56, false⟩
  | 0x0072 => some ⟨false, true, some 296, false⟩
  | 0x0073 => some ⟨false, true, some 288, false⟩
  | _ => none

/-- Which command of the block serves a hamper: its opcode; for `ROLE` and `KEY_OP` that and the operation, where a reserved
operation counts as the first; 0 for an opcode that is not assigned. -/
def Hamper.kind (h : Hamper) : Nat :=
  if (hamperRow h.opcode).isNone then 0
  else if h.opcode = 0x0041 then 0x4100 + (if h.at_ 0 1 < 4 then h.at_ 0 1 else 0)
  else if h.opcode = 0x0071 then 0x7100 + (if h.at_ 0 1 < 6 then h.at_ 0 1 else 0)
  else h.opcode

/-! ## Reserved parts of bodies (test 1) -/

/-- Byte runs of a body that are reserved. -/
def reservedRuns (opcode : Nat) : List (Nat × Nat) :=
  match opcode with
  | 0x0008 => [(0x61, 7)]
  | 0x0012 => [(0x01, 7)]
  | 0x0014 => [(0x0C, 4)]
  | 0x0018 => [(0x04, 12)]
  | 0x0019 => [(0x04, 4)]
  | 0x001A => [(0x02, 6)]
  | 0x0030 => [(0x0E, 2), (0x1C, 4)]
  | 0x0040 => [(0x30, 8)]
  | 0x0041 => [(0x01, 7)]
  | 0x0043 => [(0x05, 3)]
  | 0x0050 => [(0x0C, 4), (0x34, 4)]
  | 0x0060 => [(0x05, 11)]
  | 0x0070 => [(0x10, 8)]
  | 0x0071 => [(0x02, 6)]
  | 0x0072 => [(0x01, 7), (0x61, 7)]
  | 0x0073 => [(0x59, 7)]
  | _ => []

/-- A multiple of 2 MiB. -/
def frameAligned (x : Nat) : Bool := x % 0x200000 = 0

/-- `CHECKPOINT` (R402). -/
def Hamper.ckptOk (h : Hamper) : Bool :=
  decide (h.at_ 0x14 4 < h.at_ 0x10 4) && h.at_ 0x18 4 / 2 = 0 &&
    (List.range 8).all (fun i =>
      let o := 0x20 + 24 * i
      h.at_ (o + 6) 2 = 0 && h.at_ (o + 14) 2 = 0 && h.at_ (o + 20) 4 = 0
        && frameAligned (h.at_ o 6) && frameAligned (h.at_ (o + 8) 6))

/-- `MIRROR_SETUP` (R383 Table 13.3). -/
def Hamper.mirrorOk (h : Hamper) : Bool :=
  if h.at_ 0 1 % 2 = 0 then
    h.at_ 0 4 = 0 && (List.range 8).all (fun i =>
      let o := 8 + 16 * i
      h.at_ (o + 6) 2 = 0 && h.at_ (o + 14) 2 = 0 && frameAligned (h.at_ o 6) && frameAligned (h.at_ (o + 8) 6))
  else
    decide (h.at_ 0 4 < 4) && h.at_ 0x2A 6 = 0 && (slice h.body 0x50 56).all (· = 0#8)
      && frameAligned (h.at_ 0x08 8) && frameAligned (h.at_ 0x18 8) && frameAligned (h.at_ 0x20 8)

/-- Bits of a body that are reserved, and the rules that refuse a body at test 1. -/
def Hamper.fieldsOk (h : Hamper) : Bool :=
  match h.opcode with
  | 0x0010 => h.at_ 0x10 4 / 4 = 0 && (List.range 16).all (fun i => h.at_ (0x38 + 4 * i) 4 / 2 ^ 23 = 0)
  | 0x0012 =>
    decide (1 ≤ h.at_ 0 1) && decide (h.at_ 0 1 ≤ 32) && (slice h.body (8 + h.at_ 0 1) (32 - h.at_ 0 1)).all (· = 0#8)
  | 0x0013 => h.at_ 0x14 4 / 16 = 0
  | 0x0030 => h.ckptOk
  | 0x0041 => decide (h.at_ 0 1 < 4)
  | 0x0043 => h.mirrorOk
  | 0x0050 =>
    h.at_ 0 4 / 2 ^ 28 = 0 && h.at_ 4 4 / 256 = 0
      && (List.range 8).all (fun i => h.at_ (0x38 + 16 * i + 6) 2 = 0 && h.at_ (0x38 + 16 * i + 14) 2 / 16 = 0)
  | 0x0060 => h.at_ 4 1 = 0 || h.at_ 4 1 = 2 || h.at_ 4 1 = 3 || h.at_ 4 1 = 4
  | 0x0071 => decide (h.at_ 0 1 < 6)
  | 0x0073 => h.at_ 4 4 / 8 = 0
  | _ => true

/-- Test 1. -/
def Hamper.test1 (h : Hamper) : Bool :=
  h.version = 1 && decide (h.hflags < 2) && h.reserved = 0 && decide (h.length ≤ 1984)
    && (reservedRuns h.opcode).all (fun r => (slice h.body r.1 r.2).all (· = 0#8))
    && ((hamperRow h.opcode).isNone || (hamperRow h.opcode).any (fun r => r.size.any (· ≠ h.length)) || h.fieldsOk)

/-- Test 2. -/
def Hamper.test2 (h : Hamper) : Bool :=
  match hamperRow h.opcode with
  | some r => r.size.all (· = h.length)
  | none => false

/-! ## Acceptance (R292 Table 10.7) -/

/-- The keyed check of a hamper under a session (R293). -/
def Hamper.checks (h : Hamper) (k : Session) : Bool :=
  (hmac384 k.key ([portByte h.port, BitVec.ofNat 8 h.slot] ++ h.head ++ h.body)).take 32 == h.check

/-- A stream of a job runs. -/
def State.streamsRun (s : State) (j : Nat) : Bool := (s.job j).tiles.any (fun t => (s.tile t).started && !(s.tile t).ended)

/-- Test 7: the job that the header names is in a state the opcode requires. -/
def State.jobTest (s : State) (h : Hamper) : Bool :=
  match hamperRow h.opcode with
  | none => false
  | some r =>
    if !r.named then h.job = 0xFF
    else
      decide (h.job < 16) &&
        (match h.opcode with
         | 0x0010 => true
         | 0x0041 => true
         | 0x0011 => decide ((s.job h.job).phase ≠ 0) && !(s.streamsRun h.job)
         | 0x0021 => (s.job h.job).phase = 3
         | _ => decide ((s.job h.job).phase ≠ 0))

/-- `DETAIL` of a refusal at test 7: the counter for the hampers of R50. -/
def State.refusalDetail (s : State) (h : Hamper) : BitVec 64 :=
  if (h.opcode = 0x0020 || h.opcode = 0x0021) && h.job < 16 && (s.job h.job).phase ≠ 0 then (s.job h.job).step else 0#64

/-- A refusal: its test, outcome and status. -/
structure Refused where
  test : Nat
  outcome : ItemOutcome
  status : Status
  detail : BitVec 64
  deriving DecidableEq, Repr

/-- Tests 5 and 6. -/
def State.keyTest (s : State) (h : Hamper) (critical : Bool) : Option Refused :=
  match (s.portOf h.port).session with
  | none => if critical || h.keyed then some ⟨5, .failed, stAuthTag, 0#64⟩ else none
  | some k =>
    if (critical && !h.keyed) || (h.keyed && !(h.checks k)) then some ⟨5, .failed, stAuthTag, 0#64⟩
    else if h.keyed && h.counter ≤ k.lastCtr then some ⟨6, .failed, stAuthReplay, 0#64⟩
    else none

/-- The first test that a taken hamper fails. -/
def State.refusal (s : State) (h : Hamper) : Option Refused :=
  let row := (hamperRow h.opcode).getD ⟨false, false, none, false⟩
  if !h.test1 then some ⟨1, .failed, stIllegal, 0#64⟩
  else if !h.test2 then some ⟨2, .failed, stIllegal, 0#64⟩
  else if h.seq ≠ ((s.slot h.port h.slot).lastSeq + 1) % 2 ^ 32 then some ⟨3, .failed, stNotPermitted, 0#64⟩
  else if h.slot < 4 && !row.urgent then some ⟨4, .failed, stNotPermitted, 0#64⟩
  else
    match s.keyTest h row.critical with
    | some r => some r
    | none =>
      if !(s.jobTest h) then some ⟨7, .failed, stNotPermitted, s.refusalDetail h⟩
      else if h.deadline ≠ 0 && h.deadline ≤ s.now.toNat then some ⟨8, .skipped, stSkipped, 0#64⟩
      else none

/-! ## Taking hampers (R288, R292, R295) -/

/-- The sealed slots of both ports with the number of their seal. -/
def State.sealed (s : State) : List (Nat × Port × Nat) :=
  let of (p : Port) : List (Nat × Port × Nat) :=
    ((s.portOf p).slots.filter (fun x => x.2.mode == .sealed)).map (fun x => (x.2.sealNo, p, x.1))
  of .a ++ of .b

/-- The hamper Skeka takes next: urgent slots before ordinary ones, in the order of their seals. -/
def State.nextSealed (s : State) : Option (Port × Nat) :=
  let xs := s.sealed
  let urgent := xs.filter (fun x => decide (x.2.2 < 4))
  let ys := if urgent.isEmpty then xs else urgent
  (ys.foldl (fun (best : Option (Nat × Port × Nat)) x =>
    match best with
    | none => some x
    | some b => if x.1 < b.1 then some x else some b) none).map (fun x => x.2)

/-- A new challenge of a port (R455): a free value. -/
def State.renewChal (s : State) (p : Port) : State := (s.modPort p (fun q => { q with chal := freshChal s.fresh })).drawn

/-- The take: the slot is TAKEN, and the challenge of the port renews for the hampers of R455. -/
def State.take (s : State) (h : Hamper) : State :=
  let x := s.slot h.port h.slot
  let s := (s.modSlot h.port h.slot (fun x => { x with mode := .taken })).record (.hamper h.port h.slot x.hdr x.body)
  let s := s.recordSlot h.port h.slot
  if h.opcode = 0x0008 || h.opcode = 0x0072 || h.opcode = 0x0073 then s.renewChal h.port else s

/-- The slot's last accepted `SEQ` after a hamper that reached test 3. -/
def State.advanceSeq (s : State) (h : Hamper) : State :=
  (s.modSlot h.port h.slot (fun x => { x with lastSeq := (x.lastSeq + 1) % 2 ^ 32 })).recordSlot h.port h.slot

/-- A port's session and its last accepted counter are journaled. -/
def State.recordSession (s : State) (p : Port) : State := s.record (.session p (s.portOf p).session)

/-- The counter of a keyed hamper that passed test 6 (R294). -/
def State.recordCounter (s : State) (h : Hamper) : State :=
  if h.keyed then
    (s.modPort h.port (fun q => { q with session := q.session.map (fun k => { k with lastCtr := h.counter }) })).recordSession h.port
  else s

/-- Answering an accepted hamper of one item. -/
def State.answerOk (s : State) (h : Hamper) : State := s.writeAnswer h.port h.slot h.seq stOK 1 [0] s.now

/-- A refused hamper: its answer and its one record (R292). -/
def State.refuse (s : State) (h : Hamper) (r : Refused) : State :=
  let s := if 3 ≤ r.test then s.advanceSeq h else s
  let s := if 7 ≤ r.test then s.recordCounter h else s
  (s.writeAnswer h.port h.slot h.seq r.status 1 [0] s.now).finishItem h.item r.outcome r.status 0xFFFF r.detail

/-- Skeka serves a hamper of a kind in a slot when it is the next one it takes: refused by its first failed test, or accepted
and acted on. Nothing is taken before Skeka is ready or below Ready (R307, R446). -/
def State.serve (s : State) (kind : Nat) (p : Port) (n : Nat) (act : Hamper → State → State) : State :=
  let h := s.hamperAt p n
  if !s.sec.ready || 2 ≤ s.clk.powerState || s.nextSealed ≠ some (p, n) || h.kind ≠ kind then s
  else
    match s.refusal h with
    | some r => (s.take h).refuse h r
    | none => act h (((s.take h).advanceSeq h).recordCounter h)

/-- A hamper whose answer is written at its acceptance. -/
def State.serveNow (s : State) (kind : Nat) (p : Port) (n : Nat) (act : Hamper → State → State) : State :=
  s.serve kind p n (fun h s => act h (s.answerOk h))

/-- The one record of a hamper. -/
def State.done (s : State) (h : Hamper) : State := s.finishItem h.item .done stOK 0xFFFF 0#64
def State.fail (s : State) (h : Hamper) (st : Status) (detail : Nat) : State :=
  s.finishItem h.item .failed st 0xFFFF (BitVec.ofNat 64 detail)

/-! ## Seals (R291) -/

/-- `SEAL_WRITE` (R291), in the order of its port (R286). -/
def execSealWrite (port : Port) (slot : Nat) (hdr body : List Byte) (word : SealWord) (s : State) : Reply :=
  .next (s.hostOrder port (.seal slot hdr body word))

/-- `UNASSIGNED_OPCODE` (R298): refused at test 2 at the latest. -/
def execUnassignedOpcode (port : Port) (slot : Nat) (s : State) : Reply := .next (s.serveNow 0 port slot (fun _ s => s))

/-- `ECHO` (R299). -/
def execEcho (port : Port) (slot : Nat) (s : State) : Reply :=
  .next (s.serveNow 0x0001 port slot fun h s => s.finishItem h.item .done stOK 0xFFFF (BitVec.ofNat 64 h.length))

end Sys2Proof.Machine
end

