-- ==== Sys2Proof/Machine/Load.lean ====
section
/-! DEFINITION. Load.lean: the load of a job's image: the checks of Table 8.15 in their order (R243, R244), the installation
of a tile's stream (R208, R279), and its extension of MR4 (R451). What counts as static is the model's reading (log 34). -/

namespace Sys2Proof.Machine

open Sys2Proof

/-! ## What is static -/

/-- The words of a stream as commands; none for a word that is none. -/
abbrev Stream := List (Option (Op × CmdWord))

def streamOfImage (img : TileImage) : Stream := img.words.map decodeWord

/-- The sequencer register that a word's own result goes to. -/
def writesSeq (op : Op) (w : CmdWord) : Option Nat :=
  match op with
  | .seti | .mov => some (w.imm 0 8)
  | op => if op.aluCode.isSome then some (w.imm 0 8) else none

/-- No word of a stream writes a register. -/
def Stream.keeps (ws : Stream) (n : Nat) : Bool :=
  ws.all (fun x => match x with
    | some (op, w) => writesSeq op w ≠ some n
    | none => true)

/-- An A register keeps its value 0 of the stream's start at index `i`: no word writes it or its strides, and no earlier
`XCT` reaches a word that is not seen (log 34). -/
def Stream.aStatic (ws : Stream) (i k : Nat) : Bool :=
  ws.keeps (0x20 + k) && [0, 1, 2, 3].all (fun d => ws.keeps (0x30 + 4 * k + d))
    && (ws.take i).all (fun x => match x with
      | some (op, _) => op != .xct
      | none => true)

/-- A slot's value does not depend on what is computed at run time. -/
def slotStatic (ws : Stream) (i : Nat) (u : SlotUse) (x : OpSlot) : Bool :=
  match u with
  | .tensor | .address => ws.aStatic i x.aidx.toNat
  | .operand => x.didx = 0xFFF#12 || ws.aStatic i x.aidx.toNat
  | _ => true

/-- A descriptor of an image. -/
def imageDesc (img : TileImage) (i : Nat) : Option Desc := (img.descs[i]?).bind parseDesc

/-- What a slot gives a load check: a computed base counts as 0. -/
def imageSlot (img : TileImage) (st : Bool) (u : SlotUse) (x : OpSlot) : Option SlotVal :=
  let tensor : Option SlotVal :=
    (imageDesc img x.didx.toNat).map (fun d => .tensor { d with base := if st then effective d.base 0#64 x else 0 })
  match u with
  | .reserved | .ignored => some .none
  | .imm _ => some (.imm x.off)
  | .address => some (.address (if st then effective 0 0#64 x else 0))
  | .scalar => some (.scalar 0#64)
  | .operand => if x.didx = 0xFFF#12 then some (.scalar 0#64) else tensor
  | .tensor => tensor

/-- A command of an image as a load sees it, with which of its slots are static; none for a bad descriptor. -/
structure LoadCmd where
  cmd : EngineCmd
  st0 : Bool
  st1 : Bool
  st2 : Bool
  st3 : Bool

/-- The slots with whether they are static. -/
def LoadCmd.slots (x : LoadCmd) : List (Bool × SlotVal) :=
  [(x.st0, x.cmd.s0), (x.st1, x.cmd.s1), (x.st2, x.cmd.s2), (x.st3, x.cmd.s3)]

def loadCmd (img : TileImage) (ws : Stream) (i : Nat) (op : Op) (w : CmdWord) : Option LoadCmd :=
  let u := slotUses op w
  let st0 := slotStatic ws i u.1 w.slot0
  let st1 := slotStatic ws i u.2.1 w.slot1
  let st2 := slotStatic ws i u.2.2.1 w.slot2
  let st3 := slotStatic ws i u.2.2.2 w.slot3
  let masked := op.engine = .ve && op != .veEpi && w.imm 12 1 = 1
  let mask := if masked then imageDesc img (w.imm 0 12) else none
  match imageSlot img st0 u.1 w.slot0, imageSlot img st1 u.2.1 w.slot1, imageSlot img st2 u.2.2.1 w.slot2,
      imageSlot img st3 u.2.2.2 w.slot3 with
  | some v0, some v1, some v2, some v3 =>
    if masked && mask.isNone then none
    else
      some ⟨{ op := op, w := w, s0 := v0, s1 := v1, s2 := v2, s3 := v3, mask := mask, sreg := [], deadline := 0#64
              ordinal := 0, addr := img.streamBase + 32 * i, step := 0#64, issued := 0#64 }, st0, st1, st2, st3⟩
  | _, _, _, _ => none

/-! ## What an image lets a load read -/

/-- A command word as its 32 bytes. -/
def wordBytes (b : BitVec 256) : List Byte := leBytes 32 b.toNat

/-- The pieces that a tile's store receives. -/
def imagePieces (img : TileImage) : List (Nat × List Byte) :=
  img.data ++ [(img.streamBase, img.words.flatMap wordBytes), (img.descBase, img.descs.flatMap (fun d => slice d 0 64))]

/-- The byte that an image puts at an offset of its tile's store; none where no piece covers it. -/
def imageByte (img : TileImage) (off : Nat) : Option Byte :=
  (imagePieces img).foldl (fun acc p => if p.1 ≤ off && decide (off < p.1 + p.2.length) then p.2[off - p.1]? else acc) none

/-- A field of a job's memory that lies in the tile's own store, as an image fills it. -/
def State.imageField (s : State) (j : Nat) (img : TileImage) (va n : Nat) : Option (List Byte) :=
  allBytes ((vaRange va n).map (fun a =>
    let e := SMap.get {} (s.job j).pages (a / 0x200000)
    let pa := e.frame * 0x200000 + a % 0x200000
    if e.mapped && tileBase img.tile ≤ pa && decide (pa < tileBase img.tile + 0x400000) then
      imageByte img (pa - tileBase img.tile)
    else none))

/-- A `UE_RUN` with the program and the descriptors that a load can read statically: where its address is static and the
image itself fills the program (R199). -/
def State.loadProgram (s : State) (j : Nat) (img : TileImage) (x : LoadCmd) : EngineCmd :=
  match (if x.cmd.op == .ueRun && x.st0 then s.imageField j img x.cmd.s0.addrVal 512 else none) with
  | none => x.cmd
  | some bs =>
    { x.cmd with
      prog := bs
      descs := (List.range 8).map (fun i => let k := fieldAt bs (0x10 + 4 * i) 4 % 2 ^ 12; (k, imageDesc img k)) }

/-- The sequencer registers that a word's command writes. -/
def writesRegs (op : Op) (w : CmdWord) : List Nat :=
  match op with
  | .lds | .cfgr | .stepGet => [w.imm 0 5]
  | .fbRecv => [w.imm 0 5, w.imm 5 5]
  | op => if isAtomic op then [w.imm 10 5] else (writesSeq op w).toList

/-- Nesting of loops before word `i`. -/
def Stream.depthAt (ws : Stream) (i : Nat) : Nat :=
  (ws.take i).foldl (fun d x => match x with
    | some (.loop, _) => d + 1
    | some (.endloop, _) => d - 1
    | _ => d) 0

/-- The value of S register `n` at word `i` where the stream alone fixes it (log 34): 0 where no word writes it, else that of
an unconditional `SETI` outside every loop, with no other write after it that could come first and none by an engine. -/
def Stream.knownS (ws : Stream) (i n : Nat) : Option (BitVec 64) :=
  let num := (List.range ws.length).zip ws
  let writers := num.filterMap (fun x => match x.2 with
    | some (op, w) => if (writesRegs op w).contains n then some (x.1, op, w) else none
    | none => none)
  let seen := (ws.take i).all (fun x => match x with
    | some (op, _) => op != .xct
    | none => true)
  if !seen then none
  else
    match (writers.filter (fun x => x.1 < i)).getLast? with
    | none => if writers.isEmpty then some 0#64 else none
    | some (k, op, w) =>
      let others := writers.all (fun x => x.2.1.engine = .sq && (decide (x.1 ≤ k) || ws.depthAt i = 0))
      if op == .seti && !w.pen && ws.depthAt k = 0 && others then some (w.slot1.off ++ w.slot0.off) else none

/-! ## Checks 4 to 6 of one word -/

/-- Checks 4 and 5 of an engine command, and the limits of check 6. -/
def State.loadOperands (s : State) (j : Nat) (img : TileImage) (x : LoadCmd) : Option Status :=
  let known (k : Nat) : Bool := (x.slots.map Prod.fst).getD k true
  let x := { x with cmd := s.loadProgram j img x }
  let staging := (fieldOf img.stageBase 0 22, fieldOf img.stageStride 0 22)
  let local_ := x.slots.all (fun v => !v.1 || v.2.desc.all (s.localOk img.tile j)) && x.cmd.mask.all (s.localOk img.tile j)
  if !local_ then some stDescBad
  else
    match s.operandCheck img.tile j false known staging x.cmd with
    | some st => some st
    | none => (s.operandCheck img.tile j true known staging x.cmd).map (fun _ => stRefused)

/-- Bytes that an address slot stands for; none for an address that is no memory of the job. -/
def addressBytes (op : Op) (w : CmdWord) : Option (Nat × Nat) :=
  match op with
  | .lds | .sts => some (0, 8)
  | .handoff => if w.flag 4 then some (2, 64) else none
  | .collGroup => some (0, 128)
  | .ueRun => some (0, 512)
  | .seFact | .seSolve | .seBand | .seResume => some (3, 256)
  | _ => none

/-- Tensor slots whose bytes a command does not touch: a prefetch or clean faults nowhere (R277), and the source of a
`REMOTE` gather is at another endpoint. -/
def footprintSlots (op : Op) (w : CmdWord) (slots : List (Bool × SlotVal)) : List (Bool × SlotVal) :=
  let vs := ((List.range slots.length).zip slots).map (fun x => (x.2.1, x.2.2.touched op x.1))
  match op with
  | .tmPrefetch | .tmClean => []
  | .tmGather => if w.flag 4 then vs.drop 1 else vs
  | _ => vs

/-- The pages of the streams of an update program that was read. -/
def EngineCmd.progPages (c : EngineCmd) : List Nat :=
  match parseProgram (fun i => (c.descs.find? (fun x => x.1 = i)).bind Prod.snd) c.prog with
  | some p => if c.prog.isEmpty then [] else (p.streams.filterMap (fun x => x.2)).flatMap (fun x => ({ x.d with calPtr := 0 } : Desc).pages)
  | none => []

/-- The pages of a command's static footprint. -/
def LoadCmd.footprint (x : LoadCmd) : List Nat :=
  let tensors := (footprintSlots x.cmd.op x.cmd.w x.slots).flatMap (fun v =>
    if v.1 then ((v.2.desc.map Desc.pages).getD []) else [])
  let addr := match addressBytes x.cmd.op x.cmd.w with
    | some (k, n) =>
      let v := x.slots.getD k (false, .none)
      if v.1 then (vaRange v.2.addrVal n).map (fun va => va / 0x200000) else []
    | none => []
  dedup (tensors ++ x.cmd.progPages ++ (x.cmd.mask.map Desc.pages).getD [] ++ addr)

/-- A page the job context maps, or will at its first access. -/
def State.pageHeldOut (s : State) (j page : Nat) : Bool :=
  let e := SMap.get {} (s.job j).pages page
  e.mapped || e.defer

/-- Checks 4 and 5 on a sequencer command's static address (R219, R220). -/
def loadAddress (ws : Stream) (i : Nat) (op : Op) (w : CmdWord) : Option Status :=
  if !ws.aStatic i w.slot0.aidx.toNat then none
  else
    let a := effective 0 0#64 w.slot0
    match op with
    | .lds | .sts => if a % 8 = 0 then none else some stAlignment
    | .xct => if a % 32 ≠ 0 then some stAlignment else if 0x400000 ≤ a then some stIllegal else none
    | _ => none

/-- A master with its mask and id where the stream fixes them: its `SHAPE` and `SPLIT` are always static. -/
def Stream.masterCmd (ws : Stream) (i : Nat) (op : Op) (w : CmdWord) : Option EngineCmd :=
  let r := w.imm 12 4
  (ws.knownS i r).map (fun v =>
    { op := op, w := w, s0 := .none, s1 := .none, s2 := .none, s3 := .none, mask := none
      sreg := List.replicate r 0#64 ++ [v], deadline := 0#64, ordinal := 0, addr := 0, step := 0#64, issued := 0#64 })

/-- A tile counts as available to a load: for a sink each of its `TILES` does (R384). -/
def State.loadAvail (s : State) (j q : Nat) : Bool :=
  (s.tile q).avail || ((s.job j).mirror.state = 4 && (s.job j).mirror.tiles.contains q)

/-- The static mask and shape of a master (R135): none of them may break its rules, and each tile named is available. -/
def State.loadMask (s : State) (j : Nat) (img : TileImage) (ws : Stream) (i : Nat) (op : Op) (w : CmdWord) : Option Status :=
  if !cascMaster op w then none
  else if op.engine ≠ .se && w.imm 3 2 = 0 && !(decide (1 ≤ w.imm 5 3) && decide (w.imm 5 3 ≤ 4)) then some stRefused
  else
    match ws.masterCmd i op w with
    | none => none
    | some c =>
      if s.maskOk img.tile c && (s.maskTiles (s.dieOf img.tile) (cascMask c)).all (s.loadAvail j) then none
      else some stRefused

/-- Checks 4 to 6 on a word, without the pairings. -/
def State.loadWord (s : State) (j : Nat) (img : TileImage) (ws : Stream) (i : Nat) (op : Op) (w : CmdWord) : Option Status :=
  match loadCmd img ws i op w with
  | none => some stDescBad
  | some x =>
    match (if op.engine = .sq then loadAddress ws i op w else s.loadOperands j img x) with
    | some st => some st
    | none =>
      if ({ x with cmd := s.loadProgram j img x }).footprint.all (s.pageHeldOut j) then s.loadMask j img ws i op w else some stRefused

/-! ## Pairings (R89, R136, R153, R174, R189, R190) -/

/-- The commands of a stream that satisfy a test, with their indices. -/
def Stream.those (ws : Stream) (p : Op → CmdWord → Bool) : List (Nat × Op × CmdWord) :=
  ((List.range ws.length).zip ws).filterMap (fun x =>
    match x.2 with
    | some (op, w) => if p op w then some (x.1, op, w) else none
    | none => none)

/-- Indices of words beyond the shorter of two lists, and of the later of two that do not match. -/
def mispaired (ok : Nat → Nat → Bool) : List Nat → List Nat → List Nat
  | [], bs => bs
  | as, [] => as
  | a :: as, b :: bs => (if ok a b then [] else [max a b]) ++ mispaired ok as bs

/-- Elements that a forwarding command produces, and that a consuming one takes. -/
def forwardCount (img : TileImage) (ws : Stream) (i : Nat) : Option Nat :=
  match ws[i]? with
  | some (some (op, w)) =>
    (loadCmd img ws i op w).bind (fun x =>
      if op.engine = .dsu then x.cmd.s0.desc.map Desc.size
      else x.cmd.s3.desc.bind (fun d => (vectorShape op (vectorSources x.cmd) d).map Desc.size))
  | _ => none

/-- A cascade master of an image: its engine, tile and word index, its id and mask where they are static, and whether its
members fill their own finished-tile queues (R128). -/
structure Master where
  eng : Engine
  tile : Nat
  index : Nat
  cid : Option Nat
  mask : Option Nat
  queues : Bool

/-- The cascade masters of an image, by tile and index. -/
def imageMasters (imgs : List TileImage) : List Master :=
  imgs.flatMap (fun img =>
    let ws := streamOfImage img
    (ws.those cascMaster).map (fun x =>
      let c := ws.masterCmd x.1 x.2.1 x.2.2
      ⟨x.2.1.engine, img.tile, x.1, if x.2.1.engine = .se then c.map cascId else some (x.2.2.imm 8 4), c.map cascMask,
        x.2.1.engine = .me && x.2.2.flag 4 && x.2.2.imm 3 2 ≠ 0⟩))

/-- The masters of an engine and an id that a tile joins as a member, in order; none where a master of its die has a mask or
an id that is computed, so that the pairing cannot be seen (R244). -/
def State.mastersOf (s : State) (ms : List Master) (q : Nat) (e : Engine) (cid : Nat) : Option (List Master) :=
  let mine := ms.filter (fun m => m.eng = e && s.dieOf m.tile = s.dieOf q)
  if mine.any (fun m => m.mask.isNone || m.cid.isNone) then none
  else some (mine.filter (fun m => m.cid = some cid && m.tile ≠ q && (m.mask.getD 0).testBit (q % s.tilesPerDie)))

/-- The member commands of a stream for an engine and an id, by index. -/
def Stream.joins (ws : Stream) (e : Engine) (cid : Nat) : List Nat :=
  (ws.those (fun op w => cascMember op && op.engine = e && w.imm 8 4 = cid)).map Prod.fst

/-- The master that a member command pairs with: the one of the same place in the order of those its tile joins. -/
def State.masterOf (s : State) (ms : List Master) (img : TileImage) (ws : Stream) (i : Nat) (e : Engine) (cid : Nat) :
    Option (Option Master) :=
  (s.mastersOf ms img.tile e cid).map (fun l => l[((ws.joins e cid).filter (fun k => decide (k < i))).length]?)

/-- Words whose cascade does not pair one to one (R136): a member command without a master, and a master of which a member
lacks its command. -/
def State.badCascades (s : State) (ms : List Master) (imgs : List TileImage) (img : TileImage) (ws : Stream) : List Nat :=
  let members := (ws.those (fun op _ => cascMember op)).filterMap (fun x =>
    match s.masterOf ms img ws x.1 x.2.1.engine (x.2.2.imm 8 4) with
    | some none => some x.1
    | _ => none)
  let masters := (ms.filter (fun m => m.tile = img.tile)).filterMap (fun m =>
    let lacks (q : Nat) : Bool :=
      match s.mastersOf ms q m.eng (m.cid.getD 0) with
      | none => false
      | some l =>
        let place := (l.takeWhile (fun y => !(y.tile = m.tile && y.index = m.index))).length
        let have_ := (((imgs.find? (fun x => x.tile = q)).map (fun x => ((streamOfImage x).joins m.eng (m.cid.getD 0)).length))).getD 0
        decide (have_ ≤ place)
    if (s.maskTiles (s.dieOf m.tile) (m.mask.getD 0)).any (fun q => q ≠ m.tile && lacks q) then some m.index else none)
  members ++ masters

/-- Words whose pairing fails: forwarding DSU commands with consuming vector commands, and queued matrix commands with
`VE_EPI`. A member command counts as queued where its master says so; where its master cannot be seen, the pairing of the
stream cannot either (log 72). -/
def State.badPairs (s : State) (ms : List Master) (img : TileImage) (ws : Stream) : List Nat :=
  let dsu := (ws.those (fun op w => op.engine = .dsu && w.flag 4)).map Prod.fst
  let ve := (ws.those (fun op w => op.engine = .ve && w.flag 4)).map Prod.fst
  let masters := (ws.those (fun op _ => op == .mmJoin)).map (fun x => (x.1, s.masterOf ms img ws x.1 .me (x.2.2.imm 8 4)))
  let queues (i : Nat) : Bool := masters.any (fun x => x.1 = i && ((x.2.bind id).map Master.queues).getD false)
  let me := (((List.range ws.length).zip ws).filter (fun x =>
    match x.2 with
    | some (.mmJoin, _) => queues x.1
    | some (op, w) => op.engine = .me && w.flag 4
    | none => false)).map Prod.fst
  let epi := (ws.those (fun op _ => op == .veEpi)).map Prod.fst
  mispaired (fun a b => forwardCount img ws a = forwardCount img ws b) dsu ve
    ++ (if masters.all (fun x => x.2.isSome) then mispaired (fun _ _ => true) me epi else [])

/-- The step of a stream that a word runs in, counted from the stream's start; none where it is not visible: some `STEP_END` stands
in a loop or under a predicate. -/
def Stream.stepAt (ws : Stream) (i : Nat) : Option Nat :=
  let ends := ws.those (fun op _ => op == .stepEnd)
  if ends.any (fun x => ws.depthAt x.1 ≠ 0 || x.2.2.pen) then none else some (ends.filter (fun x => decide (x.1 < i))).length

/-- The tensor-scale slots that an image's calibrated conversions of kind 1 stamp, by word: the slot's address and the step. A
conversion under a predicate is not visible. -/
def scaleSlots (img : TileImage) (ws : Stream) : List (Nat × Nat × Nat) :=
  (ws.those (fun op w => (destSlot op).isSome && !w.pen)).filterMap (fun x =>
    (loadCmd img ws x.1 x.2.1 x.2.2).bind (fun y =>
      (((destSlot x.2.1).bind (fun k => y.slots[k]?)).bind (fun v => v.2.desc)).bind (fun d =>
        if d.calibrated && d.skind = 1 then (ws.stepAt x.1).map (fun k => (x.1, d.scalePtr, k)) else none)))

/-- The words whose slot another conversion of the same step has before them, in their own stream or one of `stamped` (R89, log
71). -/
def sharedSlots (stamped : List (Nat × Nat)) (mine : List (Nat × Nat × Nat)) : List Nat :=
  (mine.filter (fun x => stamped.contains x.2 || mine.any (fun y => decide (y.1 < x.1) && y.2 = x.2))).map Prod.fst

/-! ## The load of an image (R243) -/

/-- A refused load: status, tile and command index. -/
structure LoadBad where
  st : Status
  tile : Nat
  index : Nat
  deriving DecidableEq, Repr

/-- A tile that the job context may load: one of its own, there and in service; for a sink one of its `TILES` (R384). -/
def State.loadTile (s : State) (j t : Nat) : Bool :=
  decide (t < s.activeTiles) &&
    (if (s.job j).mirror.state = 4 then (s.job j).mirror.tiles.contains t
     else (s.tile t).avail && (s.tile t).owner = some j)

/-- The second image-level check, of one tile's stream, descriptor table, data and staging slots (R208, R279). -/
def imageFits (img : TileImage) : Option LoadBad :=
  let base := fieldOf img.stageBase 0 22
  let stride := fieldOf img.stageStride 0 22
  let fits (off n : Nat) : Bool := decide (off + n ≤ 0x400000)
  if !(img.streamBase % 32 = 0 && fits img.streamBase (32 * img.words.length)
      && img.descBase % 64 = 0 && decide (img.descs.length ≤ 4096) && fits img.descBase (64 * img.descs.length)
      && base % 64 = 0 && stride % 64 = 0 && fits base (2 * stride)
      && img.data.all (fun d => fits d.1 d.2.length)) then
    some ⟨stRefused, img.tile, 0xFFFFFFFF⟩
  else
    match (streamOfImage img).getLast? with
    | some (some (.endStream, _)) => none
    | _ => some ⟨stIllegal, img.tile, img.words.length - 1⟩

/-- Check 3 and the depth after a word (R224). -/
def loopCheck (op : Op) (depth : Nat) : Bool × Nat :=
  match op with
  | .loop => (decide (depth < 4), depth + 1)
  | .endloop => (decide (0 < depth), depth - 1)
  | .endStream => (depth = 0, depth)
  | _ => (true, depth)

/-- The words of a tile from index `i`, in the order of Table 8.15. -/
def State.checkWords (s : State) (j : Nat) (img : TileImage) (ws : Stream) (pairs : List Nat) :
    Nat → Nat → Stream → Option LoadBad
  | _, _, [] => none
  | i, depth, x :: xs =>
    let bad (st : Status) : Option LoadBad := some ⟨st, img.tile, i⟩
    match x with
    | none => bad stIllegal
    | some (op, w) =>
      let l := loopCheck op depth
      if !s.check1 j op w then bad stIllegal
      else if !s.check2 op w then bad stEngineAbsent
      else if !l.1 then bad stLoopDepth
      else
        match s.loadWord j img ws i op w with
        | some st => bad st
        | none => if pairs.contains i then bad stRefused else State.checkWords s j img ws pairs (i + 1) l.2 xs

/-- The streams of an image in ascending tile, with the scale slots of the tiles before. -/
def State.checkTiles (s : State) (j : Nat) (all : List TileImage) : List (Nat × Nat) → List TileImage → Option LoadBad
  | _, [] => none
  | stamped, img :: rest =>
    let ws := streamOfImage img
    let mine := scaleSlots img ws
    let shared := sharedSlots stamped mine
    let ms := imageMasters all
    match s.checkWords j img ws (s.badPairs ms img ws ++ s.badCascades ms all img ws ++ shared) 0 0 ws with
    | some b => some b
    | none => State.checkTiles s j all (stamped ++ mine.map Prod.snd) rest

/-- An image put in its place among images of ascending logical id. -/
def placeImage (x : TileImage) : List TileImage → List TileImage
  | [] => [x]
  | y :: ys => if x.tile < y.tile then x :: y :: ys else y :: placeImage x ys
/-- The images of a load in ascending logical id (R243). -/
def orderedTiles (img : LoaderImage) : List TileImage := img.tiles.foldl (fun acc x => placeImage x acc) []

/-- The first tile named a second time in an ordered list (log 35). -/
def namedTwice : List TileImage → Option Nat
  | x :: y :: rest => if x.tile = y.tile then some x.tile else namedTwice (y :: rest)
  | _ => none

/-- The first check that an image fails: the image-level checks of Table 8.15, each over all tiles, then the words. -/
def State.loadCheck (s : State) (j : Nat) (img : LoaderImage) : Option LoadBad :=
  let ts := orderedTiles img
  match ts with
  | [] => some ⟨stRefused, 0xFFFF, 0xFFFFFFFF⟩
  | _ =>
    match ts.find? (fun x => !s.loadTile j x.tile) with
    | some x => some ⟨stRefused, x.tile, 0xFFFFFFFF⟩
    | none =>
      match namedTwice ts with
      | some t => some ⟨stRefused, t, 0xFFFFFFFF⟩
      | none =>
        match ts.findSome? imageFits with
        | some b => some b
        | none => s.checkTiles j ts [] ts

/-! ## Installation -/

/-- Writing a tile's pieces; the first that fails ends it with its status. -/
def State.writePieces (s : State) (t : Nat) : List (Nat × List Byte) → Option Status × State
  | [] => (none, s)
  | p :: ps =>
    match s.writePhys (tileBase t + p.1) p.2 with
    | (some e, s) => (some e, s)
    | (none, s) => State.writePieces s t ps

/-- The registers that Skeka sets from the image (R208, R279), and a sequencer that stands at no stream. They are RWC
fields, which become visible with their group's generation register alone (R11): Skeka stages them and writes that
register, which counts and commits whatever else of the group was staged (DEDUCED, log 111). -/
def Tile.loadRegs (x : Tile) (img : TileImage) : Tile :=
  let x := x.stageReg .sq 0x90 (BitVec.ofNat 64 img.streamBase)
  let x := x.stageReg .sq 0x98 (BitVec.ofNat 64 img.descBase)
  let x := (x.stageReg .sq 0xA0 (BitVec.ofNat 64 img.descs.length)).commitGroup .sq
  let x := x.stageReg .tm 0x80 (BitVec.ofNat 64 (fieldOf img.stageBase 0 22))
  let x := (x.stageReg .tm 0x88 (BitVec.ofNat 64 (fieldOf img.stageStride 0 22))).commitGroup .tm
  { x with loaded := true, started := false, ended := false, mode := .idle, wait := .none, held := none, xct := none
           haltPending := none, streamItem := none, breakItem := none }

/-- One tile of an image installed. -/
def State.installTile (s : State) (img : TileImage) : Option Status × State :=
  match s.writePieces img.tile (imagePieces img) with
  | (some e, s) => (some e, s)
  | (none, s) => (none, s.modTile img.tile (fun x => x.loadRegs img))

/-- Every tile of an image installed; the first that fails names its status and tile. -/
def State.install (s : State) : List TileImage → Option (Status × Nat) × State
  | [] => (none, s)
  | img :: rest =>
    match s.installTile img with
    | (some e, s) => (some (e, img.tile), s)
    | (none, s) => State.install s rest

/-- An accepted `JOB_LOAD` extends MR4 with its image (R451, log 106). -/
def State.measureImage (s : State) (j : Nat) (digest : List Byte) : State :=
  s.extendMr 4 (sha384 ([BitVec.ofNat 8 j] ++ digest))

/-- The job context takes an image, which replaces the one before it (R416): a tile that it does not name holds none. -/
def State.takeImage (s : State) (j : Nat) (digest : List Byte) (img : LoaderImage) : State :=
  let gone := (s.job j).tiles.filter (fun t => !(img.tiles.any (fun x => x.tile = t)))
  (gone.foldl (fun s t => s.modTile t (fun x => { x with loaded := false })) s).modJob j (fun jb =>
    { jb with image := digest, loadImage := some img })

/-- The bytes of an image in the cellar: its status where they cannot be had. An image beyond the mappable cellar is
refused (log 35). -/
def State.imageBytes (s : State) (addr len : Nat) : Option Status × List Byte × State :=
  if 0x3E00000000 < addr + len then (some stRefused, [], s) else s.readPhys addr len

/-- A refused load. -/
def State.loadFails (s : State) (h : Hamper) (b : LoadBad) : State :=
  s.finishItem h.item .failed b.st b.tile (BitVec.ofNat 64 b.index)

/-- A load: the image's bytes, its checks, its installation (at once, or for a sink at its takeover), and the record. -/
def State.loadJob (s : State) (h : Hamper) (img : LoaderImage) : State :=
  let j := h.job
  match s.imageBytes (h.at_ 0 8) (h.at_ 8 8) with
  | (some e, _, s) => s.loadFails h ⟨e, 0xFFFF, 0xFFFFFFFF⟩
  | (none, bytes, s) =>
    let s := s.measureImage j (sha384 bytes)
    match s.loadCheck j img with
    | some b => s.loadFails h b
    | none =>
      match (if (s.job j).mirror.state = 4 then (none, s) else s.install (orderedTiles img)) with
      | (some e, _) => s.loadFails h ⟨e.1, e.2, 0xFFFFFFFF⟩
      | (none, s) => (s.takeImage j (sha384 bytes) img).done h

/-- `JOB_LOAD` (R243). -/
def execJobLoad (port : Port) (slot : Nat) (img : LoaderImage) (s : State) : Reply :=
  .next (s.serveNow 0x0011 port slot fun h s => s.loadJob h img)

end Sys2Proof.Machine
end

