-- ==== Sys2Proof/Machine/Jobs.lean ====
section
/-! DEFINITION. Jobs.lean: the hampers of a job context: set up, start, mapping, registers of a tile, resumption, stops,
teardown (R299, R301, R46 to R50), checkpoints (R403) and fabric tags (R342 to R346). -/

namespace Sys2Proof.Machine

open Sys2Proof

/-! ## JOB_SETUP (Table 10.11, R249, R251, R490) -/

/-- The logical tiles of a bitmap. -/
def tilesOfBitmap (m : Nat) : List Nat := (List.range 256).filter (fun t => m.testBit t)

/-- A pantry region entry of a setup: die and region register without its job. -/
structure RegionEntry where
  die : Nat
  first : Nat
  count : Nat
  mode : Nat
  policy : Nat
  deriving DecidableEq, Repr

/-- The valid region entries of a setup's body. -/
def Hamper.regionEntries (h : Hamper) : List RegionEntry :=
  ((List.range 16).map (fun i => h.at_ (0x38 + 4 * i) 4)).filterMap (fun v =>
    if bitsOf v 22 1 = 1 then some ⟨bitsOf v 0 3, bitsOf v 3 8, bitsOf v 11 8, bitsOf v 19 1, bitsOf v 20 2⟩ else none)

/-- The valid regions of a die with their numbers. -/
def Store.dieRegions (st : Store) (d : Nat) : List (Nat × PanReg) :=
  st.panRegs.filter (fun r => r.1 / 16 = d && panField r.2 19 1 = 1)

/-- Two runs of frames share one. -/
def framesMeet (f1 n1 f2 n2 : Nat) : Bool := decide (f1 < f2 + n2) && decide (f2 < f1 + n1)

/-- Test 3 of a setup: each entry in its order beside the regions of its die and the entries before it. -/
def Store.regionsFit (st : Store) : List RegionEntry → List RegionEntry → Bool
  | _, [] => true
  | before, e :: es =>
    let mine := before.filter (fun x => x.die = e.die)
    let there := st.dieRegions e.die
    decide (1 ≤ e.count) && decide (e.first + e.count ≤ 160)
      && mine.all (fun x => !framesMeet x.first x.count e.first e.count)
      && there.all (fun r => !framesMeet (panField r.2 0 8) (panField r.2 8 8) e.first e.count)
      && decide (mine.length + there.length < 16)
      && Store.regionsFit st (before ++ [e]) es

/-- Frames that some context maps, pools, or holds as a sink's copy or log. -/
def State.frameTaken (s : State) (f : Nat) : Bool :=
  (List.range 16).any (fun j =>
    let jb := s.job j
    jb.pages.any (fun e => e.2.mapped && e.2.frame = f) || jb.pool.contains f || jb.poolUsed.contains f
      || (decide (jb.mirror.copyBase / 0x200000 ≤ f) && decide (f < (jb.mirror.copyBase + jb.mirror.copyBytes) / 0x200000))
      || (decide (jb.mirror.logBase / 0x200000 ≤ f) && decide (f < (jb.mirror.logBase + jb.mirror.logBytes) / 0x200000)))

/-- The `n` highest free frames below a frame number, highest first (R249). -/
def takeFrames (free : Nat → Bool) : Nat → Nat → List Nat
  | _, 0 => []
  | 0, _ + 1 => []
  | f + 1, n + 1 => if free f then f :: takeFrames free f n else takeFrames free f (n + 1)

/-- Frames of the mappable cellar. -/
def cellarFrames : Nat := 0x1F000

/-- The first number of a die that holds no valid region, nor one staged. -/
def Store.freeRegion (st : Store) (d : Nat) : Nat :=
  let valid (r : PanReg) : Bool := panField r 19 1 = 1
  ((List.range 16).find? (fun n =>
    !(valid (SMap.get 0#24 st.panRegs (16 * d + n))) && !((SMap.get none st.panStaged (16 * d + n)).any valid))).getD 15

/-- A region staged for a job in the lowest free register of its die (log 36). Table 10.11 gives a setup no `BUSY`, so that
the static rule of R251 does not hold it back on a die where another context runs (DESIGN CHOICE, log 110). -/
def State.addRegion (j : Nat) (s : State) (e : RegionEntry) : State :=
  let v := e.first + e.count * 2 ^ 8 + e.mode * 2 ^ 16 + e.policy * 2 ^ 17 + 2 ^ 19 + j * 2 ^ 20
  s.withStore { s.store with
    panStaged := SMap.set none s.store.panStaged (16 * e.die + s.store.freeRegion e.die) (some (BitVec.ofNat 24 v)) }

/-- The region entries of a setup, staged and then committed with one write of each die's generation register (R11, R251;
how often a setup commits the spec leaves open, DESIGN CHOICE, log 110). -/
def State.addRegions (s : State) (j : Nat) (es : List RegionEntry) : State :=
  (dedup (es.map RegionEntry.die)).foldl State.pantryCommit (es.foldl (State.addRegion j) s)

/-- The context as its setup makes it. -/
def Hamper.newJob (h : Hamper) (old : Job) (pool : List Nat) : Job :=
  { phase := 1, step := BitVec.ofNat 64 (h.at_ 0 8), seed := BitVec.ofNat 64 (h.at_ 8 8), det := h.at_ 0x10 4 % 2 = 1
    entropy := h.at_ 0x10 4 / 2 % 2 = 1, tiles := tilesOfBitmap (h.at_ 0x18 32), pool := pool, tagState := old.tagState
    lastTag := old.lastTag, cut := old.cut.shown }

/-- The tests of a setup and what it sets up. -/
def State.setupJob (s : State) (h : Hamper) : State :=
  let j := h.job
  let old := s.job j
  let ts := tilesOfBitmap (h.at_ 0x18 32)
  let es := h.regionEntries
  let n := h.at_ 0x14 4
  if old.phase ≠ 0 || s.attic.lifecycle = 3 then s.fail h stNotPermitted 0
  else if !ts.all (fun t => decide (t < s.activeTiles) && (s.tile t).avail && (s.tile t).owner.isNone) then
    s.fail h stRefused 1
  else if !s.store.regionsFit [] es then s.fail h stRefused 2
  else
    let pool := takeFrames (fun f => !s.frameTaken f) cellarFrames n
    if pool.length < n then s.fail h stRefused 3
    else
      let s := s.setJob j (h.newJob old pool)
      let s := ts.foldl (fun s t => s.modTile t (fun x => { x.resetPage with owner := some j })) s
      (s.addRegions j es).done h

/-- `JOB_SETUP` (R299). -/
def execJobSetup (port : Port) (slot : Nat) (s : State) : Reply :=
  .next (s.serveNow 0x0010 port slot fun h s => s.setupJob h)

/-! ## JOB_START (R208, R299, R235) -/

/-- A tile's stream at its start: every sequencer register 0, at its first word, with its two record positions. -/
def Tile.begin (x : Tile) (stream brk : Option ItemRef) : Tile :=
  { (x.setReg .sq 0x10 0#64) with
    started := true, ended := false, mode := .running, wait := .none, held := none, xct := none, skipBreak := false
    pc := fieldOf (x.reg .sq 0x90) 0 22, ordinal := 0, loops := [], seqRegs := [], tags := [], haltPending := none
    streamItem := stream, breakItem := brk }

/-- List entry `k` of a start. -/
def State.startEntry (s : State) (h : Hamper) (k : Nat) : State :=
  let j := h.job
  let t := h.at_ (8 + k) 1
  let x := s.tile t
  let pos : ItemRef := ⟨h.port, h.slot, 2 * k⟩
  let mine := (s.job j).tiles.contains t
  let named := ((s.job j).loadImage.map (fun i => i.tiles.any (fun y => y.tile = t))).getD false
  if mine && named && !x.started && !(x.loaded && x.avail) then s.finishItem pos .failed stTileLost t 0#64
  else if !mine || !x.loaded || x.started then s.finishItem pos .failed stNotPermitted t 0#64
  else (s.modTile t (fun x => x.begin (some pos) (some ⟨h.port, h.slot, 2 * k + 1⟩))).toRun

/-- `JOB_START` (R299): two positions for each tile, of which the break position is no open item (log 37). -/
def execJobStart (port : Port) (slot : Nat) (s : State) : Reply :=
  .next (s.serve 0x0012 port slot fun h s =>
    let n := h.at_ 0 1
    let s := s.writeAnswer h.port h.slot h.seq stOK (2 * n) ((List.range n).map (fun k => 2 * k)) s.now
    (List.range n).foldl (fun s k => s.startEntry h k) s)

/-! ## MAP and UNMAP (R248 to R250) -/

/-- A frame that a context may map at an entry with CACHE or without (R248). -/
def State.frameOk (s : State) (j pa : Nat) (cache : Bool) : Bool :=
  pa % 0x200000 = 0
    && (inCellar pa || (!cache && ((s.store.scratchFrames j).contains (pa / 0x200000)
          || (inTiles pa && (s.tile (tileOfPa pa)).owner = some j))))
    && !((List.range 16).any (fun k => (s.job k).pool.contains (pa / 0x200000) || (s.job k).poolUsed.contains (pa / 0x200000)))

/-- A page that a `MAP` may map to a frame. -/
def State.mapPageOk (s : State) (j va pa : Nat) (cache defer : Bool) : Bool :=
  let e := SMap.get {} (s.job j).pages (va / 0x200000)
  va % 0x200000 = 0 && decide (va < 2 ^ 48) && !e.mapped && !e.defer
    && (if defer then pa = 0 else s.frameOk j pa cache)

/-- `MAP` (R248): all pages or none; `DETAIL` of a failure is the first page's address (log 38). -/
def State.mapPages (s : State) (h : Hamper) : State :=
  let j := h.job
  let va := h.at_ 0 8
  let pa := h.at_ 8 8
  let n := h.at_ 0x10 4
  let fl := h.at_ 0x14 4
  let r := fl.testBit 0
  let w := fl.testBit 1
  let cache := fl.testBit 2
  let defer := fl.testBit 3
  let frame (i : Nat) : Nat := if defer then pa else pa + i * 0x200000
  match (List.range n).find? (fun i => !s.mapPageOk j (va + i * 0x200000) (frame i) cache defer) with
  | some i => s.fail h stTranslation (va + i * 0x200000)
  | none =>
    (s.modJob j (fun jb => { jb with
      pages := (List.range n).foldl (fun m i =>
        SMap.set {} m (va / 0x200000 + i) ⟨!defer, if defer then 0 else frame i / 0x200000, r, w, cache, defer⟩) jb.pages })).done h

def execMap (port : Port) (slot : Nat) (s : State) : Reply :=
  .next (s.serveNow 0x0013 port slot fun h s => s.mapPages h)

/-- `UNMAP` (R250): the item ends once no running command holds a page. -/
def State.unmapPages (s : State) (h : Hamper) : State :=
  let j := h.job
  let first := h.at_ 0 8 % 2 ^ 48 / 0x200000
  let n := h.at_ 8 4
  if (List.range n).any (fun i => (s.job j).pageKept (first + i)) then s.fail h stNotPermitted 0
  else (s.modJob j (fun jb => { jb with unmapItems := jb.unmapItems ++ [(h.item, first, n)] })).unmapReady j

def execUnmap (port : Port) (slot : Nat) (s : State) : Reply :=
  .next (s.serveNow 0x0014 port slot fun h s => s.unmapPages h)

/-! ## Registers of a tile (R238 to R240, R299) -/

/-- The record of a register hamper names its tile. -/
def State.failTile (s : State) (h : Hamper) (st : Status) (t : Nat) : State := s.finishItem h.item .failed st t 0#64

/-- A register hamper's tests: the tile, the register, the engine, and a tile that is there (log 39). -/
def State.regTest (s : State) (h : Hamper) : Except Status Engine :=
  let t := h.at_ 0 2
  match engOf (h.at_ 2 1) with
  | none => .error stIllegal
  | some e =>
    if s.activeTiles ≤ t || !regNamed e (h.at_ 3 1) then .error stIllegal
    else if !s.engPresent e then .error stEngineAbsent
    else if !(s.tile t).avail then .error stTileLost
    else .ok e

/-- `REG_READ` (R299). -/
def execRegRead (port : Port) (slot : Nat) (s : State) : Reply :=
  .next (s.serveNow 0x0018 port slot fun h s =>
    let t := h.at_ 0 2
    match s.regTest h with
    | .error st => s.failTile h st t
    | .ok e => s.finishItem h.item .done stOK t (s.readReg t e (h.at_ 3 1)))

/-- `REG_WRITE` (R239, R240): it waits for an empty pending slot of its engine. -/
def execRegWrite (port : Port) (slot : Nat) (s : State) : Reply :=
  .next (s.serveNow 0x0019 port slot fun h s =>
    let t := h.at_ 0 2
    match s.regTest h with
    | .error st => s.failTile h st t
    | .ok e =>
      (s.modTile t (fun x => { x with
        regWrites := x.regWrites ++ [⟨h.item, e, h.at_ 3 1, BitVec.ofNat 64 (h.at_ 8 8), (x.eng e).pending.isSome && x.cfgwHeld e⟩] })).regWritesReady t e)

/-! ## TILE_RESUME (R235 to R237) -/

/-- A stream that stands halted by `BREAK_HIT`. -/
def Tile.atBreak (x : Tile) : Bool :=
  x.avail && x.mode == .halted && x.started && !x.ended && fieldOf (x.reg .sq 0x20) 0 16 = stBreakHit.toNat

/-- `TILE_RESUME` (R237): the halted instance is dispatched next without a breakpoint test. -/
def execTileResume (port : Port) (slot : Nat) (s : State) : Reply :=
  .next (s.serveNow 0x001A port slot fun h s =>
    let t := h.at_ 0 2
    if !(s.tile t).atBreak then s.failTile h stNotPermitted t
    else
      ((s.clearBreak t).modTile t (fun x => { x with mode := .running, wait := .none, skipBreak := true })).toRun.finishItem
        h.item .done stOK t 0#64)

/-! ## Stops (R46 to R50) -/

/-- A stop armed at boundary `n`; the one before it is skipped (R48). -/
def State.armStop (s : State) (h : Hamper) (n : BitVec 64) : State :=
  let s := s.finishItem? (s.job h.job).stopItem .skipped stSkipped 0xFFFF 0#64
  s.modJob h.job (fun jb => { jb with stopAt := n, stopItem := some h.item })

/-- The outcome of a stop that is latched now (R46). -/
def State.latchStop (s : State) (h : Hamper) : State :=
  let n := BitVec.ofNat 64 (h.at_ 0 8)
  let jb := s.job h.job
  if n = BitVec.allOnes 64 then s.fail h stNotPermitted jb.step.toNat
  else if jb.step.ult n then s.armStop h n
  else if jb.step = n && jb.phase = 3 then s.done h
  else s.fail h stNotPermitted jb.step.toNat

/-- `STOP_AT_STEP` (R46, R50). -/
def execStopAtStep (port : Port) (slot : Nat) (s : State) : Reply :=
  .next (s.serveNow 0x0020 port slot fun h s => s.latchStop h)

/-- `STEP_RESUME` (R50): order 7 of Table 2.6. -/
def execStepResume (port : Port) (slot : Nat) (s : State) : Reply :=
  .next (s.serveNow 0x0021 port slot fun h s => (s.release h.job).toRun.done h)

/-- `TEARDOWN` (R301): the tiles stop, the answer, then everything else. -/
def execTeardown (port : Port) (slot : Nat) (s : State) : Reply :=
  .next (s.serve 0x0022 port slot fun h s =>
    (((s.stopTiles h.job).answerOk h).endJobRest h.job .teardown).done h)

/-! ## CHECKPOINT (R402 to R404) -/

/-- The regions in use of a checkpoint's body. -/
def Hamper.cutRegions (h : Hamper) : List CutRegion :=
  ((List.range 8).map (fun i =>
    let o := 0x20 + 24 * i
    (⟨h.at_ o 6, h.at_ (o + 8) 6, h.at_ (o + 16) 2, h.at_ (o + 18) 2⟩ : CutRegion))).filter (fun r => r.size ≠ 0)

/-- A page that a cut may copy (R403). -/
def State.cutPageOk (s : State) (j page : Nat) : Bool :=
  let e := SMap.get {} (s.job j).pages page
  e.mapped && e.r && !inTiles (e.frame * 0x200000)

/-- Pages of a region. -/
def CutRegion.pages (r : CutRegion) : List Nat := (List.range (r.size / 0x200000)).map (fun i => r.base / 0x200000 + i)

/-- The gateway lies in the gateway range of a bound tag (R331). -/
def Job.gatewayOk (jb : Job) (g : Nat) : Bool :=
  match jb.binding with
  | none => false
  | some b => decide (b.gateways.1 ≤ g) && decide (g ≤ b.gateways.2)

/-- The status a checkpoint is refused with at its take, if any. -/
def State.cutRefused (s : State) (h : Hamper) : Option Status :=
  let jb := s.job h.job
  let n := BitVec.ofNat 64 (h.at_ 0 8)
  if !(jb.step.ult n || (n = jb.step && jb.phase = 3)) || jb.cut.state = 1 || jb.cut.active then some stNotPermitted
  else if !jb.gatewayOk (h.at_ 8 2) then some stNotPermitted
  else if !(h.cutRegions.all (fun r => r.pages.all (s.cutPageOk h.job))) then some stRefused
  else none

/-- The cut as its hamper names it. -/
def Hamper.newCut (h : Hamper) : Cut :=
  { state := 1, gen := h.at_ 0x18 4 % 2 = 1, boundary := BitVec.ofNat 64 (h.at_ 0 8), gateway := h.at_ 8 2
    dataHandle := h.at_ 0x0A 2, manHandle := h.at_ 0x0C 2, packages := h.at_ 0x10 4, rank := h.at_ 0x14 4
    regions := h.cutRegions, item := some h.item }

/-- `CHECKPOINT` (R403, R404). -/
def State.takeCut (s : State) (h : Hamper) : State :=
  match s.cutRefused h with
  | some st => s.fail h st 0
  | none =>
    let s := (s.modJob h.job (fun jb => { jb with cut := h.newCut })).unmapReady h.job
    let jb := s.job h.job
    if jb.step = jb.cut.boundary then s.capture h.job jb.step false else s

def execCheckpoint (port : Port) (slot : Nat) (s : State) : Reply :=
  .next (s.serveNow 0x0030 port slot fun h s => s.takeCut h)

/-! ## Fabric tags (R342 to R346) -/

/-- A window entry of Table 11.9. -/
def Hamper.window (h : Hamper) (i : Nat) : Window :=
  let o := 0x38 + 16 * i
  let fl := h.at_ (o + 14) 2
  ⟨h.at_ o 6, h.at_ (o + 8) 6, fl.testBit 0, fl.testBit 1, fl.testBit 2, fl.testBit 3⟩

/-- The binding a `TAG_ASSIGN` asks for. -/
def Hamper.newBinding (h : Hamper) : Binding :=
  let rto := h.at_ 4 1
  let range (o : Nat) : Nat × Nat := (h.at_ o 2, h.at_ (o + 2) 2)
  { jtag := h.at_ 0 4, rtoNs := (if rto = 0 then 10 else rto) * 10000
    timeoutMs := if h.at_ 8 4 = 0 then 2000 else h.at_ 8 4
    endpoints := ((List.range 8).map (fun i => range (0x10 + 4 * i))).filter (fun r => decide (r.1 ≤ r.2))
    gateways := range 0x30, windows := (List.range 8).map h.window, trigBase := h.at_ 0xB8 8, queueBase := h.at_ 0xC0 8 }

/-- A window in use is aligned (R343). -/
def Window.ok (w : Window) : Bool :=
  w.size = 0 || (w.base % 0x200000 = 0 && w.size % 0x200000 = 0 && decide (w.base + w.size ≤ 2 ^ 48))

/-- A binding is well formed: a tag that is not 0, aligned windows and tables. -/
def Binding.ok (b : Binding) : Bool :=
  b.jtag % 2 ^ 20 ≠ 0 && b.windows.all Window.ok && b.trigBase % 4096 = 0 && b.queueBase % 65536 = 0
    && decide (b.trigBase < 2 ^ 48) && decide (b.queueBase < 2 ^ 48)

/-- A tag with its epoch is in quarantine now (R346). -/
def State.quarantined (s : State) (jtag : Nat) : Bool := s.fab.quarantine.any (fun q => q.1 = jtag && s.now.ult q.2)

/-- A tag is bound to some context. -/
def State.tagBound (s : State) (tag : Nat) : Bool :=
  (List.range 16).any (fun j => ((s.job j).binding.map (fun b => b.jtag % 2 ^ 20)) = some tag)

/-- The context with its tag: flows, counters and queues as new. -/
def Job.bind (jb : Job) (b : Binding) : Job :=
  { jb with binding := some b, tagState := 1, lastTag := b.jtag, torn := false, counters := [], queues := [], nextSeq := []
            flows := [], heldTriggers := [], lists := [] }

/-- `TAG_ASSIGN` (R342, R343). -/
def State.assignTag (s : State) (h : Hamper) : State :=
  let b := h.newBinding
  if !b.ok then s.fail h stDescBad 0
  else if (s.job h.job).binding.isSome || s.tagBound (b.jtag % 2 ^ 20) || s.fab.endpoint.isNone || s.quarantined b.jtag then
    s.fail h stNotPermitted 0
  else (s.modJob h.job (fun jb => jb.bind b)).done h

def execTagAssign (port : Port) (slot : Nat) (s : State) : Reply :=
  .next (s.serveNow 0x0050 port slot fun h s => s.assignTag h)

/-- `TAG_TEARDOWN` (R344). -/
def execTagTeardown (port : Port) (slot : Nat) (s : State) : Reply :=
  .next (s.serveNow 0x0051 port slot fun h s =>
    if (s.job h.job).binding.isNone then s.fail h stNotPermitted 0 else (s.tearFabric h.job).done h)

end Sys2Proof.Machine
end

