-- ==== Sys2Proof/Machine/Twin.lean ====
section
/-! DEFINITION. Twin.lean: the twin of a package (chapter 13): pairing, heartbeats and suspicion (R378 to R382), the setup and
release of mirrors (R383, R384, R394), takeover and handover (R390 to R393). -/

namespace Sys2Proof.Machine

open Sys2Proof

/-! ## The end of a mirror (R389, R394) -/

/-- A mirror of a context ends: the source stops tracking; a sink keeps its copy and log frames until teardown. -/
def State.endMirror (s : State) (j : Nat) : State :=
  let m := (s.job j).mirror
  if m.state = 4 then
    s.modMirror j (fun m => { ({} : Mirror) with
      copyBase := m.copyBase, copyBytes := m.copyBytes, logBase := m.logBase, logBytes := m.logBytes })
  else
    let s := s.withStore { s.store with tracks := s.store.tracks.filter (fun t => t.job ≠ j) }
    ((s.modMirror j (fun _ => {})).endCaptures j).guardRetry

/-! ## Pairing (R378, R379) -/

/-- The device identity public key: 96 bytes (R445). -/
def State.identityPub (s : State) : List Byte :=
  bytes96 (p384Public (identityKey s.attic.secret (s.attic.lifecycle = 3)))

/-- What a package knows of its twin ends with a pairing. -/
def Pair.forget (x : Pair) : Pair :=
  { x with missed := 0, twin := none, twinEndpoint := none, taken := false, handed := [], released := [] }

/-- Pairing is complete. Source mirrors of a twin that was lost or detached end: they need a new `MIRROR_SETUP` (R389). -/
def State.paired (s : State) : State :=
  let item := s.pair.item
  let s := (List.range 16).foldl (fun s j => if (s.job j).mirror.isSource then s.endMirror j else s) s
  { s with pair := { s.pair.forget.unasked with state := 1 } }.finishItem? item .done stOK 0xFFFF 0#64

/-- The waiting `PAIR` fails with its cause; what the twin has shown is forgotten. -/
def State.pairFails (s : State) (cause : Nat) : State :=
  let item := s.pair.item
  { s with pair := s.pair.unasked }.finishItem? item .failed stNotPermitted 0xFFFF (BitVec.ofNat 64 cause)

/-- A waiting `PAIR` that has the twin's key checks it and tells the twin so; it is complete once the twin has done the same
(log 126). -/
def State.pairCheck (s : State) : State :=
  if s.pair.item.isNone || s.pair.twinId.isEmpty then s
  else if s.pair.twinId != s.pair.itemTwin then s.pairFails 4
  else
    let s := if s.pair.told then s else { s with pair := { s.pair with told := true } }.emit (.pairing s.identityPub true)
    if s.pair.twinChecked then s.paired else s

/-- `PAIR` (R379): the package shows its own key to the twin and waits for the twin's. A second `PAIR` while one waits counts
as already paired (log 40). -/
def State.takePair (s : State) (h : Hamper) : State :=
  if !s.board.pairSense then s.fail h stNotPermitted 1
  else if s.pair.state = 1 || s.pair.state = 2 || s.pair.item.isSome then s.fail h stNotPermitted 2
  else if s.pair.galleryUp = 0#32 then s.fail h stNotPermitted 3
  else
    let old := decide (s.pair.shownAt.toNat + 1000000000 ≤ s.now.toNat)
    let s := if old then { s with pair := s.pair.unasked } else s
    ({ s with pair := { s.pair with item := some h.item, itemTwin := slice h.body 0 48 } }.emit
      (.pairing s.identityPub false)).pairCheck

def execPair (port : Port) (slot : Nat) (s : State) : Reply :=
  .next (s.serveNow 0x0040 port slot fun h s => s.takePair h)

/-- `PAIRING_FRAME` (R379): the twin's key arrives, and whether the twin has checked this package's. A twin that has not checked it
yet must be told again; one that has checked it answers a `PAIR` here, and without one its frame says nothing. A key is kept
for the 1 s that the twin's own `PAIR` may wait (log 126). -/
def execPairingFrame (frame : PairingFrame) (s : State) : Reply :=
  .next (if frame.checked && s.pair.item.isNone then s
    else
      { s with pair := { s.pair with
        twinId := sha384 frame.pub, twinChecked := frame.checked, shownAt := s.now
        told := s.pair.told && frame.checked } }.pairCheck)

/-- `PAIR_WAIT_EXPIRY` (R379). -/
def execPairWaitExpiry (s : State) : Reply := .next (if s.pair.item.isSome then s.pairFails 5 else s)

/-! ## Heartbeats (R380, R381) -/

/-- The contexts in use. -/
def State.liveJobs (s : State) : List Nat := (List.range 16).filter (fun j => (s.job j).phase ≠ 0)

/-- A tile of a context stands halted for a cause other than `BREAK_HIT`. -/
def State.jobHalted (s : State) (j : Nat) : Bool :=
  (s.job j).tiles.any (fun t => (s.tile t).mode == .halted && fieldOf ((s.tile t).reg .sq 0x20) 0 16 ≠ stBreakHit.toNat)

/-- What this package tells its twin (log 24). -/
def State.heartbeat (s : State) : TwinHeartbeat :=
  let js := s.liveJobs
  { pairState := s.pair.state, endpoint := s.fab.endpoint, lowPower := decide (2 ≤ s.clk.powerState), failed := s.sec.failed
    steps := js.map (fun j => (j, (s.job j).step))
    committed := js.map (fun j => (j, (s.job j).mirror.committed))
    sides := js.filterMap (fun j =>
      let m := (s.job j).mirror
      m.side.map (fun sink => ⟨j, m.twinCtx, sink, m.regions, m.logBytes, m.copyBytes, m.agreed, m.delta.map Delta.boundary⟩))
    stopped := js.filter (fun j => (s.job j).phase = 3)
    halted := js.filter s.jobHalted
    taken := s.pair.handed, released := s.pair.released }

/-- Another heartbeat of the twin is missed, unless it has announced a state below Ready. -/
def State.missHeartbeat (s : State) : State :=
  if (s.pair.twin.map (fun h => h.lowPower)).getD false then s
  else { s with pair := { s.pair with missed := min 0xFFFF (s.pair.missed + 1) } }

/-- `PAIR_HEARTBEAT` (R380, R438): the tick at which a heartbeat leaves, and the twin's is heard or missed. -/
def execPairHeartbeat (missed : Bool) (s : State) : Reply :=
  .next (if s.pair.state = 1 || s.pair.state = 2 then
      let s := if s.sec.failed || 2 ≤ s.clk.powerState then s else s.emit (.heartbeat s.heartbeat)
      if missed then s.missHeartbeat else s
    else s)

/-- The twin is SUSPECT: its event, and its mirrors suspended. -/
def State.suspect (s : State) : State :=
  if s.pair.state = 1 then
    ({ s with pair := { s.pair with state := 2 } }.mbxEvent 5).suspendMirrors 4
  else s

/-- `TWIN_SUSPECT` (R380): 20 successive heartbeats are missed. -/
def execTwinSuspect (s : State) : Reply := .next (if 20 ≤ s.pair.missed then s.suspect else s)

/-- `FAILURE_NOTICE` (R380, R396). -/
def execFailureNotice (s : State) : Reply := .next s.suspect

/-! ## Mirrors: setup and confirmation (R383, R384) -/

/-- The regions in use of a source side's body. -/
def Hamper.mirrorRegions (h : Hamper) : List (Nat × Nat) :=
  ((List.range 8).map (fun i => (h.at_ (8 + 16 * i) 6, h.at_ (16 + 16 * i) 6))).filter (fun r => r.2 ≠ 0)

/-- Bytes of regions. -/
def regionBytes (rs : List (Nat × Nat)) : Nat := (rs.map Prod.snd).foldl (· + ·) 0

/-- A region is wholly mapped to cellar frames with R and W. -/
def Job.regionMapped (jb : Job) (r : Nat × Nat) : Bool :=
  (List.range (r.2 / 0x200000)).all (fun i =>
    let e := SMap.get {} jb.pages (r.1 / 0x200000 + i)
    e.mapped && e.r && e.w && inCellar (e.frame * 0x200000))

/-- The mirror as a `MIRROR_SETUP` asks for it. -/
def Hamper.newMirror (h : Hamper) : Mirror :=
  if h.at_ 0 1 % 2 = 0 then
    { side := some false, twinCtx := h.at_ 4 1 % 16, item := some h.item, regions := h.mirrorRegions }
  else
    { side := some true, twinCtx := h.at_ 4 1 % 16, item := some h.item, copyBase := h.at_ 0x08 8, copyBytes := h.at_ 0x10 8
      logBase := h.at_ 0x18 8, logBytes := h.at_ 0x20 8
      victims := (List.range 16).filter (fun c => (h.at_ 0x28 2).testBit c), tiles := tilesOfBitmap (h.at_ 0x30 32)
      autorun := h.at_ 0 1 / 2 % 2 = 1 }

/-- The frames of a run of bytes. -/
def framesIn (base len : Nat) : List Nat :=
  (List.range ((len + 0x1FFFFF) / 0x200000)).map (fun i => base / 0x200000 + i)

/-- Copy and log frames of a sink that lie in the mappable cellar and are mapped to no other context. -/
def State.sinkFramesOk (s : State) (j : Nat) (m : Mirror) : Bool :=
  decide (m.copyBase + m.copyBytes ≤ 0x3E00000000) && decide (m.logBase + m.logBytes ≤ 0x3E00000000)
    && (framesIn m.copyBase m.copyBytes ++ framesIn m.logBase m.logBytes).all (fun f =>
        !s.mappedElsewhere j f && !((List.range 16).any (fun k => k ≠ j && (s.job k).pool.contains f)))

/-- Bytes that the sinks of the package hold. -/
def State.sinkBytes (s : State) : Nat :=
  ((List.range 16).map (fun j =>
    let m := (s.job j).mirror
    if m.side = some true then m.copyBytes + m.logBytes else 0)).foldl (· + ·) 0

/-- Once the victims have ended, every tile of a sink is there and owned by none. -/
def State.sinkTilesOk (s : State) (m : Mirror) : Bool :=
  m.tiles.all (fun t => decide (t < s.activeTiles) && (s.tile t).avail && (s.tile t).owner.all (fun o => m.victims.contains o))

/-- What refuses a `MIRROR_SETUP` at once (R384); a context that has a mirror already is not permitted another (log 41). -/
def State.mirrorRefused (s : State) (j : Nat) (m : Mirror) : Option Status :=
  if (s.job j).mirror.side.isSome then some stNotPermitted
  else if m.side = some false then (if m.regions.all (s.job j).regionMapped then none else some stRefused)
  else if !((s.job j).tiles.isEmpty && s.sinkTilesOk m && s.sinkFramesOk j m && decide (m.logBytes ≤ 0x80000000)
      && decide (s.sinkBytes + m.copyBytes + m.logBytes ≤ 0x2000000000)) then some stRefused
  else none

/-- `MIRROR_SETUP` (R383): the side stands and waits for the twin's. -/
def execMirrorSetup (port : Port) (slot : Nat) (s : State) : Reply :=
  .next (s.serveNow 0x0043 port slot fun h s =>
    let m := h.newMirror
    match s.mirrorRefused h.job m with
    | some st => s.fail h st 0
    | none =>
      -- a mirror of a context that a handover moved here, or whose mirror was released here, is of a new one (R393, R394)
      let s := { s with pair := { s.pair with
        handed := if m.side = some true then s.pair.handed.filter (· ≠ m.twinCtx) else s.pair.handed
        released := s.pair.released.filter (· ≠ m.twinCtx) } }
      s.modMirror h.job (fun _ => m))

/-- The source side begins: every block goes with the first delta, and its frames are tracked. -/
def State.startSource (s : State) (j : Nat) (x : MirrorSide) : State :=
  let jb := s.job j
  let item := jb.mirror.item
  let frames := jb.mirror.regions.flatMap (fun r =>
    (List.range (r.2 / 0x200000)).map (fun i => (SMap.get {} jb.pages (r.1 / 0x200000 + i)).frame))
  let s := s.withStore { s.store with tracks := s.store.tracks ++ [⟨j, frames, []⟩] }
  (s.modMirror j (fun m => { m with
    state := 1, confirmed := true, item := none, logBytes := x.logBytes
    carried := jb.mirrorBlocks.map Prod.fst })).finishItem? item .done stOK 0xFFFF 0#64 |>.unmapReady j

/-- The two sides fit: the copy holds the source's regions (R384). -/
def Mirror.fits (m : Mirror) (x : MirrorSide) : Bool :=
  if x.sink then decide (regionBytes m.regions ≤ x.copyBytes) else decide (regionBytes x.regions ≤ m.copyBytes)

/-- A waiting side whose counterpart the twin announces: it accepts one that fits, and begins once the twin has accepted it
too (R383, log 126). A sink whose copy is too small for the regions is refused; its source waits for another. -/
def State.confirmMirror (sides : List MirrorSide) (s : State) (j : Nat) : State :=
  let m := (s.job j).mirror
  if m.confirmed then s
  else
    match m.side with
    | none => s
    | some sink =>
      match sides.find? (fun x => x.sink != sink && x.twinCtx = m.twinCtx && x.ourCtx = j) with
      | none => s
      | some x =>
        if !m.fits x then
          if sink then (s.modMirror j (fun _ => {})).finishItem? m.item .failed stRefused 0xFFFF 0#64 else s
        else
          let s := s.modMirror j (fun m => { m with agreed := true, regions := if sink then x.regions else m.regions })
          if !x.agreed then s else if sink then s.startSink j else s.startSource j x

/-- `MIRROR_SETUP_EXPIRY` (R383): 1 s without the other side. -/
def execMirrorSetupExpiry (j : Nat) (s : State) : Reply :=
  let m := (s.job j).mirror
  .next (if m.item.isSome && !m.confirmed then
      (s.modMirror j (fun _ => {})).finishItem? m.item .failed stNotPermitted 0xFFFF 0#64
    else s)

/-- A context that a handover moved to the twin ends here (R393). -/
def State.handedOver (s : State) (j : Nat) : State :=
  if (s.job j).mirror.isSource then s.endJob j (.all stTakeover) else s

/-- A sink discards a log that never became whole once its source no longer sends that delta (R388). -/
def State.dropStale (sides : List MirrorSide) (s : State) (j : Nat) : State :=
  let m := (s.job j).mirror
  match sides.find? (fun x => !x.sink && x.twinCtx = m.twinCtx && x.ourCtx = j) with
  | none => s
  | some x =>
    if m.state = 4 && m.logDone.isNone && m.log.any (fun f => some f.boundary ≠ x.sending) then
      s.modMirror j (fun m => { m with log := [] })
    else s

/-- A mirror that the twin released ends here too (R394). -/
def State.releasedThere (s : State) (j : Nat) : State :=
  let m := (s.job j).mirror
  if m.isSource || m.state = 4 then s.endMirror j else s

/-- `PAIR_HEARTBEAT_RECEIVE` (R380, R381). -/
def State.hear (s : State) (h : TwinHeartbeat) : State :=
  if !(s.pair.state = 1 || s.pair.state = 2) then s
  else
    let s := { s with pair := { s.pair with
      missed := 0, twin := some h, twinEndpoint := h.endpoint
      handed := s.pair.handed.filter (fun c => h.sides.any (fun x => !x.sink && x.twinCtx = c))
      released := s.pair.released.filter (fun c => h.sides.any (fun x => x.twinCtx = c)) } }
    if h.failed then s.suspect
    else if h.pairState = 4 then { s with pair := { s.pair with state := 5 } }.suspendMirrors 4
    else
      let s := { s with pair := { s.pair with state := 1 } }.resumeMirrors
      let s := (List.range 16).foldl (State.confirmMirror h.sides) (h.released.foldl State.releasedThere s)
      let s := (List.range 16).foldl (State.dropStale h.sides) s
      h.taken.foldl State.handedOver s

def execPairHeartbeatReceive (h : TwinHeartbeat) (s : State) : Reply := .next (s.hear h)

/-! ## Detach (R382) -/

/-- `DETACH` (R382): no context may be in use. -/
def State.detach (s : State) (h : Hamper) : State :=
  if !s.liveJobs.isEmpty then s.fail h stNotPermitted 0
  else
    let s := { s with pair := { s.pair with state := 4 } }
    let s := s.emit (.heartbeat s.heartbeat)
    ({ s with pair := { s.pair.forget with state := 0, galleryUp := 0#32, twinId := [], twinChecked := false } }).done h

def execDetach (port : Port) (slot : Nat) (s : State) : Reply :=
  .next (s.serveNow 0x0042 port slot fun h s => s.detach h)

/-! ## Takeover and handover (R390 to R393) -/

/-- The copy is mapped at the source regions' addresses (step 4). -/
def Job.mapCopy (jb : Job) : Job :=
  let put (pages : SMap PageEntry) (x : Nat × Nat) : SMap PageEntry := SMap.set {} pages x.1 ⟨true, x.2, true, true, false, false⟩
  let vas := jb.mirror.regions.flatMap (fun r => (List.range (r.2 / 0x200000)).map (fun i => r.1 / 0x200000 + i))
  let frames := (List.range vas.length).map (fun i => jb.mirror.copyBase / 0x200000 + i)
  { jb with pages := (vas.zip frames).foldl put jb.pages }

/-- The tiles of a sink become its own, set up as by `JOB_SETUP` (R490), and receive their streams (step 5). -/
def State.sinkTiles (s : State) (j : Nat) : State :=
  let jb := s.job j
  let mine := jb.mirror.tiles.filter (fun t => (s.tile t).avail && (s.tile t).owner.isNone)
  let s := s.modJob j (fun jb => { jb with tiles := mine })
  let s := mine.foldl (fun s t => s.modTile t (fun x => { x.resetPage with owner := some j })) s
  let imgs := ((jb.loadImage.map (fun i => i.tiles)).getD []).filter (fun i => mine.contains i.tile)
  (s.install imgs).2

/-- Every loaded stream starts (step 6). -/
def State.autorun (s : State) (j : Nat) : State :=
  (s.job j).tiles.foldl (fun s t =>
    if (s.tile t).loaded then (s.modTile t (fun x => x.begin none none)).toRun else s) s

/-- Steps 2 to 6 of R391 for a sink context, which is an ordinary one from then on: its log is no longer held. -/
def State.resumeSink (s : State) (j : Nat) : State :=
  let m := (s.job j).mirror
  let s := (m.victims.filter (· ≠ j)).foldl (fun s v => s.endJob v (.streams stTakeover)) s
  let s := (s.applyLog j).modMirror j (fun m => { m with log := [] })
  let s := s.modJob j (fun jb => { jb.mapCopy with step := m.committed })
  let s := s.sinkTiles j
  let s := if m.autorun then s.autorun j else s
  s.modMirror j (fun m => { ({} : Mirror) with state := 5, twinCtx := m.twinCtx, committed := m.committed })

/-- The last step counter heard of a context of the twin. -/
def State.heardStep (s : State) (c : Nat) : BitVec 64 :=
  ((s.pair.twin.bind (fun h => h.steps.find? (fun x => x.1 = c))).map Prod.snd).getD 0#64

/-- The registers of a takeover or handover (Table 13.8). -/
def State.takenRegs (s : State) (j : Nat) : State :=
  let m := (s.job j).mirror
  (s.setBar2 0x610 m.committed).setBar2 0x618 (s.heardStep m.twinCtx)

/-- The `ROLE` record with M. -/
def State.roleRecord (s : State) (h : Hamper) (m : BitVec 64) (clean : Bool) : State :=
  if clean then s.finishItem h.item .done stOK 0xFFFF m else s.finishItem h.item .donePartial stTakeover 0xFFFF m

/-- A sink still stands on the package. -/
def State.sinkStands (s : State) : Bool := (List.range 16).any (fun j => (s.job j).mirror.state = 4)

/-- With no sink of a lost twin left the twin is taken over, and the package UNPAIRED (Table 13.2, log 42). -/
def State.lostOver (s : State) : State :=
  if s.pair.state = 3 && !s.sinkStands then
    { s with pair := { s.pair.forget with state := 0 } }
  else s

/-- `TAKEOVER` (R390 to R392): of a twin that is SUSPECT, or LOST through an earlier one. -/
def State.takeover (s : State) (h : Hamper) : State :=
  let m := (s.job h.job).mirror
  if !((s.pair.state = 2 || (s.pair.state = 3 && s.pair.taken)) && m.state = 4) then s.fail h stNotPermitted 0
  else
    let s := ({ s with pair := { s.pair with state := 3, taken := true } }.suspendMirrors 4).takenRegs h.job
    ((s.resumeSink h.job).roleRecord h m.committed false).lostOver

def execTakeover (port : Port) (slot : Nat) (s : State) : Reply :=
  .next (s.serveNow 0x4100 port slot fun h s => s.takeover h)

/-- How the source context of a sink stands by what its package last said (R393): stopped at the committed boundary, or
halted. -/
def State.sourceStands (s : State) (m : Mirror) : Option Bool :=
  match s.pair.twin with
  | none => none
  | some h =>
    let c := m.twinCtx
    let heard (xs : List (Nat × BitVec 64)) : Option (BitVec 64) := (xs.find? (fun x => x.1 = c)).map Prod.snd
    if h.stopped.contains c && heard h.steps = some m.committed && heard h.committed = some m.committed then some true
    else if h.halted.contains c then some false
    else none

/-- `HANDOVER` (R393), sealed on the sink's package; a twin that is SUSPECT is then LOST (Table 13.2). -/
def State.handover (s : State) (h : Hamper) : State :=
  let m := (s.job h.job).mirror
  match (if (s.pair.state = 1 || s.pair.state = 2) && m.state = 4 then s.sourceStands m else none) with
  | none => s.fail h stNotPermitted 0
  | some clean =>
    let s := { s with pair := { s.pair with
      state := if s.pair.state = 2 then 3 else s.pair.state, handed := s.pair.handed ++ [m.twinCtx] } }
    let s := (if s.pair.state = 3 then s.suspendMirrors 4 else s.emit (.heartbeat s.heartbeat)).takenRegs h.job
    ((s.resumeSink h.job).roleRecord h m.committed clean).lostOver

def execHandover (port : Port) (slot : Nat) (s : State) : Reply :=
  .next (s.serveNow 0x4101 port slot fun h s => s.handover h)

/-! ## Release and resynchronisation (R394) -/

/-- `RELEASE` (R394): the twin hears of it and ends its side (log 24). -/
def execReleaseMirror (port : Port) (slot : Nat) (s : State) : Reply :=
  .next (s.serveNow 0x4102 port slot fun h s =>
    let m := (s.job h.job).mirror
    if !(m.isSource || m.state = 4) then s.fail h stNotPermitted 0
    else
      let s := { s with pair := { s.pair with released := s.pair.released.filter (· ≠ m.twinCtx) ++ [m.twinCtx] } }
      (s.endMirror h.job).done h)

/-- `RESYNC` (R394): the next delta carries every block. -/
def execResync (port : Port) (slot : Nat) (s : State) : Reply :=
  .next (s.serveNow 0x4103 port slot fun h s =>
    let jb := s.job h.job
    if !jb.mirror.isSource then s.fail h stNotPermitted 0
    else (s.modMirror h.job (fun m => { m with carried := jb.mirrorBlocks.map Prod.fst })).done h)

end Sys2Proof.Machine
end

