-- ==== Sys2Proof/Machine/Time.lean ====
section
/-! DEFINITION. Time.lean: the timebase (R429 to R432): the two-way exchange over the fabric, the edges of `TB_PPS`, slewing
and stepping, and the loss of lock. -/

namespace Sys2Proof.Machine

open Sys2Proof

/-! ## Correcting the timebase (R432) -/

/-- One second. -/
def second : Int := 1000000000

/-- The multiple of a second nearest to a time. -/
def nearestSecond (t : Int) : Int := (t + 500000000) / second * second

/-- The timebase steps by an offset: backwards where the package runs ahead, and then an event tells so (R429). -/
def State.stepTime (s : State) (theta : Int) : State :=
  let t : Int := s.now.toNat - theta
  let s := { s with clk := { s.clk with timebase := BitVec.ofInt 64 t, lossStepped := true, slew := 0, locked := true } }
  if 0 < theta then s.mbxEvent 5 else s

/-- Removing an offset: by one step after a loss of lock while no job context exists, and else by slewing. -/
def State.correct (s : State) (theta : Int) : State :=
  if s.liveJobs.isEmpty && !s.clk.locked && !s.clk.lossStepped && (1000 < theta || theta < -1000) then s.stepTime theta
  else { s with clk := { s.clk with slew := theta, locked := decide (-25 ≤ theta) && decide (theta ≤ 25) } }

/-! ## `TIME` packets (R431 Table 15.3) -/

/-- The keyed check of a `TIME` packet: over header bytes 0x00 to 0x1F and payload bytes 0x00 to 0x0F. -/
def timeCheck (key : List Byte) (p : Packet) : List Byte := (hmac384 key (packetHeader p ++ slice p.payload 0 16)).take 32

/-- Receiving a `TIME` packet of a kind; one whose check does not verify is a stranger. -/
def State.receiveTime (s : State) (kind : Nat) (x : TimePacket) (f : State → State) : State :=
  let p := x.packet
  if !packetOk p || s.fab.endpoint ≠ some p.dst.toNat then s.dropBad
  else if p.typ.toNat ≠ 0x30 then s
  else
    match s.sec.fmk with
    | none => s.stranger p
    | some k =>
      if p.jtag ≠ 0#32 || p.length.toNat ≠ 48 || slice p.payload 8 8 ≠ zeros 8 || slice p.payload 16 32 ≠ timeCheck k p then
        s.stranger p
      else if p.subop.toNat ≠ kind then s
      else f (s.passTo x.arrival)

/-- `SYNC`: t2 is the time of its arrival. -/
def execSync (x : TimePacket) (s : State) : Reply :=
  .next (s.receiveTime 0 x (fun s => { s with clk := { s.clk with
    exchange := some x.packet.seq.toNat, followed := false, t2 := x.arrival } }))

/-- The `DELAY_REQ` that answers a `FOLLOW_UP`. -/
def State.delayReq (s : State) (p : Packet) : Packet :=
  let q : Packet := { noPacket with
    typ := 0x30#8, dst := p.src, src := p.dst, path := p.path, subop := 2#8, seq := p.seq, length := 48#16, stile := 0xFF#8
    payload := zeros 16 }
  sealPacket { q with payload := zeros 16 ++ timeCheck (s.sec.fmk.getD []) q }

/-- `FOLLOW_UP`: t1 arrives; a `DELAY_REQ` of the same `SEQ` leaves, and t3 is the time of its departure. -/
def execFollowUp (x : TimePacket) (s : State) : Reply :=
  .next (s.receiveTime 1 x (fun s =>
    let s := s.sendPacket (s.delayReq x.packet)
    if s.clk.exchange = some x.packet.seq.toNat then
      { s with clk := { s.clk with followed := true, t1 := BitVec.ofNat 64 (fieldAt x.packet.payload 0 8), t3 := s.now } }
    else s))

/-- Half of a number; which neighbour an odd one gives is open (log 1). -/
def State.half (s : State) (n : Int) : Int := if Config.freeBool s.fresh then n / 2 else (n + 1) / 2

/-- The offset and the delay of a complete exchange. -/
def State.exchanged (s : State) (t4 : Nat) : Int × Int :=
  let a : Int := (s.clk.t2.toNat : Int) - s.clk.t1.toNat
  let b : Int := (t4 : Int) - s.clk.t3.toNat
  (s.half (a - b), s.half (a + b))

/-- A delay as `TB_STATUS` holds it; outside its 32 bits it is open (log 1). -/
def State.delayField (s : State) (d : Int) : Nat := if 0 ≤ d ∧ d < 2 ^ 32 then d.toNat else s.freeWord.toNat % 2 ^ 32

/-- Source 1 still gives its edges: one came within the last 2 s (R430, R432). -/
def Clock.edges (c : Clock) : Bool := c.source = 1 && decide (c.timebase.toNat < c.lastPps.toNat + 2000000000)

/-- `DELAY_RSP` (R431, R432): the exchange is complete. It supplies the count of whole seconds; under source 1 that is all, while
its edges come (R430). -/
def execDelayRsp (x : TimePacket) (s : State) : Reply :=
  .next (s.receiveTime 3 x (fun s =>
    if s.clk.exchange ≠ some x.packet.seq.toNat || !s.clk.followed then s
    else
      let (theta, delay) := s.exchanged (fieldAt x.packet.payload 0 8)
      let s := { s with clk := { s.clk with
        offset := theta, delay := s.delayField delay, exchange := none, followed := false, lastRef := s.now, counted := true } }.drawn
      if s.clk.edges then
        let whole := nearestSecond theta
        if whole = 0 then s else s.correct whole
      else ({ s with clk := { s.clk with source := 2 } }).correct theta))

/-! ## The lands (R430, R478) and the loss of lock (R432) -/

/-- `TB_PPS_EDGE` (R430, R478): the edge marks a whole second. One more than 1 µs from the second that the timebase expects
counts as a loss of reference, after which only the one step of R432 may follow it. The land is served from VAUX. `LOCKED` needs
the count of whole seconds too; `TB_REF` has no command, and its edges are taken as there (log 135). -/
def execTbPpsEdge (s : State) : Reply :=
  let t : Int := s.now.toNat
  let theta := t - nearestSecond t
  .next (if !s.board.vaux then s
    else if (-1000 ≤ theta && theta ≤ 1000) || (s.liveJobs.isEmpty && !s.clk.locked && !s.clk.lossStepped) then
      let s := ({ s with clk := { s.clk with source := 1, offset := theta, lastRef := s.now } }).correct theta
      { s with clk := { s.clk with lastPps := s.now, locked := s.clk.locked && s.clk.counted } }
    else { s with clk := { s.clk with source := 0, offset := theta } })

/-- `TB_LOCK_LOST` (R432): 2 s without a reference have passed. -/
def execTbLockLost (s : State) : Reply :=
  let s := s.passTo (s.clk.lastRef + 2000000000#64)
  .next { s with clk := { s.clk with source := 0, locked := false, lossStepped := false, slew := 0 } }

end Sys2Proof.Machine
end

