-- ==== Sys2Proof/Machine/Power.lean ====
section
/-! DEFINITION. Power.lean: clocks, power and housekeeping (chapter 15): landings (R425), clock stretching (R428), the governor
and temperatures (R433, R434), `POWER_LIMIT` and the power states (R435 to R439), housekeeping (R440, R441), and the
saturation event of R270. -/

namespace Sys2Proof.Machine

open Sys2Proof

/-! ## Governor, temperatures, stretching -/

/-- The ceiling the governor sets next (R433), for the power of the last 10 µs and its tile-scaled part. -/
def Clock.governed (c : Clock) (power tilePower : Nat) : Nat :=
  if c.limit < power || c.hot then max (c.ceil - 25) 350
  else if decide (power < c.limit) && decide (tilePower * 25 < (c.limit - power) * c.ceil) && !c.warm && decide (c.ceil < 700) then
    c.ceil + 25
  else c.ceil

/-- What happens only while the package is out of reset. -/
def State.awake (s : State) (f : State → State) : State := if s.inReset then s else f s

/-- `GOVERNOR_TICK` (R433): 10 µs have passed at the present ceiling. -/
def State.govern (power tilePower : Nat) (s : State) : State :=
  let f := s.clk.ceil
  let f' := s.clk.governed power tilePower
  let s := if f < 700 then s.count 0xA18 0 64 10000 else s
  let s := if f' < f then s.count 0xA10 32 32 1 else s
  { s with clk := { s.clk with
    ceil := f', minMhz := f', recent := ((power, tilePower, s.clk.minMhz) :: s.clk.recent).take 100 } }

/-- The next VTILE setpoint, in mV: of steps of 5 mV within 0.60 to 0.85 V, at most 100 mV from the present one, for the
regulator never slews faster than 10 mV/µs and 10 µs have passed (R469). Which of them the spec leaves open: a free
value (log 109). -/
def nextVtile (mv free : Nat) : Nat :=
  let lo := max 600 (mv - 100)
  let hi := min 850 (mv + 100)
  lo + 5 * (free % ((hi - lo) / 5 + 1))

/-- The package may write `VOUT_COMMAND` to the VTILE regulator at address 0x40 (R469). -/
def State.setVtile (s : State) : State :=
  let mv := nextVtile s.board.vtile (s.freeWord.toNat / 2)
  (if mv = s.board.vtile then s else ({ s with board := { s.board with vtile := mv } }).emit (.pmbus 0x40 mv)).drawn

def execGovernorTick (power tilePower : Nat) (s : State) : Reply :=
  .next (s.awake (fun s => (s.govern power tilePower).setVtile))

/-- A temperature in sixteenths of a degree. -/
def degrees (t : BitVec 16) : Int := t.toInt

/-- A die whose sensor still reads: a hearth or a porch that is lost or powered down keeps its last value (Table 15.11). -/
def State.sensed (s : State) (n : Nat) : Bool :=
  if n = 14 || n = 15 then (s.hearth (n - 14)).alive && !(s.sec.asleep && n = 14 + (1 - s.sec.active))
  else if 8 ≤ n && n < 12 then s.fab.porchUp.getLsbD (n - 8)
  else true

/-- One sensor's new value, with its highest. -/
def Clock.sample (c : Clock) (n : Nat) (t : BitVec 16) : Clock :=
  let top := SMap.get 0#16 c.tempMax n
  { c with
    temps := SMap.set 0#16 c.temps n t
    tempMax := if degrees top < degrees t then SMap.set 0#16 c.tempMax n t else c.tempMax }

/-- `TEMP_SAMPLE` (R434, R441): the sensors are read; a junction at or above 90 °C for 1 s raises its advisory. Below Ready nothing
samples. -/
def State.senses (s : State) (temps : List (BitVec 16)) : State :=
  let xs := ((List.range 20).zip temps).filter (fun x => s.sensed x.1)
  let c := xs.foldl (fun c x => c.sample x.1 x.2) s.clk
  let hottest := (c.temps.map (fun x => degrees x.2)).foldl max 0
  let since := if 1440 ≤ hottest then some (s.clk.hot90.getD s.now) else none
  let s := { s with clk := { c with hot := decide (1520 ≤ hottest), warm := decide (1488 < hottest), hot90 := since } }
  match since with
  | some t => if t.toNat + 1000000000 ≤ s.now.toNat && fieldOf (s.bar2Word 0x800) 6 1 = 0 then s.advise 6 else s
  | none => s

def execTempSample (temps : List (BitVec 16)) (s : State) : Reply :=
  .next (s.awake (fun s => if 2 ≤ s.clk.powerState then s else s.senses temps))

/-- `CLOCK_STRETCH` (R428): counted, and the tile's clock is the lower of the stretched clock and the ceiling. -/
def execClockStretch (_t : Nat) (mhz : Nat) (s : State) : Reply :=
  .next (s.awake (fun s =>
    let s := s.count 0xA20 0 48 1
    { s with clk := { s.clk with minMhz := min s.clk.minMhz (min (max mhz 600) s.clk.ceil) } }))

/-! ## Host ports that go down (R283) -/

/-- The configuration space of a port is back at its reset values: Bus Master Enable clear, every vector masked and none
pending, no stream secure. -/
def State.resetConfig (s : State) (p : Port) : State :=
  s.modPort p (fun q => { q with busMaster := false, barGib := 256, msixTable := [], msixPending := 0#64, ide := [] })

/-- A port's link goes down: its configuration space is reset and the change is an event (Table 10.16). -/
def State.portDown (s : State) (p : Port) : State :=
  let up := (s.portOf p).linkUp
  let s := (s.resetConfig p).modPort p (fun q => { q with linkUp := false })
  if up then s.mbxEvent 6 else s

/-! ## Landings (R425) -/

/-- `LANDING_RESYNC` (R425): a landing has resynchronised after a planned reset or a fault. -/
def execLandingResync (_island : Island) (planned : Bool) (s : State) : Reply :=
  .next (s.awake (fun s => if planned then s.count 0xA38 0 32 1 else s.count 0xA38 32 32 1))

/-- A hearth's die is lost, and with it its port (R305): the standby takes over from the active one, or is lost itself; with none
left the package fails (R396), with a status that the spec does not state (log 32). -/
def State.loseHearth (s : State) (h : Nat) : State :=
  let s := (s.portDown (portOfHearth h)).modPort (portOfHearth h) (fun q => { q with lost := true, posted := [] })
  if !(s.hearth h).alive then s
  else if s.sec.standbyOk then if h = s.sec.active then s.promote else s.loseStandby
  else
    let s := s.hearthDead h
    if h = s.sec.active then ((s.faultRaised 7 h).declareFailed (BitVec.ofNat 16 s.freeWord.toNat)).drawn
    else { s with sec := { s.sec with asleep := false } }

/-- `LANDING_TIMEOUT` (R425): the silent island is faulted, as its row of Table 13.5 or R396 says. -/
def State.loseIsland (island : Island) (s : State) : State :=
  match island with
  | .tile t => s.loseTile t
  | .porch p => s.losePorch p
  | .hearth h => s.loseHearth h
  | .pantry _ => (s.declareFailed (BitVec.ofNat 16 s.freeWord.toNat)).drawn
  | .spine _ => (s.declareFailed (BitVec.ofNat 16 s.freeWord.toNat)).drawn

def execLandingTimeout (island : Island) (s : State) : Reply := .next (s.awake (State.loseIsland island))

/-! ## Power states (R436 to R439) -/

/-- Some stream of a job has started. -/
def State.startedOnce (s : State) (j : Nat) : Bool := (s.job j).tiles.any (fun t => (s.tile t).started)

/-- A context that forbids a power state (Table 15.7). -/
def State.forbids (s : State) (enter j : Nat) : Bool :=
  if (s.job j).phase = 0 then false
  else
    match enter with
    | 2 => (s.job j).phase ≠ 3 && s.startedOnce j
    | 3 => !(s.job j).tiles.isEmpty || s.store.panRegs.any (fun r => panField r.2 19 1 = 1 && panField r.2 20 4 = j)
    | 4 => true
    | _ => false

/-- A collective, a mirror delta, sent or received, or a checkpoint copy is active. -/
def State.movesData (s : State) : Bool :=
  (List.range 16).any (fun j =>
    let jb := s.job j
    jb.colls.any (fun c => c.active || c.isQueued) || jb.mirror.delta.isSome || jb.cut.active
      || (jb.mirror.side == some true && !jb.mirror.log.isEmpty && jb.mirror.logDone.isNone))

/-- Why a `POWER_LIMIT` is refused (R435); active data forbids a new limit alone too (log 43). -/
def State.powerRefusal (s : State) (w enter : Nat) : Option Nat :=
  if w ≠ 0 && (w < 1800 || 3600 < w) then some 1
  else if (List.range 16).any (s.forbids enter) then some 2
  else if 3 ≤ enter && (List.range 16).any (fun j => (s.job j).binding.isSome) then some 3
  else if s.movesData then some 4
  else none

/-- Every line of the pantry caches is written back and dropped. -/
def Store.flushAll (st : Store) : Store := (st.lines.map Prod.fst).foldl (fun st b => st.cleanLine true b) st

/-- What entering a state does to memory, and in Sleep to the other hearth (Table 15.7). Tile stores and pantry are held
until the exit fills them with zeros, for nothing can read them in between. -/
def State.enterEffects (s : State) (enter : Nat) : State :=
  let s := if 3 ≤ enter then s.withStore s.store.flushAll else s
  if enter = 4 then
    let s := (s.withStore { s.store with lost := some s.fresh, settled := [] }).drawn
    let p := portOfHearth (1 - s.sec.active)
    let s := { s with sec := { s.sec with standbyOk := false, asleep := s.sec.standbyOk, missedHearth := 0 } }
    (s.modPort p (fun q => { q with spdm := {} })).portDown p
  else s

/-- The twin hears of a state below Ready before it is entered (R381). -/
def State.announce (s : State) : State :=
  if s.pair.state = 1 || s.pair.state = 2 then s.emit (.heartbeat s.heartbeat) else s

/-- A state of Table 15.6 is entered. -/
def State.enterState (s : State) (enter : Nat) : State :=
  if enter = 0 then s
  else ({ s with clk := { s.clk with powerState := enter } }.announce).enterEffects enter

/-- `POWER_LIMIT` (R435). -/
def execPowerLimit (port : Port) (slot : Nat) (s : State) : Reply :=
  .next (s.serveNow 0x0060 port slot fun h s =>
    let w := h.at_ 0 4
    match s.powerRefusal w (h.at_ 4 1) with
    | some cause => s.fail h stNotPermitted cause
    | none =>
      let s := if w = 0 then s else { s with clk := { s.clk with limit := w } }
      (s.enterState (h.at_ 4 1)).done h)

/-- A tile that has no work (R437). -/
def State.quietTile (s : State) (t : Nat) : Bool :=
  let x := s.tile t
  x.enginesIdle && (x.mode ≠ .running || (x.wait == .arrived && (s.job x.jobOf).phase = 3))

/-- `ENTER_READY` (R437): for 100 µs no tile has had work. -/
def execEnterReady (s : State) : Reply :=
  .next (if !s.inReset && s.clk.powerState = 0 && (s.tiles.map Prod.fst).all s.quietTile then
      { s with clk := { s.clk with powerState := 1 } }
    else s)

/-- Whether a cause wakes the package from its state (Table 15.8). -/
def State.wakes (s : State) : WakeCause → Bool
  | .work => s.clk.powerState = 1 && (s.tiles.map Prod.fst).any (fun t => !s.quietTile t)
  | .sealWrite p =>
    s.sealed.any (fun x => x.2.1 = p) &&
      (s.clk.powerState = 2 || s.clk.powerState = 3 || (s.clk.powerState = 4 && hearthOf p = s.sec.active))
  | .signal => s.clk.powerState = 2

/-- Tile stores and pantry as zeros with valid checks, after Nap or Sleep. -/
def Store.refillStores (st : Store) : Store := (st.zeroFill 0xC000000000 0x40000000).zeroFill 0x8000000000 0xA0000000

/-- `WAKE` (R439): back to Run. -/
def execWake (cause : WakeCause) (s : State) : Reply :=
  .next (if !s.wakes cause then s
    else
      let s := if 3 ≤ s.clk.powerState then s.withStore s.store.refillStores else s
      { s with clk := { s.clk with powerState := 0 } }.announce)

/-- `STANDBY_BOOT` (R438): the other hearth runs again as standby. -/
def execStandbyBoot (s : State) : Reply :=
  .next (if s.sec.asleep && s.clk.powerState ≠ 4 then
      let h := 1 - s.sec.active
      let s := (s.setHearth h { (s.hearth h) with bootState := 3 }).copyJournal h
      { s with sec := { s.sec with asleep := false, standbyOk := true, missedHearth := 0 } }
    else s)

/-! ## Housekeeping (R440, R441) and saturation (R270) -/

/-- `HOUSEKEEPING_SLICE` (R440): the journal is compacted and the status pages are updated. -/
def execHousekeepingSlice (s : State) : Reply :=
  .next (if s.inReset || s.clk.powerState = 4 then s else s.compactJournal.publish)

/-- The event of R270 (Table 9.9). -/
def State.satEvent (s : State) (level ns above below : Nat) : State :=
  let w := setField (setField (s.bar2Word 0x130) 0 8 level) 8 8 (ns / 10000)
  let w := setField w 16 8 (if level = 0 then 0xFF else above)
  let w := setField w 24 8 (if level = 5 then 0xFF else below)
  let s := (s.setBar2 0x130 (addField w 32 32 1)).setBar2 0x138 s.now
  { s with clk := { s.clk with satTimes := SMap.set 0 s.clk.satTimes level (s.now.toNat + 1) } }.mbxEvent 3

/-- `SAT_LEVEL` (R269, R270): a 1 ms window ends. -/
def State.window (level ns above below : Nat) (s : State) : State :=
  let last := SMap.get 0 s.clk.satTimes level
  let due := last = 0 || decide (last + 100000000 ≤ s.now.toNat + 1)
  let s := s.count (0x100 + 8 * level) 0 64 ns
  if due && decide (250000 ≤ ns) && (level = 0 || decide (above ≤ 25)) && (level = 5 || decide (below ≤ 25)) then
    s.satEvent level ns above below
  else s

def execSatLevel (level ns above below : Nat) (s : State) : Reply := .next (s.awake (State.window level ns above below))

end Sys2Proof.Machine
end

