-- ==== Sys2Proof/Machine/Window.lean ====
section
/-! DEFINITION. Window.lean: the commands of the cellar window BAR4 (R246, R262, R266, R285). -/

namespace Sys2Proof.Machine

open Sys2Proof

/-- `BAR4_READ` (R266), in the order of its port (R286). -/
def execBar4Read (port : Port) (addr len : Nat) (stream : Option Nat) (s : State) : Reply :=
  .next (s.hostOrder port (.read addr len stream))

/-- `BAR4_WRITE` (R262, R266), in the order of its port (R286). -/
def execBar4Write (port : Port) (addr : Nat) (data : List Byte) (stream : Option Nat) (s : State) : Reply :=
  .next (s.hostOrder port (.write addr data stream))

end Sys2Proof.Machine
end

