-- ==== Sys2Proof/Machine/Security.lean ====
section
/-! DEFINITION. Security.lean: firmware images and flash (R447 to R449), sessions (R453 to R455), `KEY_OP` (R457),
`FW_UPDATE` (R458), the lifecycle with its tokens (R459 to R461) and `DEBUG_UNLOCK` (R462). -/

namespace Sys2Proof.Machine

open Sys2Proof

/-! ## The attics (R444) and MR2 (R451) -/

/-- An attic that lags completed by the other: the advanced value of each item. -/
def Attic.advance (a b : Attic) : Attic :=
  { a with
    fwRevoked := a.fwRevoked ||| b.fwRevoked
    ownHash := (List.range 4).map (fun k =>
      if a.ownProg.getLsbD k then a.ownHash.getD k [] else b.ownHash.getD k [])
    ownProg := a.ownProg ||| b.ownProg
    ownRevoked := a.ownRevoked ||| b.ownRevoked
    svn := max a.svn b.svn
    lifecycle := max a.lifecycle b.lifecycle
    ideLock := a.ideLock || b.ideLock }

/-- The boot ROM reconciles the two attics. -/
def State.reconcile (s : State) : State :=
  let a := s.sec.h0.attic
  let b := s.sec.h1.attic
  { s with sec := { s.sec with h0 := { s.sec.h0 with attic := a.advance b }, h1 := { s.sec.h1 with attic := b.advance a } } }

/-- The record that MR2 takes: `SEC_STATUS` [31:0] and [42] in 16 bytes (log 45). The boot ROM forms it before any image is
read, when `IMAGE_SVN` is 0. -/
def State.fuseRecord (s : State) : List Byte :=
  leBytes 8 ((s.secStatus (portOfHearth s.sec.active)).toNat &&& 0x400FFFFFFFF) ++ zeros 8

/-- MR2 after a fuse write. -/
def State.measureFuses (s : State) : State := s.extendMr 2 (sha384 s.fuseRecord)

/-- A fuse write: both attics in one operation, and MR2. Until the timebase goes on the write counts as in progress: a loss of
VAUX may still cut it on one attic (R471, log 50). -/
def State.blow (s : State) (f : Attic → Attic) : State :=
  State.measureFuses { s with sec := { s.sec with
    fuse := some (s.sec.h0.attic, s.sec.h1.attic)
    h0 := { s.sec.h0 with attic := f s.sec.h0.attic }, h1 := { s.sec.h1 with attic := f s.sec.h1.attic } } }

/-! ## Images (R447, R448) -/

/-- Fields of an image header (Table 16.3). -/
def imgSvn (b : List Byte) : Nat := fieldAt b 0x0C 4
def imgBody (b : List Byte) : Nat := fieldAt b 0x10 4
def imgSlot (b : List Byte) : Nat := fieldAt b 0x14 4
def imgDigest (b : List Byte) : List Byte := slice b 0x20 48
def imgMagic (b : List Byte) : Bool := slice b 0 8 == ascii "KNSKEKA1"

/-- The first test of R448 that an image fails, 0 for none; `total` is its length where something else states it. -/
def imageFail (a : Attic) (b : List Byte) (total : Option Nat) : Nat :=
  if !(imgMagic b) || fieldAt b 8 4 ≠ 1 || slice b 0x18 8 ≠ zeros 8 || slice b 0x110 240 ≠ zeros 240
      || 0x1000000 < imgBody b + 512 || total.any (· ≠ imgBody b + 512) then 1
  else if 4 ≤ imgSlot b || a.fwHash.getD (imgSlot b) [] ≠ sha384 (slice b 0x50 96) || a.fwRevoked.getLsbD (imgSlot b) then 2
  else
    let sig := halves96 (slice b 0xB0 96)
    if !(ecdsaVerify (halves96 (slice b 0x50 96)) (slice b 0 0xB0) sig.1 sig.2) then 3
    else if sha384 (slice b 512 (imgBody b)) ≠ imgDigest b then 4
    else if imgSvn b < a.svn then 5
    else 0

/-! ## Flash (R449) -/

/-- The active copy is copy B; with no valid page it is copy A (log 46). -/
def Flash.activeB (f : Flash) : Bool := f.ruling.valid && f.ruling.copyB
def Flash.copy (f : Flash) (b : Bool) : List Byte := if b then f.copyB else f.copyA

/-- An image in the inactive copy, and the other marker page naming it with the next generation (R458). -/
def Flash.update (f : Flash) (img : List Byte) : Flash :=
  let b := !f.activeB
  let m : Marker := { bytes := markerBytes b (if f.ruling.valid then (f.ruling.generation + 1) % 2 ^ 64 else 1) }
  let f := if b then { f with copyB := img } else { f with copyA := img }
  if f.rulesSecond then { f with marker0 := m } else if f.marker0.valid then { f with marker1 := m } else { f with marker0 := m }

/-! ## Sessions (R453 to R455) -/

/-- Owner slots programmed and not revoked. -/
def Attic.owners (a : Attic) : List Nat := (List.range 4).filter (fun k => a.ownProg.getLsbD k && !(a.ownRevoked.getLsbD k))

/-- A session must be signed. -/
def Attic.mustSign (a : Attic) : Bool := (a.lifecycle = 1 || a.lifecycle = 2) && !a.owners.isEmpty

/-- `HOST_SIG` verifies under the owner key of a slot. The hamper does not carry that key: some key whose hash the slot holds
verifies it (log 47). -/
def Attic.ownerSigned (a : Attic) (slot : Nat) (msg : List Byte) (sig : Nat × Nat) : Bool :=
  (ecdsaKeys msg sig.1 sig.2).any (fun k => sha384 (bytes96 k) == a.ownHash.getD slot [])

/-- `SESSION_OPEN` is refused (R454). -/
def State.sessionRefused (s : State) (h : Hamper) : Bool :=
  let a := s.attic
  let slot := h.at_ 0x60 1
  let pub := halves96 (slice h.body 0 96)
  let msg := [portByte h.port] ++ h.chal ++ slice h.body 0 96
  !(onCurve pub.1 pub.2) ||
    (if a.mustSign then !(a.owners.contains slot) || !(a.ownerSigned slot msg (halves96 (slice h.body 0x68 96)))
     else slot ≠ 0xFF)

/-- A private key, or a nonce, drawn by the hearth: a free value (log 1). -/
def State.drawKey (s : State) : Nat := keyOfBits ((List.range 56).map (Config.freeByte s.fresh))

/-- The identity key (R445). -/
def State.identity (s : State) : Nat := identityKey s.attic.secret (s.attic.lifecycle = 3)

/-- A signature by the identity key: r then s. -/
def State.signed (s : State) (msg : List Byte) : List Byte := bytes96 (ecdsaSign s.identity s.drawKey msg)

/-- The session that opens (R454). -/
def State.openSession (s : State) (h : Hamper) : State :=
  let d := s.drawKey
  let s := s.drawn
  let hostPub := slice h.body 0 96
  let devPub := bytes96 (p384Public d)
  let z := p384Ecdh d (halves96 hostPub)
  let info := ascii "KN8-MBX" ++ [portByte h.port] ++ sha384 (hostPub ++ devPub)
  let k := hkdfExpand48 (hkdfExtract h.chal z) info
  let sig := s.signed ([portByte h.port] ++ h.chal ++ hostPub ++ devPub)
  let s := s.drawn
  let s := (s.modPort h.port (fun q => { q with session := some ⟨k, 0, h.at_ 0x60 1⟩ })).recordSession h.port
  (s.writeReply h.port h.slot (zeros 8 ++ devPub ++ sig ++ zeros 1768)).done h

/-- `SESSION_OPEN` (R454). -/
def execSessionOpen (port : Port) (slot : Nat) (s : State) : Reply :=
  .next (s.serveNow 0x0008 port slot fun h s => if s.sessionRefused h then s.fail h stAuthTag 0 else s.openSession h)

/-! ## `KEY_OP` (R457 Table 16.7) -/

/-- `VALUE` and `INDEX`. -/
def Hamper.keyValue (h : Hamper) : List Byte := slice h.body 8 48
def Hamper.keyIndex (h : Hamper) : Nat := h.at_ 1 1

/-- A bit of a four-bit fuse field. -/
def fuseBit (k : Nat) : BitVec 4 := BitVec.ofNat 4 (2 ^ k)

/-- `OWNER_PROGRAM`. -/
def State.ownerProgram (s : State) (h : Hamper) : State :=
  let a := s.attic
  let k := h.keyIndex
  if 4 ≤ k then s.fail h stNotPermitted 0
  else if a.ownProg.getLsbD k && a.ownHash.getD k [] == h.keyValue then s.done h
  else if a.lifecycle ≠ 1 then s.fail h stNotPermitted 1
  else if a.ownProg.getLsbD k then s.fail h stNotPermitted 2
  else (s.blow (fun a => { a with ownHash := a.ownHash.set k h.keyValue, ownProg := a.ownProg ||| fuseBit k })).done h

def execOwnerProgram (port : Port) (slot : Nat) (s : State) : Reply :=
  .next (s.serveNow 0x7100 port slot fun h s => s.ownerProgram h)

/-- A firmware slot signs the image that a hearth runs, or one of its flash copies. -/
def Hearth.signedBy (x : Hearth) (k : Nat) : Bool :=
  [x.imageHeader, x.flash.copyA, x.flash.copyB].any (fun b => imgMagic b && imgSlot b = k)

/-- `FW_REVOKE`. -/
def State.fwRevoke (s : State) (h : Hamper) : State :=
  let a := s.attic
  let k := h.keyIndex
  if 4 ≤ k then s.fail h stNotPermitted 0
  else if a.fwRevoked.getLsbD k then s.done h
  else if (a.fwRevoked ||| fuseBit k) = 15#4 then s.fail h stNotPermitted 3
  else if s.sec.h0.signedBy k || s.sec.h1.signedBy k then s.fail h stNotPermitted 4
  else (s.blow (fun a => { a with fwRevoked := a.fwRevoked ||| fuseBit k })).done h

def execFwRevoke (port : Port) (slot : Nat) (s : State) : Reply :=
  .next (s.serveNow 0x7101 port slot fun h s => s.fwRevoke h)

/-- The sessions opened under an owner slot end, or all of them. -/
def State.endSessions (s : State) (which : Session → Bool) : State :=
  [Port.a, .b].foldl (fun s p =>
    (s.modPort p (fun q => { q with session := q.session.filter (fun k => !(which k)) })).recordSession p) s

/-- `OWNER_REVOKE`: the sessions under the slot end after the record. -/
def State.ownerRevoke (s : State) (h : Hamper) : State :=
  let a := s.attic
  let k := h.keyIndex
  if 4 ≤ k then s.fail h stNotPermitted 0
  else if a.ownRevoked.getLsbD k then s.done h
  else if a.owners = [k] then s.fail h stNotPermitted 3
  else
    ((s.blow (fun a => { a with ownRevoked := a.ownRevoked ||| fuseBit k })).done h).endSessions (fun x => x.ownerSlot = k)

def execOwnerRevoke (port : Port) (slot : Nat) (s : State) : Reply :=
  .next (s.serveNow 0x7102 port slot fun h s => s.ownerRevoke h)

/-- `SVN_ADVANCE`. -/
def State.svnAdvance (s : State) (h : Hamper) : State :=
  let v := (h.at_ 8 1) % 128
  if v ≤ s.attic.svn then s.done h
  else if (s.hearth s.sec.active).imageSvn < v then s.fail h stNotPermitted 5
  else (s.blow (fun a => { a with svn := v })).done h

def execSvnAdvance (port : Port) (slot : Nat) (s : State) : Reply :=
  .next (s.serveNow 0x7103 port slot fun h s => s.svnAdvance h)

/-- `FMK_SET`: refused under a debug unlock (log 48). -/
def State.fmkSet (s : State) (h : Hamper) : State :=
  if s.sec.debug then s.fail h stNotPermitted 6
  else { s with sec := { s.sec with fmk := some h.keyValue } }.done h

def execFmkSet (port : Port) (slot : Nat) (s : State) : Reply :=
  .next (s.serveNow 0x7104 port slot fun h s => s.fmkSet h)

/-- `IDE_LOCK`. -/
def State.ideLock (s : State) (h : Hamper) : State :=
  if s.attic.ideLock then s.done h
  else if s.attic.lifecycle = 0 then s.fail h stNotPermitted 1
  else (s.blow (fun a => { a with ideLock := true })).done h

def execIdeLock (port : Port) (slot : Nat) (s : State) : Reply :=
  .next (s.serveNow 0x7105 port slot fun h s => s.ideLock h)

/-! ## `FW_UPDATE` (R458) -/

/-- The status of an image that fails a test. -/
def imageStatus (code : Nat) : Status :=
  if code = 2 || code = 3 then stAuthTag else if code = 5 then stNotPermitted else stRefused

/-- An image is staged in both flashes. -/
def State.stageImage (s : State) (h : Hamper) (img : List Byte) : State :=
  let s := s.extendMr 5 (imgDigest img)
  let s := s.setHearth 0 { s.sec.h0 with flash := s.sec.h0.flash.update img }
  (s.setHearth 1 { s.sec.h1 with flash := s.sec.h1.flash.update img }).done h

/-- The first failed test of an image is shown by the active hearth, whose Skeka makes the tests (R448, log 131). -/
def State.showFail (s : State) (code : Nat) : State :=
  s.setHearth s.sec.active { s.hearth s.sec.active with bootFail := code }

/-- `FW_UPDATE`: an image that cannot be read from the mappable cellar is refused like one that fails test 1. -/
def State.fwUpdate (s : State) (h : Hamper) : State :=
  let addr := h.at_ 0 8
  let n := h.at_ 8 8
  if 0x1000000 < n || windowEnd < addr + n then s.fail h stRefused 0
  else
    match s.readPhys addr n with
    | (some _, _, s) => s.fail h stRefused 0
    | (none, img, s) =>
      match imageFail s.attic img (some n) with
      | 0 => s.stageImage h img
      | c => (s.showFail c).fail h (imageStatus c) 0

def execFwUpdate (port : Port) (slot : Nat) (s : State) : Reply :=
  .next (s.serveNow 0x0070 port slot fun h s => s.fwUpdate h)

/-! ## Tokens (R461) -/

/-- The slot a token names is one that its purpose permits: an owner slot, or a firmware slot where that is allowed. -/
def Attic.signer (a : Attic) (n : Nat) (owner firmware : Bool) : Option (List Byte) :=
  if n < 4 then if firmware && !(a.fwRevoked.getLsbD n) then some (a.fwHash.getD n []) else none
  else if n < 8 then if owner && a.owners.contains (n - 4) then some (a.ownHash.getD (n - 4) []) else none
  else none

/-- A token is valid for a purpose (Table 16.9). `ARG` names the target that it permits (log 49). -/
def State.tokenOk (s : State) (tok : List Byte) (kind : Nat) (arg : Option Nat) (chal : List Byte) (owner firmware : Bool) : Bool :=
  let pub := slice tok 0xC0 96
  let sig := halves96 (slice tok 0x60 96)
  fieldAt tok 0 4 = kind && arg.all (fun x => fieldAt tok 4 4 = x) && slice tok 8 48 == sha384 s.identityPub
    && slice tok 0x38 32 == chal
    && (match s.attic.signer (fieldAt tok 0x58 1) owner firmware with
        | some hash => hash == sha384 pub
        | none => false)
    && ecdsaVerify (halves96 pub) (slice tok 0 0x60 ++ slice tok 0xC0 96) sig.1 sig.2

/-! ## `LIFECYCLE` (R459, R460) -/

/-- What a transition of Table 16.8 asks for: no token, or one by an owner or a firmware slot. -/
inductive Passage where
  | refused
  | free
  | token (owner firmware : Bool)
  deriving DecidableEq, Repr

/-- The transitions of Table 16.8. -/
def State.passage (s : State) (p : Port) (target : Nat) : Passage :=
  let a := s.attic
  let signed := (s.portOf p).session.any (fun k => k.ownerSlot ≠ 0xFF)
  match a.lifecycle, target with
  | 0, 1 => .token false true
  | 1, 2 => if a.ownProg ≠ 0#4 && signed then .free else .refused
  | 1, 3 => .token true (a.ownProg = 0#4)
  | 2, 3 => .token true (a.ownProg = 0#4)
  | _, _ => .refused

/-- Every block in service as zeros with valid checks. -/
def Store.zeroAll (st : Store) : Store :=
  { st with mem := [], stale := [], poison := st.poison.filter (fun e => st.stuck e.1), lines := [], cacheMem := [], lost := none, settled := [] }

/-- The lifecycle moves: into RMA memory is zero-filled and the fabric management key erased first, and every session ends
after the record. -/
def State.moveLifecycle (s : State) (h : Hamper) (target : Nat) : State :=
  if target = 3 then
    let s := s.withStore s.store.zeroAll
    let s := { s with sec := { s.sec with fmk := none } }
    ((s.blow (fun a => { a with lifecycle := target })).done h).endSessions (fun _ => true)
  else (s.blow (fun a => { a with lifecycle := target })).done h

def State.lifecycle (s : State) (h : Hamper) : State :=
  let target := h.at_ 0 1
  if !s.liveJobs.isEmpty then s.fail h stNotPermitted 0
  else
    match s.passage h.port target with
    | .refused => s.fail h stNotPermitted 0
    | .free => s.moveLifecycle h target
    | .token owner firmware =>
      if s.tokenOk (slice h.body 8 288) 1 (some target) h.chal owner firmware then s.moveLifecycle h target
      else s.fail h stAuthTag 0

/-- `LIFECYCLE` (R460). -/
def execLifecycle (port : Port) (slot : Nat) (s : State) : Reply :=
  .next (s.serveNow 0x0072 port slot fun h s => s.lifecycle h)

/-! ## `DEBUG_UNLOCK` (R462) -/

/-- The token of an unlock is valid; in MANUFACTURE none is needed (Table 16.8). -/
def State.unlockOk (s : State) (h : Hamper) : Bool :=
  let tok := slice h.body 0 288
  match s.attic.lifecycle with
  | 0 => true
  | 1 => s.tokenOk tok 2 none h.chal true (s.attic.ownProg = 0#4)
  | 2 => s.tokenOk tok 2 none h.chal true false
  | _ => s.tokenOk tok 2 none h.chal false true

/-- `DEBUG_UNLOCK` (R462). -/
def State.debugUnlock (s : State) (h : Hamper) : State :=
  if !s.liveJobs.isEmpty then s.fail h stNotPermitted 0
  else if !(s.unlockOk h) then s.fail h stAuthTag 0
  else
    let s := s.extendMr 3 (sha384 (slice h.body 0 288))
    { s with sec := { s.sec with fmk := none, debug := true, scope := s.sec.scope ||| BitVec.ofNat 3 (h.at_ 4 1) } }.done h

def execDebugUnlock (port : Port) (slot : Nat) (s : State) : Reply :=
  .next (s.serveNow 0x0073 port slot fun h s => s.debugUnlock h)

end Sys2Proof.Machine
end

