-- ==== Sys2Proof/Machine/Boot.lean ====
section
/-! DEFINITION. Boot.lean: device reset and power (R471 to R477), the boot of the hearths (R446 to R450), the resets and
links of the host ports (R283, R308), and board management (R479). -/

namespace Sys2Proof.Machine

open Sys2Proof

/-! ## Device reset (R473) -/

/-- Offsets that board management serves in Sleep, in Off and during device reset (R479). -/
def alwaysServed (off : Nat) : Bool := off = 0 || (decide (0xB00 ≤ off) && decide (off < 0xBA0)) || off = 0xC00

/-- The pages as they last stood, of the registers that stay served. -/
def State.lastPages (s : State) : SMap (BitVec 64) := s.published.filter (fun e => alwaysServed (e.1 % 0x100000))

/-- What a hearth keeps through a device reset: its attic and its flash. -/
def Hearth.kept (x : Hearth) : Hearth := { attic := x.attic, flash := x.flash }

/-- Every state of the package is cleared but the attics, the flashes and a fuse write in progress; the lands are inputs. The
challenges are new (R455), what has left the block has left it, VTILE stands at 0.70 V until the package writes again (R469,
log 109), and the hearths hold their flashes in reset (R480). -/
def State.cleared (s : State) : State :=
  { State.reset with
    pending := s.pending
    fresh := s.fresh + 2
    out := s.out
    board := { s.board with bmcOffset := 0#16, bmcAddr := 0x3A#7, vtile := 700, flashRstN := false }
    sec := { State.reset.sec with h0 := s.sec.h0.kept, h1 := s.sec.h1.kept, fuse := s.sec.fuse }
    portA := { chal := freshChal s.fresh }
    portB := { chal := freshChal (s.fresh + 1) }
    published := s.lastPages }

/-- `SYS_RST_N_LOW` (R473): a low of at least 1 µs is a device reset; a shorter one is ignored. -/
def execSysRstNLow (ns : Nat) (s : State) : Reply :=
  .next (if s.inReset || ns < 1000 then s else { s.cleared with board := { s.cleared.board with sysRstN := false } })

/-- `DEVICE_RESET` (R473): the later of the rising edges of `PWROK` and `SYS_RST_N`, with every rail up again (R472). After a
thermal trip the rails have to be removed first (R477). -/
def execDeviceReset (s : State) : Reply :=
  .next (if s.board.thermtrip then s
    else { s.cleared with
      board := { s.cleared.board with pwrok := true, sysRstN := true, vaux := true, rails := true, flashRstN := true }
      published := [] })

/-- Skeka runs. -/
def State.skekaRuns (s : State) : Bool := s.sec.ready || s.sec.h0.bootState = 2 || s.sec.h1.bootState = 2

/-- Whether the gallery has lost its power with a rail of Table 17.2, 8 standing for `PWROK`: it is fed by VLOGIC and VPHY, and
where `PWROK` falls the spec does not say which rail is gone (a free choice, log 131). -/
def State.galleryDead (s : State) (rail : Nat) : Bool := rail = 2 || rail = 3 || (rail = 8 && s.choice 1)

/-- An unrecoverable supply fault (R475): the failure is declared where Skeka runs, with the notice where the gallery still has
power, and device reset follows. -/
def State.supplyLost (s : State) (rail : Nat) : State :=
  let s := if s.galleryDead rail then { s with pair := { s.pair with galleryUp := 0#32 } } else s
  let s := if s.skekaRuns then (s.declareFailed (BitVec.ofNat 16 s.freeWord.toNat)).drawn else s
  { s.cleared with board := { s.cleared.board with pwrok := false } }

/-- `SUPPLY_FAULT` (R475): in device reset `PWROK` alone falls (R474). -/
def execSupplyFault (rail : Nat) (s : State) : Reply :=
  .next (if s.inReset then { s with board := { s.board with pwrok := false } } else s.supplyLost rail)

/-- A fuse write that a loss of VAUX cuts (R444, R471): the attic of one hearth may keep what it held, a free choice (log 50);
the next boot reconciles the two. -/
def State.cutFuse (s : State) : State :=
  match s.sec.fuse with
  | none => s
  | some (a, b) =>
    let sec := { s.sec with fuse := none }
    let sec := if !s.choice 0 then sec
      else if s.choice 1 then { sec with h0 := { sec.h0 with attic := a } } else { sec with h1 := { sec.h1 with attic := b } }
    { s with sec := sec }.drawn.drawn

/-- `VAUX_LOSS` (R471): the attic controller, the timebase, the thermal trip and board management lose power, and a fuse write
may be cut; out of device reset it is a supply fault too. -/
def execVauxLoss (s : State) : Reply :=
  let s := s.cutFuse
  let s := if s.inReset then s.cleared else s.supplyLost 7
  .next { s with board := { s.board with vaux := false, thermtrip := false }, published := [] }

/-- `THERMTRIP` (R434, R477): `THERMTRIP_N` is driven low, and the package does no work until it has powered up again. -/
def execThermtrip (s : State) : Reply :=
  .next (if !s.board.vaux || s.board.thermtrip then s
    else { s.cleared with board := { s.cleared.board with thermtrip := true } }.emit (.pin "THERMTRIP_N" false))

/-! ## Boot (R446 to R450) -/

/-- An image that a hearth accepts: Skeka runs on its steward cores. -/
def Hearth.accept (x : Hearth) (img : List Byte) (src : Nat) : Hearth :=
  { x with bootState := 2, bootSrc := src, imageSvn := imgSvn img, imageHeader := slice img 0 512 }

/-- The boot ROM has read a copy: the active one first, then the other; with both rejected it waits for recovery. -/
def Hearth.tryCopy (x : Hearth) (readError : Bool) : Hearth :=
  let b := if x.tried = 0 then x.flash.activeB else !x.flash.activeB
  let img := x.flash.copy b
  let code := if readError then 6 else imageFail x.attic img none
  if code = 0 then x.accept img (bit b)
  else { x with bootFail := code, tried := x.tried + 1, bootState := if x.tried = 0 then 0 else 1 }

/-- What the boot ROM has done before it reads an image (Table 16.2): the attics are reconciled, MR0 and MR2 extended. -/
def State.bootRom (s : State) : State :=
  let s := s.reconcile
  if s.sec.measured then s
  else
    let s := { s with sec := { s.sec with measured := true } }
    (s.extendMr 0 ((List.range 48).map Config.romDigest)).measureFuses

/-- `BOOT_IMAGE_ACCEPT` (R446, R448, R449): of a hearth that is still in its boot ROM. -/
def execBootImageAccept (hearth : Nat) (readError : Bool) (s : State) : Reply :=
  .next (if s.inReset || (s.hearth hearth).bootState ≠ 0 then s
    else
      let s := s.bootRom
      s.setHearth hearth ((s.hearth hearth).tryCopy readError))

/-- `RECOVERY_SEAL` (R449): the image in the boot buffer is tested; one that fails leaves the hearth waiting. -/
def execRecoverySeal (hearth : Nat) (word : SealWord) (s : State) : Reply :=
  let (word, stream) := (word.word, word.stream)
  let x := s.hearth hearth
  let n := word.toNat % 2 ^ 32
  .next (if !(s.tlpPasses (portOfHearth hearth) stream) || x.bootState ≠ 1 || word.toNat / 2 ^ 32 ≠ 0x5EA1B007 then s
    else
      let img := SMap.getList 0#8 x.buffer 0 (min n (bufferEnd + 1))
      match imageFail x.attic img (some n) with
      | 0 => s.setHearth hearth { x.accept img 2 with buffer := [] }
      | code => s.setHearth hearth { x with bootFail := code })

/-- A hearth that runs Skeka and has no role yet, or that is in service. -/
def Hearth.running (x : Hearth) : Bool := x.alive && (x.bootState = 2 || x.bootState = 3)

/-- MR1 of the two hearths is the same: they run the same image header (R451). -/
def State.sameImage (s : State) : Bool := sha384 s.sec.h0.imageHeader == sha384 s.sec.h1.imageHeader

/-- The hearth that is held out of service where the images differ (R450). -/
def State.outOfService (s : State) : Nat := if s.sec.h0.imageSvn < s.sec.h1.imageSvn then 0 else 1

/-- MR1 of the active hearth takes its image (Table 16.4). -/
def State.measureBoot (s : State) : State := s.extendMr 1 (sha384 (s.hearth s.sec.active).imageHeader)

/-- The roles as settled: the active hearth, and whether the other is its standby. -/
def State.takeRoles (s : State) (active : Nat) (standby : Bool) : State :=
  State.measureBoot { s with sec := { s.sec with active := active, standbyOk := standby, settled := true } }

/-- `HEARTH_ROLE_SELECT` (R450): H0 is active unless it does not run; a hearth that runs another image than the active one
and is its inferior is held out of service. After that a hearth that comes later becomes the standby, or is held out of service
where its image differs: the package that already runs goes on (DESIGN CHOICE, log 131). -/
def execHearthRoleSelect (s : State) : Reply :=
  let r0 := s.sec.h0.running
  let r1 := s.sec.h1.running
  .next (if s.inReset then s
    else if s.sec.settled then
      let h := 1 - s.sec.active
      if s.sec.standbyOk || s.sec.asleep || !(s.hearth h).running then s
      else if s.sameImage then
        let s := (s.setHearth h { (s.hearth h) with bootState := (s.hearth s.sec.active).bootState }).copyJournal h
        { s with sec := { s.sec with standbyOk := true } }
      else s.setHearth h { (s.hearth h) with alive := false }
    else if r0 && r1 then
      if s.sameImage then s.takeRoles 0 true
      else
        let h := s.outOfService
        (s.setHearth h { (s.hearth h) with alive := false }).takeRoles (1 - h) false
    else if r0 then s.takeRoles 0 false
    else if r1 then s.takeRoles 1 false
    else s)

/-- The spares of each die: of its four, those that no repair has used (R3, R25). -/
def spareMap (xs : List Nat) : SMap Nat := SMap.setList 0 [] 0 (xs.map (min sparesPerDie))

/-- The spare sites of each die. Which sites serve the tiles is Skeka's choice and shows nowhere (R21): the model takes site
n for position n and the spares after them (DESIGN CHOICE, log 108). -/
def State.spareSitesAt (s : State) (xs : List Nat) : SMap (List Nat) :=
  SMap.setList [] [] 0 (xs.map (fun n => (List.range (min sparesPerDie n)).map (s.tilesPerDie + ·)))

/-- The hearths in service have BOOT_STATE 3. -/
def Hearth.ready (x : Hearth) : Hearth := if x.running then { x with bootState := 3 } else x

/-- `BOOT_READY` (R446, R473): memory holds zeros with valid checks, the tiles that passed are mapped, the porches and their
lanes are up, the gallery's where a twin is fitted (log 51), hampers are taken from now on, and Skeka publishes the status
pages. -/
def State.bootReady (s : State) (avail spares : List Nat) : State :=
  let tiles : SMap Tile := (avail.filter (fun t => decide (t < s.activeTiles))).foldl
    (fun m t => SMap.set {} m t { avail := true }) []
  State.publish { s with
    sec := { s.sec with ready := true, h0 := s.sec.h0.ready, h1 := s.sec.h1.ready }
    tiles := tiles
    store := {}
    clk := { s.clk with spares := spareMap spares, sites := [], spareSites := s.spareSitesAt spares }
    fab := { s.fab with lanesUp := BitVec.allOnes 128 }
    pair := { s.pair with galleryUp := if s.board.pairSense then BitVec.allOnes 32 else 0#32 } }

def execBootReady (avail spares : List Nat) (s : State) : Reply :=
  .next (if s.inReset || !s.sec.settled || s.sec.ready then s else s.bootReady avail spares)

/-! ## Host ports (R283, R308) -/

/-- The level of a port's `PERST` land. -/
def Board.setPerst (b : Board) (p : Port) (level : Bool) : Board :=
  match p with
  | .a => { b with perstA := level }
  | .b => { b with perstB := level }

/-- `PORT_RESET` (R283): one port's configuration space, and its link; slots, items and session go on. -/
def execPortReset (port : Port) (cause : PortResetCause) (s : State) : Reply :=
  let s := if cause = .perst then { s with board := s.board.setPerst port false } else s
  .next (s.portDown port)

/-- `FUNCTION_LEVEL_RESET` (R283, R452): the configuration space as well as the host session and the SPDM session. -/
def execFunctionLevelReset (port : Port) (s : State) : Reply :=
  .next (((s.resetConfig port).modPort port (fun q => { q with session := none, spdm := {} })).recordSession port)

/-- `PORT_LINK_UP` (R308): of a hearth that has power. -/
def execPortLinkUp (port : Port) (s : State) : Reply :=
  let h := hearthOf port
  .next (if s.inReset || (s.portOf port).linkUp || (s.portOf port).lost || !(s.hearth h).alive || (s.sec.asleep && h ≠ s.sec.active) then s
    else
      let s := { s with board := s.board.setPerst port true }
      (s.modPort port (fun q => { q with linkUp := true })).mbxEvent 6)

/-- `PAIR_SENSE_CHANGE` (R476). -/
def execPairSenseChange (level : Bool) (s : State) : Reply := .next { s with board := { s.board with pairSense := level } }

/-- `IDE_INTEGRITY_FAIL` (R463): the TLP is discarded, its stream is secure no more, and AER logs it. PCIe defines no status
of this device for it; the log entry is marked by the failing stream (log 52). -/
def execIdeIntegrityFail (port : Port) (stream : Nat) (s : State) : Reply :=
  let x := SMap.get {} (s.portOf port).ide stream
  .next ((s.modPort port (fun q => { q with ide := SMap.set {} q.ide stream { x with secure := false } })).logAer port stream stAuthTag)

/-! ## Board management (R479) -/

/-- Only a few registers are served. -/
def State.fewServed (s : State) : Bool := s.inReset || s.clk.powerState = 4

/-- A byte of the status pages as board management serves it. -/
def State.pageByte (s : State) (off : Nat) : Byte :=
  let word := off / 8 * 8
  if 0x1000 ≤ off || (s.fewServed && !(alwaysServed word)) then 0#8
  else BitVec.ofNat 8 ((s.pageHalf .a off).toNat / 2 ^ (8 * (off % 4)))

/-- `BMC_OFFSET_WRITE` (R479): the following read returns the bytes from the offset on. -/
def execBmcOffsetWrite (off : BitVec 16) (s : State) : Reply :=
  .next (if !s.board.vaux then s
    else
      let s := { s with board := { s.board with bmcOffset := off } }
      s.emit (.bmc ((List.range (0x1000 - off.toNat)).map (fun i => s.pageByte (off.toNat + i)))))

/-- `BMC_ADDRESS_ASSIGN` (R479): a dynamic address takes the place of the static one. -/
def execBmcAddressAssign (addr : BitVec 7) (s : State) : Reply :=
  .next (if !s.board.vaux then s else { s with board := { s.board with bmcAddr := addr } })

end Sys2Proof.Machine
end

