-- ==== Sys2Proof/Machine/Spdm.lean ====
section
/-! DEFINITION. Spdm.lean: attestation over DOE (R450 to R452 Table 16.5) and IDE key management (R463). The spec names the
requests, the algorithms, what measurements hold and what is signed; the messages themselves are DMTF's and not in it. The
block answers with a response code and the fields the spec names, one after the other; a transcript is what was said since
`GET_VERSION`, each request as its code and fields (log 53). -/

namespace Sys2Proof.Machine

open Sys2Proof

/-- A port's DOE is served: the steward cores of its own hearth run (R450). -/
def State.doeServed (s : State) (p : Port) : Bool :=
  let h := hearthOf p
  !s.inReset && (s.hearth h).running && !(s.sec.asleep && h ≠ s.sec.active)

/-- The connection of a port. -/
def State.spdmOf (s : State) (p : Port) : Spdm := (s.portOf p).spdm
def State.setSpdm (s : State) (p : Port) (x : Spdm) : State := s.modPort p (fun q => { q with spdm := x })

/-- A response leaves. -/
def State.answerDoe (s : State) (p : Port) (code : Nat) (data : List Byte) : State := s.emit (.doe p code data)

/-- An `ERROR` response with its reason (DSP0274: 0x01 invalid request, 0x04 unexpected, 0x06 decryption, 0x0B session
required, 0x41 version). -/
def State.spdmError (s : State) (p : Port) (reason : Nat) : State := s.answerDoe p 0x7F [BitVec.ofNat 8 reason]

/-- A response that joins the transcript with its request. -/
def State.spdmRespond (s : State) (p : Port) (x : Spdm) (request : List Byte) (code : Nat) (data : List Byte) : State :=
  (s.setSpdm p { x with transcript := x.transcript ++ request ++ [BitVec.ofNat 8 code] ++ data }).answerDoe p code data

/-- A response with a signature by the identity key over the transcript with this request and response. -/
def State.spdmSigned (s : State) (p : Port) (x : Spdm) (request : List Byte) (code : Nat) (data : List Byte) : State :=
  let sig := s.signed (x.transcript ++ request ++ [BitVec.ofNat 8 code] ++ data)
  s.drawn.spdmRespond p x request code (data ++ sig)

/-- The certificate chain of slot 0: root, intermediate, device certificate. -/
def State.chain (s : State) (p : Port) : List Byte := Config.rootChain ++ (s.hearth (hearthOf p)).attic.cert

/-- 32 bytes drawn by the hearth. -/
def State.drawNonce (s : State) : List Byte := (List.range 32).map (Config.freeByte s.fresh)

/-- `DOE_DISCOVERY` (R452): the object types 0 discovery, 1 CMA/SPDM, 2 secured CMA/SPDM of vendor 1, and the next index. -/
def execDoeDiscovery (port : Port) (index : Nat) (s : State) : Reply :=
  .next (if !(s.doeServed port) then s
    else if index < 3 then
      s.answerDoe port 0x00 (leBytes 2 1 ++ [BitVec.ofNat 8 index, BitVec.ofNat 8 (if index = 2 then 0 else index + 1)])
    else s.answerDoe port 0x00 (leBytes 2 0xFFFF ++ [0#8, 0#8]))

/-- `GET_VERSION`: a connection begins anew; 1.2 and 1.3 are offered. -/
def execGetVersion (port : Port) (s : State) : Reply :=
  .next (if !(s.doeServed port) then s else s.spdmRespond port { version := 1 } [0x84#8] 0x04 [0x12#8, 0x13#8])

/-- `GET_CAPABILITIES`: the version is agreed on. -/
def execGetCapabilities (port : Port) (version : Nat) (s : State) : Reply :=
  let x := s.spdmOf port
  .next (if !(s.doeServed port) then s
    else if x.version ≠ 1 then s.spdmError port 0x04
    else if version ≠ 0x12 && version ≠ 0x13 then s.spdmError port 0x41
    else s.spdmRespond port { x with version := version } [0xE1#8, BitVec.ofNat 8 version] 0x61 [BitVec.ofNat 8 version])

/-- `NEGOTIATE_ALGORITHMS`: ECDSA P-384, SHA-384, secp384r1 and AES-256-GCM, or nothing. -/
def execNegotiateAlgorithms (port : Port) (offersAsym offersHash offersDhe offersAead : Bool) (s : State) : Reply :=
  let x := s.spdmOf port
  .next (if !(s.doeServed port) then s
    else if x.version < 2 || x.negotiated then s.spdmError port 0x04
    else if !(offersAsym && offersHash && offersDhe && offersAead) then s.spdmError port 0x01
    else s.spdmRespond port { x with negotiated := true } [0xE3#8, 0x0F#8] 0x63 [0x0F#8])

/-- `GET_DIGESTS`: the digest of the chain of slot 0. -/
def execGetDigests (port : Port) (s : State) : Reply :=
  let x := s.spdmOf port
  .next (if !(s.doeServed port) then s
    else if !x.negotiated then s.spdmError port 0x04
    else s.spdmRespond port x [0x81#8] 0x01 (sha384 (s.chain port)))

/-- `GET_CERTIFICATE`: a portion of the chain of slot 0, and how much is left. -/
def execGetCertificate (port : Port) (slot off len : Nat) (s : State) : Reply :=
  let x := s.spdmOf port
  let c := s.chain port
  let part := (c.drop off).take len
  .next (if !(s.doeServed port) then s
    else if !x.negotiated then s.spdmError port 0x04
    else if slot ≠ 0 || c.length ≤ off then s.spdmError port 0x01
    else s.spdmRespond port x ([0x82#8, 0#8] ++ leBytes 2 off ++ leBytes 2 len) 0x02
      (leBytes 2 part.length ++ leBytes 2 (c.length - off - part.length) ++ part))

/-- `CHALLENGE`: a `CHALLENGE_AUTH` signed with the identity key. -/
def execChallenge (port : Port) (slot : Nat) (nonce : List Byte) (s : State) : Reply :=
  let x := s.spdmOf port
  .next (if !(s.doeServed port) then s
    else if !x.negotiated then s.spdmError port 0x04
    else if slot ≠ 0 then s.spdmError port 0x01
    else s.drawn.spdmSigned port x ([0x83#8, 0#8] ++ nonce) 0x03 (sha384 (s.chain port) ++ s.drawNonce))

/-- A measurement: index 1 to 6 is MR0 to MR5 as a raw digest (Table 16.5). -/
def State.measurement (s : State) (index : Nat) : List Byte := [BitVec.ofNat 8 index] ++ s.sec.mr.getD (index - 1) []

/-- `GET_MEASUREMENTS`: 0 asks how many, 255 for all. -/
def execGetMeasurements (port : Port) (index : Nat) (nonce : List Byte) (s : State) : Reply :=
  let x := s.spdmOf port
  let blocks : Option (List Byte) :=
    if index = 0 then some [6#8]
    else if index ≤ 6 then some (s.measurement index)
    else if index = 255 then some ((List.range 6).flatMap (fun i => s.measurement (i + 1)))
    else none
  .next (if !(s.doeServed port) then s
    else if !x.negotiated then s.spdmError port 0x04
    else
      match blocks with
      | none => s.spdmError port 0x01
      | some b => s.drawn.spdmSigned port x ([0xE0#8, BitVec.ofNat 8 index] ++ nonce) 0x60 (b ++ s.drawNonce))

/-- `KEY_EXCHANGE`: secp384r1; the keys of the two directions come from the shared secret and the transcript. -/
def execKeyExchange (port : Port) (slot : Nat) (hostKey : List Byte) (s : State) : Reply :=
  let x := s.spdmOf port
  let pub := halves96 hostKey
  let d := s.drawKey
  let request := [0xE4#8, 0#8] ++ hostKey
  let prk := hkdfExtract (sha384 (x.transcript ++ request)) (p384Ecdh d pub)
  .next (if !(s.doeServed port) then s
    else if !x.negotiated || x.exchanged then s.spdmError port 0x04
    else if slot ≠ 0 || !(onCurve pub.1 pub.2) then s.spdmError port 0x01
    else s.drawn.spdmSigned port
      { x with exchanged := true, hostKey := hkdfExpand48 prk (ascii "req"), devKey := hkdfExpand48 prk (ascii "rsp") }
      request 0x64 (bytes96 (p384Public d)))

/-- `FINISH`: the requester's check over the transcript completes the session. -/
def execFinish (port : Port) (verify : List Byte) (s : State) : Reply :=
  let x := s.spdmOf port
  .next (if !(s.doeServed port) then s
    else if !x.exchanged || x.secured then s.spdmError port 0x04
    else if verify ≠ hmac384 x.hostKey x.transcript then s.spdmError port 0x06
    else s.spdmRespond port { x with secured := true } ([0xE5#8] ++ verify) 0x65 [])

/-- A request that only a secured session carries. -/
def State.inSession (s : State) (p : Port) (f : Spdm → State) : State :=
  if !(s.doeServed p) then s else if !(s.spdmOf p).secured then s.spdmError p 0x0B else f (s.spdmOf p)

/-- `HEARTBEAT`. -/
def execHeartbeat (port : Port) (s : State) : Reply := .next (s.inSession port (fun _ => s.answerDoe port 0x68 []))

/-- The next key of a direction. -/
def nextKey (k : List Byte) : List Byte := hkdfExpand48 k (ascii "upd")

/-- `KEY_UPDATE`: the requester's direction, or both. -/
def execKeyUpdate (port : Port) (both : Bool) (s : State) : Reply :=
  .next (s.inSession port (fun x =>
    (s.setSpdm port { x with hostKey := nextKey x.hostKey, devKey := if both then nextKey x.devKey else x.devKey }).answerDoe
      port 0x69 [BitVec.ofNat 8 (if both then 2 else 1)]))

/-- `END_SESSION`. -/
def execEndSession (port : Port) (s : State) : Reply :=
  .next (s.inSession port (fun x =>
    (s.setSpdm port { x with exchanged := false, secured := false, hostKey := [], devKey := [] }).answerDoe port 0x6C []))

/-- A selective stream of a port. -/
def State.stream (s : State) (p : Port) (n : Nat) : IdeStream := SMap.get {} (s.portOf p).ide n
def State.setStream (s : State) (p : Port) (n : Nat) (x : IdeStream) : State :=
  s.modPort p (fun q => { q with ide := SMap.set {} q.ide n x })

/-- What a key management request does to the streams of a port, of which there are four (R463). -/
def State.ideKm (s : State) (p : Port) : IdeKm → State
  | .query n => s.answerDoe p 0x7E [0#8, BitVec.ofNat 8 n, BitVec.ofNat 8 (bit (s.stream p n).secure)]
  | .keyProg n key =>
    if n < 4 then (s.setStream p n { s.stream p n with key := key }).answerDoe p 0x7E [1#8, BitVec.ofNat 8 n]
    else s.spdmError p 0x01
  | .setGo n =>
    if n < 4 && !(s.stream p n).key.isEmpty then (s.setStream p n { s.stream p n with secure := true }).answerDoe p 0x7E [2#8, BitVec.ofNat 8 n]
    else s.spdmError p 0x01
  | .setStop n =>
    if n < 4 then (s.setStream p n { s.stream p n with secure := false }).answerDoe p 0x7E [3#8, BitVec.ofNat 8 n]
    else s.spdmError p 0x01

/-- `IDE_KM` (R463): over a secured session. -/
def execIdeKm (port : Port) (op : IdeKm) (s : State) : Reply := .next (s.inSession port (fun _ => s.ideKm port op))

end Sys2Proof.Machine
end

