-- ==== Sys2Proof/Machine/Stream.lean ====
section
/-! DEFINITION. Stream.lean: the commands of a stream as commands of the block: each is taken by its tile's sequencer with
its own operation (Sequencer.lean), which executes it or dispatches it to its engine (Work.lean). -/

namespace Sys2Proof.Machine

open Sys2Proof

/-- `NOP` (R217). -/
def execNop (t : Nat) (w : CmdWord) (s : State) : Reply := .next (s.issue t .nop w)
/-- `END` (R220). -/
def execEndStream (t : Nat) (w : CmdWord) (s : State) : Reply := .next (s.issue t .endStream w)
/-- `SETI` (R217). -/
def execSeti (t : Nat) (w : CmdWord) (s : State) : Reply := .next (s.issue t .seti w)
/-- `MOV` (R217). -/
def execMov (t : Nat) (w : CmdWord) (s : State) : Reply := .next (s.issue t .mov w)
/-- `ALU_ADD` (R218). -/
def execAluAdd (t : Nat) (w : CmdWord) (s : State) : Reply := .next (s.issue t .aluAdd w)
/-- `ALU_SUB` (R218). -/
def execAluSub (t : Nat) (w : CmdWord) (s : State) : Reply := .next (s.issue t .aluSub w)
/-- `ALU_MUL` (R218). -/
def execAluMul (t : Nat) (w : CmdWord) (s : State) : Reply := .next (s.issue t .aluMul w)
/-- `ALU_AND` (R218). -/
def execAluAnd (t : Nat) (w : CmdWord) (s : State) : Reply := .next (s.issue t .aluAnd w)
/-- `ALU_OR` (R218). -/
def execAluOr (t : Nat) (w : CmdWord) (s : State) : Reply := .next (s.issue t .aluOr w)
/-- `ALU_XOR` (R218). -/
def execAluXor (t : Nat) (w : CmdWord) (s : State) : Reply := .next (s.issue t .aluXor w)
/-- `ALU_SHL` (R218). -/
def execAluShl (t : Nat) (w : CmdWord) (s : State) : Reply := .next (s.issue t .aluShl w)
/-- `ALU_SHR` (R218). -/
def execAluShr (t : Nat) (w : CmdWord) (s : State) : Reply := .next (s.issue t .aluShr w)
/-- `ALU_SAR` (R218). -/
def execAluSar (t : Nat) (w : CmdWord) (s : State) : Reply := .next (s.issue t .aluSar w)
/-- `ALU_MIN` (R218). -/
def execAluMin (t : Nat) (w : CmdWord) (s : State) : Reply := .next (s.issue t .aluMin w)
/-- `ALU_MAX` (R218). -/
def execAluMax (t : Nat) (w : CmdWord) (s : State) : Reply := .next (s.issue t .aluMax w)
/-- `ALU_MINU` (R218). -/
def execAluMinu (t : Nat) (w : CmdWord) (s : State) : Reply := .next (s.issue t .aluMinu w)
/-- `ALU_MAXU` (R218). -/
def execAluMaxu (t : Nat) (w : CmdWord) (s : State) : Reply := .next (s.issue t .aluMaxu w)
/-- `CMP` (R218). -/
def execCmp (t : Nat) (w : CmdWord) (s : State) : Reply := .next (s.issue t .cmp w)
/-- `PSTAT` (R229). -/
def execPstat (t : Nat) (w : CmdWord) (s : State) : Reply := .next (s.issue t .pstat w)
/-- `WAIT` (R222). -/
def execWait (t : Nat) (w : CmdWord) (s : State) : Reply := .next (s.issue t .wait w)
/-- `LDS` (R219). -/
def execLds (t : Nat) (w : CmdWord) (s : State) : Reply := .next (s.issue t .lds w)
/-- `STS` (R219). -/
def execSts (t : Nat) (w : CmdWord) (s : State) : Reply := .next (s.issue t .sts w)
/-- `CFGR` (R217). -/
def execCfgr (t : Nat) (w : CmdWord) (s : State) : Reply := .next (s.issue t .cfgr w)
/-- `CFGW` (R239). -/
def execCfgw (t : Nat) (w : CmdWord) (s : State) : Reply := .next (s.issue t .cfgw w)
/-- `XCT` (R220). -/
def execXct (t : Nat) (w : CmdWord) (s : State) : Reply := .next (s.issue t .xct w)
/-- `LOOP` (R225). -/
def execLoop (t : Nat) (w : CmdWord) (s : State) : Reply := .next (s.issue t .loop w)
/-- `ENDLOOP` (R225). -/
def execEndloop (t : Nat) (w : CmdWord) (s : State) : Reply := .next (s.issue t .endloop w)
/-- `STEP_END` (R39). -/
def execStepEnd (t : Nat) (w : CmdWord) (s : State) : Reply := .next (s.issue t .stepEnd w)
/-- `STEP_GET` (R36). -/
def execStepGet (t : Nat) (w : CmdWord) (s : State) : Reply := .next (s.issue t .stepGet w)
/-- `MM` (R120). -/
def execMm (t : Nat) (w : CmdWord) (s : State) : Reply := .next (s.issue t .mm w)
/-- `MM_S24` (R131). -/
def execMmS24 (t : Nat) (w : CmdWord) (s : State) : Reply := .next (s.issue t .mmS24 w)
/-- `MM_BS` (R133). -/
def execMmBs (t : Nat) (w : CmdWord) (s : State) : Reply := .next (s.issue t .mmBs w)
/-- `MM_CASC` (R137). -/
def execMmCasc (t : Nat) (w : CmdWord) (s : State) : Reply := .next (s.issue t .mmCasc w)
/-- `MM_JOIN` (R136). -/
def execMmJoin (t : Nat) (w : CmdWord) (s : State) : Reply := .next (s.issue t .mmJoin w)
/-- `DMM` (R146). -/
def execDmm (t : Nat) (w : CmdWord) (s : State) : Reply := .next (s.issue t .dmm w)
/-- `DMM_CASC` (R148). -/
def execDmmCasc (t : Nat) (w : CmdWord) (s : State) : Reply := .next (s.issue t .dmmCasc w)
/-- `DMM_JOIN` (R148). -/
def execDmmJoin (t : Nat) (w : CmdWord) (s : State) : Reply := .next (s.issue t .dmmJoin w)
/-- `DS_DIV` (R151). -/
def execDsDiv (t : Nat) (w : CmdWord) (s : State) : Reply := .next (s.issue t .dsDiv w)
/-- `DS_SQRT` (R151). -/
def execDsSqrt (t : Nat) (w : CmdWord) (s : State) : Reply := .next (s.issue t .dsSqrt w)
/-- `DS_RSQRT` (R151). -/
def execDsRsqrt (t : Nat) (w : CmdWord) (s : State) : Reply := .next (s.issue t .dsRsqrt w)
/-- `DS_RCP` (R151). -/
def execDsRcp (t : Nat) (w : CmdWord) (s : State) : Reply := .next (s.issue t .dsRcp w)
/-- `SE_FACT` (R157). -/
def execSeFact (t : Nat) (w : CmdWord) (s : State) : Reply := .next (s.issue t .seFact w)
/-- `SE_SOLVE` (R164). -/
def execSeSolve (t : Nat) (w : CmdWord) (s : State) : Reply := .next (s.issue t .seSolve w)
/-- `SE_BAND` (R171). -/
def execSeBand (t : Nat) (w : CmdWord) (s : State) : Reply := .next (s.issue t .seBand w)
/-- `SE_RESUME` (R170). -/
def execSeResume (t : Nat) (w : CmdWord) (s : State) : Reply := .next (s.issue t .seResume w)
/-- `SE_JOIN` (R174). -/
def execSeJoin (t : Nat) (w : CmdWord) (s : State) : Reply := .next (s.issue t .seJoin w)
/-- `VE_ADD` (R181). -/
def execVeAdd (t : Nat) (w : CmdWord) (s : State) : Reply := .next (s.issue t .veAdd w)
/-- `VE_SUB` (R181). -/
def execVeSub (t : Nat) (w : CmdWord) (s : State) : Reply := .next (s.issue t .veSub w)
/-- `VE_MUL` (R181). -/
def execVeMul (t : Nat) (w : CmdWord) (s : State) : Reply := .next (s.issue t .veMul w)
/-- `VE_FMA` (R181). -/
def execVeFma (t : Nat) (w : CmdWord) (s : State) : Reply := .next (s.issue t .veFma w)
/-- `VE_MAX` (R182). -/
def execVeMax (t : Nat) (w : CmdWord) (s : State) : Reply := .next (s.issue t .veMax w)
/-- `VE_MIN` (R182). -/
def execVeMin (t : Nat) (w : CmdWord) (s : State) : Reply := .next (s.issue t .veMin w)
/-- `VE_ABS` (R182). -/
def execVeAbs (t : Nat) (w : CmdWord) (s : State) : Reply := .next (s.issue t .veAbs w)
/-- `VE_CVT` (R181). -/
def execVeCvt (t : Nat) (w : CmdWord) (s : State) : Reply := .next (s.issue t .veCvt w)
/-- `VE_CMP` (R182). -/
def execVeCmp (t : Nat) (w : CmdWord) (s : State) : Reply := .next (s.issue t .veCmp w)
/-- `VE_QADD` (R188). -/
def execVeQadd (t : Nat) (w : CmdWord) (s : State) : Reply := .next (s.issue t .veQadd w)
/-- `VE_QSUB` (R188). -/
def execVeQsub (t : Nat) (w : CmdWord) (s : State) : Reply := .next (s.issue t .veQsub w)
/-- `VE_QMULR` (R188). -/
def execVeQmulr (t : Nat) (w : CmdWord) (s : State) : Reply := .next (s.issue t .veQmulr w)
/-- `VE_QSHR` (R188). -/
def execVeQshr (t : Nat) (w : CmdWord) (s : State) : Reply := .next (s.issue t .veQshr w)
/-- `VE_EPI` (R190). -/
def execVeEpi (t : Nat) (w : CmdWord) (s : State) : Reply := .next (s.issue t .veEpi w)
/-- `RU_SUM` (R192). -/
def execRuSum (t : Nat) (w : CmdWord) (s : State) : Reply := .next (s.issue t .ruSum w)
/-- `RU_DOT` (R192). -/
def execRuDot (t : Nat) (w : CmdWord) (s : State) : Reply := .next (s.issue t .ruDot w)
/-- `RU_SSQ` (R192). -/
def execRuSsq (t : Nat) (w : CmdWord) (s : State) : Reply := .next (s.issue t .ruSsq w)
/-- `RU_MAX` (R193). -/
def execRuMax (t : Nat) (w : CmdWord) (s : State) : Reply := .next (s.issue t .ruMax w)
/-- `RU_MIN` (R193). -/
def execRuMin (t : Nat) (w : CmdWord) (s : State) : Reply := .next (s.issue t .ruMin w)
/-- `RU_AMAX` (R193). -/
def execRuAmax (t : Nat) (w : CmdWord) (s : State) : Reply := .next (s.issue t .ruAmax w)
/-- `RU_HIST` (R195). -/
def execRuHist (t : Nat) (w : CmdWord) (s : State) : Reply := .next (s.issue t .ruHist w)
/-- `UE_RUN` (R196). -/
def execUeRun (t : Nat) (w : CmdWord) (s : State) : Reply := .next (s.issue t .ueRun w)
/-- `HANDOFF` (R53). -/
def execHandoff (t : Nat) (w : CmdWord) (s : State) : Reply := .next (s.issue t .handoff w)
/-- `TM_COPY` (R272). -/
def execTmCopy (t : Nat) (w : CmdWord) (s : State) : Reply := .next (s.issue t .tmCopy w)
/-- `TM_GATHER` (R275). -/
def execTmGather (t : Nat) (w : CmdWord) (s : State) : Reply := .next (s.issue t .tmGather w)
/-- `TM_SCATTER` (R276). -/
def execTmScatter (t : Nat) (w : CmdWord) (s : State) : Reply := .next (s.issue t .tmScatter w)
/-- `TM_FILL` (R272). -/
def execTmFill (t : Nat) (w : CmdWord) (s : State) : Reply := .next (s.issue t .tmFill w)
/-- `TM_PREFETCH` (R277). -/
def execTmPrefetch (t : Nat) (w : CmdWord) (s : State) : Reply := .next (s.issue t .tmPrefetch w)
/-- `TM_CLEAN` (R277). -/
def execTmClean (t : Nat) (w : CmdWord) (s : State) : Reply := .next (s.issue t .tmClean w)
/-- `FB_LOAD` (R322). -/
def execFbLoad (t : Nat) (w : CmdWord) (s : State) : Reply := .next (s.issue t .fbLoad w)
/-- `FB_STORE` (R322). -/
def execFbStore (t : Nat) (w : CmdWord) (s : State) : Reply := .next (s.issue t .fbStore w)
/-- `FB_ATOMIC_ADD` (R323). -/
def execFbAtomicAdd (t : Nat) (w : CmdWord) (s : State) : Reply := .next (s.issue t .fbAtomicAdd w)
/-- `FB_ATOMIC_AND` (R323). -/
def execFbAtomicAnd (t : Nat) (w : CmdWord) (s : State) : Reply := .next (s.issue t .fbAtomicAnd w)
/-- `FB_ATOMIC_OR` (R323). -/
def execFbAtomicOr (t : Nat) (w : CmdWord) (s : State) : Reply := .next (s.issue t .fbAtomicOr w)
/-- `FB_ATOMIC_XOR` (R323). -/
def execFbAtomicXor (t : Nat) (w : CmdWord) (s : State) : Reply := .next (s.issue t .fbAtomicXor w)
/-- `FB_ATOMIC_MIN` (R323). -/
def execFbAtomicMin (t : Nat) (w : CmdWord) (s : State) : Reply := .next (s.issue t .fbAtomicMin w)
/-- `FB_ATOMIC_MAX` (R323). -/
def execFbAtomicMax (t : Nat) (w : CmdWord) (s : State) : Reply := .next (s.issue t .fbAtomicMax w)
/-- `FB_ATOMIC_MINU` (R323). -/
def execFbAtomicMinu (t : Nat) (w : CmdWord) (s : State) : Reply := .next (s.issue t .fbAtomicMinu w)
/-- `FB_ATOMIC_MAXU` (R323). -/
def execFbAtomicMaxu (t : Nat) (w : CmdWord) (s : State) : Reply := .next (s.issue t .fbAtomicMaxu w)
/-- `FB_ATOMIC_SWAP` (R323). -/
def execFbAtomicSwap (t : Nat) (w : CmdWord) (s : State) : Reply := .next (s.issue t .fbAtomicSwap w)
/-- `FB_ATOMIC_CAS` (R323). -/
def execFbAtomicCas (t : Nat) (w : CmdWord) (s : State) : Reply := .next (s.issue t .fbAtomicCas w)
/-- `FADD` (R325). -/
def execFadd (t : Nat) (w : CmdWord) (s : State) : Reply := .next (s.issue t .fadd w)
/-- `FXADD` (R324). -/
def execFxadd (t : Nat) (w : CmdWord) (s : State) : Reply := .next (s.issue t .fxadd w)
/-- `FB_TRIGGER` (R326). -/
def execFbTrigger (t : Nat) (w : CmdWord) (s : State) : Reply := .next (s.issue t .fbTrigger w)
/-- `FB_FENCE` (R340). -/
def execFbFence (t : Nat) (w : CmdWord) (s : State) : Reply := .next (s.issue t .fbFence w)
/-- `FB_SEND` (R328). -/
def execFbSend (t : Nat) (w : CmdWord) (s : State) : Reply := .next (s.issue t .fbSend w)
/-- `FB_RECV` (R328). -/
def execFbRecv (t : Nat) (w : CmdWord) (s : State) : Reply := .next (s.issue t .fbRecv w)
/-- `FB_WAIT` (R329). -/
def execFbWait (t : Nat) (w : CmdWord) (s : State) : Reply := .next (s.issue t .fbWait w)
/-- `STORE_STREAM` (R330). -/
def execStoreStream (t : Nat) (w : CmdWord) (s : State) : Reply := .next (s.issue t .storeStream w)
/-- `FB_CTRSET` (R329). -/
def execFbCtrset (t : Nat) (w : CmdWord) (s : State) : Reply := .next (s.issue t .fbCtrset w)
/-- `COLL_GROUP` (R349). -/
def execCollGroup (t : Nat) (w : CmdWord) (s : State) : Reply := .next (s.issue t .collGroup w)
/-- `SUM_ALL` (R354). -/
def execSumAll (t : Nat) (w : CmdWord) (s : State) : Reply := .next (s.issue t .sumAll w)
/-- `COLL_WAIT` (R374). -/
def execCollWait (t : Nat) (w : CmdWord) (s : State) : Reply := .next (s.issue t .collWait w)

end Sys2Proof.Machine
end

