-- ==== Sys2Proof/Machine/Dispatch.lean ====
section
/-! DEFINITION. Dispatch.lean: one arm for each command of the block, each one direct call of its meaning. -/

namespace Sys2Proof.Machine

open Sys2Proof

def exec (i : Instr) (s : State) : Host.Outcome State Fault Refusal :=
  match i with
  | .nop t w => Sys2Proof.Machine.execNop t w s
  | .endStream t w => Sys2Proof.Machine.execEndStream t w s
  | .seti t w => Sys2Proof.Machine.execSeti t w s
  | .mov t w => Sys2Proof.Machine.execMov t w s
  | .aluAdd t w => Sys2Proof.Machine.execAluAdd t w s
  | .aluSub t w => Sys2Proof.Machine.execAluSub t w s
  | .aluMul t w => Sys2Proof.Machine.execAluMul t w s
  | .aluAnd t w => Sys2Proof.Machine.execAluAnd t w s
  | .aluOr t w => Sys2Proof.Machine.execAluOr t w s
  | .aluXor t w => Sys2Proof.Machine.execAluXor t w s
  | .aluShl t w => Sys2Proof.Machine.execAluShl t w s
  | .aluShr t w => Sys2Proof.Machine.execAluShr t w s
  | .aluSar t w => Sys2Proof.Machine.execAluSar t w s
  | .aluMin t w => Sys2Proof.Machine.execAluMin t w s
  | .aluMax t w => Sys2Proof.Machine.execAluMax t w s
  | .aluMinu t w => Sys2Proof.Machine.execAluMinu t w s
  | .aluMaxu t w => Sys2Proof.Machine.execAluMaxu t w s
  | .cmp t w => Sys2Proof.Machine.execCmp t w s
  | .pstat t w => Sys2Proof.Machine.execPstat t w s
  | .wait t w => Sys2Proof.Machine.execWait t w s
  | .lds t w => Sys2Proof.Machine.execLds t w s
  | .sts t w => Sys2Proof.Machine.execSts t w s
  | .cfgr t w => Sys2Proof.Machine.execCfgr t w s
  | .cfgw t w => Sys2Proof.Machine.execCfgw t w s
  | .xct t w => Sys2Proof.Machine.execXct t w s
  | .loop t w => Sys2Proof.Machine.execLoop t w s
  | .endloop t w => Sys2Proof.Machine.execEndloop t w s
  | .stepEnd t w => Sys2Proof.Machine.execStepEnd t w s
  | .stepGet t w => Sys2Proof.Machine.execStepGet t w s
  | .tileArrive t => Sys2Proof.Machine.execTileArrive t s
  | .stepBoundary j => Sys2Proof.Machine.execStepBoundary j s
  | .mm t w => Sys2Proof.Machine.execMm t w s
  | .mmS24 t w => Sys2Proof.Machine.execMmS24 t w s
  | .mmBs t w => Sys2Proof.Machine.execMmBs t w s
  | .mmCasc t w => Sys2Proof.Machine.execMmCasc t w s
  | .mmJoin t w => Sys2Proof.Machine.execMmJoin t w s
  | .cascadeStart cls die cid => Sys2Proof.Machine.execCascadeStart cls die cid s
  | .queueResume t => Sys2Proof.Machine.execQueueResume t s
  | .dmm t w => Sys2Proof.Machine.execDmm t w s
  | .dmmCasc t w => Sys2Proof.Machine.execDmmCasc t w s
  | .dmmJoin t w => Sys2Proof.Machine.execDmmJoin t w s
  | .dsDiv t w => Sys2Proof.Machine.execDsDiv t w s
  | .dsSqrt t w => Sys2Proof.Machine.execDsSqrt t w s
  | .dsRsqrt t w => Sys2Proof.Machine.execDsRsqrt t w s
  | .dsRcp t w => Sys2Proof.Machine.execDsRcp t w s
  | .forwardResume t => Sys2Proof.Machine.execForwardResume t s
  | .seFact t w => Sys2Proof.Machine.execSeFact t w s
  | .seSolve t w => Sys2Proof.Machine.execSeSolve t w s
  | .seBand t w => Sys2Proof.Machine.execSeBand t w s
  | .seResume t w => Sys2Proof.Machine.execSeResume t w s
  | .seJoin t w => Sys2Proof.Machine.execSeJoin t w s
  | .veAdd t w => Sys2Proof.Machine.execVeAdd t w s
  | .veSub t w => Sys2Proof.Machine.execVeSub t w s
  | .veMul t w => Sys2Proof.Machine.execVeMul t w s
  | .veFma t w => Sys2Proof.Machine.execVeFma t w s
  | .veMax t w => Sys2Proof.Machine.execVeMax t w s
  | .veMin t w => Sys2Proof.Machine.execVeMin t w s
  | .veAbs t w => Sys2Proof.Machine.execVeAbs t w s
  | .veCvt t w => Sys2Proof.Machine.execVeCvt t w s
  | .veCmp t w => Sys2Proof.Machine.execVeCmp t w s
  | .veQadd t w => Sys2Proof.Machine.execVeQadd t w s
  | .veQsub t w => Sys2Proof.Machine.execVeQsub t w s
  | .veQmulr t w => Sys2Proof.Machine.execVeQmulr t w s
  | .veQshr t w => Sys2Proof.Machine.execVeQshr t w s
  | .veEpi t w => Sys2Proof.Machine.execVeEpi t w s
  | .epiTile t => Sys2Proof.Machine.execEpiTile t s
  | .ruSum t w => Sys2Proof.Machine.execRuSum t w s
  | .ruDot t w => Sys2Proof.Machine.execRuDot t w s
  | .ruSsq t w => Sys2Proof.Machine.execRuSsq t w s
  | .ruMax t w => Sys2Proof.Machine.execRuMax t w s
  | .ruMin t w => Sys2Proof.Machine.execRuMin t w s
  | .ruAmax t w => Sys2Proof.Machine.execRuAmax t w s
  | .ruHist t w => Sys2Proof.Machine.execRuHist t w s
  | .ueRun t w => Sys2Proof.Machine.execUeRun t w s
  | .handoff t w => Sys2Proof.Machine.execHandoff t w s
  | .tmCopy t w => Sys2Proof.Machine.execTmCopy t w s
  | .tmGather t w => Sys2Proof.Machine.execTmGather t w s
  | .tmScatter t w => Sys2Proof.Machine.execTmScatter t w s
  | .tmFill t w => Sys2Proof.Machine.execTmFill t w s
  | .tmPrefetch t w => Sys2Proof.Machine.execTmPrefetch t w s
  | .tmClean t w => Sys2Proof.Machine.execTmClean t w s
  | .fbLoad t w => Sys2Proof.Machine.execFbLoad t w s
  | .fbStore t w => Sys2Proof.Machine.execFbStore t w s
  | .fbAtomicAdd t w => Sys2Proof.Machine.execFbAtomicAdd t w s
  | .fbAtomicAnd t w => Sys2Proof.Machine.execFbAtomicAnd t w s
  | .fbAtomicOr t w => Sys2Proof.Machine.execFbAtomicOr t w s
  | .fbAtomicXor t w => Sys2Proof.Machine.execFbAtomicXor t w s
  | .fbAtomicMin t w => Sys2Proof.Machine.execFbAtomicMin t w s
  | .fbAtomicMax t w => Sys2Proof.Machine.execFbAtomicMax t w s
  | .fbAtomicMinu t w => Sys2Proof.Machine.execFbAtomicMinu t w s
  | .fbAtomicMaxu t w => Sys2Proof.Machine.execFbAtomicMaxu t w s
  | .fbAtomicSwap t w => Sys2Proof.Machine.execFbAtomicSwap t w s
  | .fbAtomicCas t w => Sys2Proof.Machine.execFbAtomicCas t w s
  | .fadd t w => Sys2Proof.Machine.execFadd t w s
  | .fxadd t w => Sys2Proof.Machine.execFxadd t w s
  | .fbTrigger t w => Sys2Proof.Machine.execFbTrigger t w s
  | .fbFence t w => Sys2Proof.Machine.execFbFence t w s
  | .fbSend t w => Sys2Proof.Machine.execFbSend t w s
  | .fbRecv t w => Sys2Proof.Machine.execFbRecv t w s
  | .fbWait t w => Sys2Proof.Machine.execFbWait t w s
  | .storeStream t w => Sys2Proof.Machine.execStoreStream t w s
  | .fbCtrset t w => Sys2Proof.Machine.execFbCtrset t w s
  | .waitDeadlinePassed t => Sys2Proof.Machine.execWaitDeadlinePassed t s
  | .collGroup t w => Sys2Proof.Machine.execCollGroup t w s
  | .sumAll t w => Sys2Proof.Machine.execSumAll t w s
  | .collWait t w => Sys2Proof.Machine.execCollWait t w s
  | .collStart j => Sys2Proof.Machine.execCollStart j s
  | .collSetup p stage input r => Sys2Proof.Machine.execCollSetup p stage input r s
  | .collSetupRsp p r => Sys2Proof.Machine.execCollSetupRsp p r s
  | .collUp p stage input => Sys2Proof.Machine.execCollUp p stage input s
  | .collDown p => Sys2Proof.Machine.execCollDown p s
  | .collEnd p => Sys2Proof.Machine.execCollEnd p s
  | .collTimeout j gid seq => Sys2Proof.Machine.execCollTimeout j gid seq s
  | .collRetransmit j gid seq chunk => Sys2Proof.Machine.execCollRetransmit j gid seq chunk s
  | .load p => Sys2Proof.Machine.execLoad p s
  | .loadRsp p => Sys2Proof.Machine.execLoadRsp p s
  | .store p => Sys2Proof.Machine.execStore p s
  | .atomic p => Sys2Proof.Machine.execAtomic p s
  | .atomicRsp p => Sys2Proof.Machine.execAtomicRsp p s
  | .trigger p => Sys2Proof.Machine.execTrigger p s
  | .send p => Sys2Proof.Machine.execSend p s
  | .ack p => Sys2Proof.Machine.execAck p s
  | .nack p => Sys2Proof.Machine.execNack p s
  | .heldTriggerRun j => Sys2Proof.Machine.execHeldTriggerRun j s
  | .listComplete j id => Sys2Proof.Machine.execListComplete j id s
  | .retransmit j dst seq => Sys2Proof.Machine.execRetransmit j dst seq s
  | .markUnreachable j dst => Sys2Proof.Machine.execMarkUnreachable j dst s
  | .busyRetry j dst seq => Sys2Proof.Machine.execBusyRetry j dst seq s
  | .fenceTimeout t => Sys2Proof.Machine.execFenceTimeout t s
  | .mgmt p endpoint paths downPaths checkOk => Sys2Proof.Machine.execMgmt p endpoint paths downPaths checkOk s
  | .sync p => Sys2Proof.Machine.execSync p s
  | .followUp p => Sys2Proof.Machine.execFollowUp p s
  | .delayRsp p => Sys2Proof.Machine.execDelayRsp p s
  | .tbPpsEdge => Sys2Proof.Machine.execTbPpsEdge s
  | .tbLockLost => Sys2Proof.Machine.execTbLockLost s
  | .linkFrame gallery lane corrected crcOk => Sys2Proof.Machine.execLinkFrame gallery lane corrected crcOk s
  | .laneDown gallery lane => Sys2Proof.Machine.execLaneDown gallery lane s
  | .eyeRecentre gallery lane => Sys2Proof.Machine.execEyeRecentre gallery lane s
  | .sealWrite port slot hdr body word => Sys2Proof.Machine.execSealWrite port slot hdr body word s
  | .echo port slot => Sys2Proof.Machine.execEcho port slot s
  | .sessionOpen port slot => Sys2Proof.Machine.execSessionOpen port slot s
  | .jobSetup port slot => Sys2Proof.Machine.execJobSetup port slot s
  | .jobLoad port slot img => Sys2Proof.Machine.execJobLoad port slot img s
  | .jobStart port slot => Sys2Proof.Machine.execJobStart port slot s
  | .map port slot => Sys2Proof.Machine.execMap port slot s
  | .unmap port slot => Sys2Proof.Machine.execUnmap port slot s
  | .regRead port slot => Sys2Proof.Machine.execRegRead port slot s
  | .regWrite port slot => Sys2Proof.Machine.execRegWrite port slot s
  | .tileResume port slot => Sys2Proof.Machine.execTileResume port slot s
  | .stopAtStep port slot => Sys2Proof.Machine.execStopAtStep port slot s
  | .stepResume port slot => Sys2Proof.Machine.execStepResume port slot s
  | .teardown port slot => Sys2Proof.Machine.execTeardown port slot s
  | .checkpoint port slot => Sys2Proof.Machine.execCheckpoint port slot s
  | .pair port slot => Sys2Proof.Machine.execPair port slot s
  | .pairWaitExpiry => Sys2Proof.Machine.execPairWaitExpiry s
  | .takeover port slot => Sys2Proof.Machine.execTakeover port slot s
  | .handover port slot => Sys2Proof.Machine.execHandover port slot s
  | .releaseMirror port slot => Sys2Proof.Machine.execReleaseMirror port slot s
  | .resync port slot => Sys2Proof.Machine.execResync port slot s
  | .detach port slot => Sys2Proof.Machine.execDetach port slot s
  | .mirrorSetup port slot => Sys2Proof.Machine.execMirrorSetup port slot s
  | .mirrorSetupExpiry j => Sys2Proof.Machine.execMirrorSetupExpiry j s
  | .tagAssign port slot => Sys2Proof.Machine.execTagAssign port slot s
  | .tagTeardown port slot => Sys2Proof.Machine.execTagTeardown port slot s
  | .quarantineExpiry jtag => Sys2Proof.Machine.execQuarantineExpiry jtag s
  | .powerLimit port slot => Sys2Proof.Machine.execPowerLimit port slot s
  | .fwUpdate port slot => Sys2Proof.Machine.execFwUpdate port slot s
  | .ownerProgram port slot => Sys2Proof.Machine.execOwnerProgram port slot s
  | .fwRevoke port slot => Sys2Proof.Machine.execFwRevoke port slot s
  | .ownerRevoke port slot => Sys2Proof.Machine.execOwnerRevoke port slot s
  | .svnAdvance port slot => Sys2Proof.Machine.execSvnAdvance port slot s
  | .fmkSet port slot => Sys2Proof.Machine.execFmkSet port slot s
  | .ideLock port slot => Sys2Proof.Machine.execIdeLock port slot s
  | .lifecycle port slot => Sys2Proof.Machine.execLifecycle port slot s
  | .debugUnlock port slot => Sys2Proof.Machine.execDebugUnlock port slot s
  | .recoverySeal hearth word => Sys2Proof.Machine.execRecoverySeal hearth word s
  | .bar4Read port addr len stream => Sys2Proof.Machine.execBar4Read port addr len stream s
  | .bar4Write port addr data stream => Sys2Proof.Machine.execBar4Write port addr data stream s
  | .engFlagsWrite t e v racing => Sys2Proof.Machine.execEngFlagsWrite t e v racing s
  | .engGenWrite t e v => Sys2Proof.Machine.execEngGenWrite t e v s
  | .rwsWrite t e off v => Sys2Proof.Machine.execRwsWrite t e off v s
  | .rwcWrite t e off v => Sys2Proof.Machine.execRwcWrite t e off v s
  | .registerWrite target v => Sys2Proof.Machine.execRegisterWrite target v s
  | .pendingStart t e => Sys2Proof.Machine.execPendingStart t e s
  | .dispatchResume t => Sys2Proof.Machine.execDispatchResume t s
  | .commandRetire t e => Sys2Proof.Machine.execCommandRetire t e s
  | .chunkEnd t e => Sys2Proof.Machine.execChunkEnd t e s
  | .stragglerPass t e => Sys2Proof.Machine.execStragglerPass t e s
  | .breakHit t => Sys2Proof.Machine.execBreakHit t s
  | .translationFault t e => Sys2Proof.Machine.execTranslationFault t e s
  | .faultRestart t e => Sys2Proof.Machine.execFaultRestart t e s
  | .guardSave block => Sys2Proof.Machine.execGuardSave block s
  | .guardSlotFree => Sys2Proof.Machine.execGuardSlotFree s
  | .captureEnd j => Sys2Proof.Machine.execCaptureEnd j s
  | .mirrorDeltaBlock j => Sys2Proof.Machine.execMirrorDeltaBlock j s
  | .deltaReceive f => Sys2Proof.Machine.execDeltaReceive f s
  | .deltaCommit f => Sys2Proof.Machine.execDeltaCommit f s
  | .mirrorAck j n => Sys2Proof.Machine.execMirrorAck j n s
  | .logApply j => Sys2Proof.Machine.execLogApply j s
  | .ckptBlockCopy j => Sys2Proof.Machine.execCkptBlockCopy j s
  | .replicaDecideTimeout j k => Sys2Proof.Machine.execReplicaDecideTimeout j k s
  | .manifestSend j => Sys2Proof.Machine.execManifestSend j s
  | .ckptDone j => Sys2Proof.Machine.execCkptDone j s
  | .hearthHeartbeat missed => Sys2Proof.Machine.execHearthHeartbeat missed s
  | .hearthFailover => Sys2Proof.Machine.execHearthFailover s
  | .standbyLost => Sys2Proof.Machine.execStandbyLost s
  | .pairHeartbeat missed => Sys2Proof.Machine.execPairHeartbeat missed s
  | .pairHeartbeatReceive h => Sys2Proof.Machine.execPairHeartbeatReceive h s
  | .twinSuspect => Sys2Proof.Machine.execTwinSuspect s
  | .failureNotice => Sys2Proof.Machine.execFailureNotice s
  | .packageFailed cause => Sys2Proof.Machine.execPackageFailed cause s
  | .tileFault t => Sys2Proof.Machine.execTileFault t s
  | .planeFailover plane => Sys2Proof.Machine.execPlaneFailover plane s
  | .porchFault p => Sys2Proof.Machine.execPorchFault p s
  | .porchRemirror p => Sys2Proof.Machine.execPorchRemirror p s
  | .pcMapout pc => Sys2Proof.Machine.execPcMapout pc s
  | .agingReport t below => Sys2Proof.Machine.execAgingReport t below s
  | .scrub addr line outcome => Sys2Proof.Machine.execScrub addr line outcome s
  | .refresh pc bank => Sys2Proof.Machine.execRefresh pc bank s
  | .refreshManagement pc bank => Sys2Proof.Machine.execRefreshManagement pc bank s
  | .housekeepingSlice => Sys2Proof.Machine.execHousekeepingSlice s
  | .satLevel level ns above below => Sys2Proof.Machine.execSatLevel level ns above below s
  | .ckptAdvisory bit => Sys2Proof.Machine.execCkptAdvisory bit s
  | .advisoryClear bit => Sys2Proof.Machine.execAdvisoryClear bit s
  | .tempSample temps => Sys2Proof.Machine.execTempSample temps s
  | .governorTick power tilePower => Sys2Proof.Machine.execGovernorTick power tilePower s
  | .clockStretch t mhz => Sys2Proof.Machine.execClockStretch t mhz s
  | .landingResync island planned => Sys2Proof.Machine.execLandingResync island planned s
  | .landingTimeout island => Sys2Proof.Machine.execLandingTimeout island s
  | .enterReady => Sys2Proof.Machine.execEnterReady s
  | .wake cause => Sys2Proof.Machine.execWake cause s
  | .thermtrip => Sys2Proof.Machine.execThermtrip s
  | .supplyFault rail => Sys2Proof.Machine.execSupplyFault rail s
  | .deviceReset => Sys2Proof.Machine.execDeviceReset s
  | .bootImageAccept hearth readError => Sys2Proof.Machine.execBootImageAccept hearth readError s
  | .hearthRoleSelect => Sys2Proof.Machine.execHearthRoleSelect s
  | .bootReady availTiles spares => Sys2Proof.Machine.execBootReady availTiles spares s
  | .portReset port cause => Sys2Proof.Machine.execPortReset port cause s
  | .functionLevelReset port => Sys2Proof.Machine.execFunctionLevelReset port s
  | .pairSenseChange level => Sys2Proof.Machine.execPairSenseChange level s
  | .ideIntegrityFail port stream => Sys2Proof.Machine.execIdeIntegrityFail port stream s
  | .bmcOffsetWrite off => Sys2Proof.Machine.execBmcOffsetWrite off s
  | .bmcAddressAssign addr => Sys2Proof.Machine.execBmcAddressAssign addr s
  | .doeDiscovery port index => Sys2Proof.Machine.execDoeDiscovery port index s
  | .getVersion port => Sys2Proof.Machine.execGetVersion port s
  | .getCapabilities port version => Sys2Proof.Machine.execGetCapabilities port version s
  | .negotiateAlgorithms port offersAsym offersHash offersDhe offersAead => Sys2Proof.Machine.execNegotiateAlgorithms port offersAsym offersHash offersDhe offersAead s
  | .getDigests port => Sys2Proof.Machine.execGetDigests port s
  | .getCertificate port slot off len => Sys2Proof.Machine.execGetCertificate port slot off len s
  | .challenge port slot nonce => Sys2Proof.Machine.execChallenge port slot nonce s
  | .getMeasurements port index nonce => Sys2Proof.Machine.execGetMeasurements port index nonce s
  | .keyExchange port slot hostKey => Sys2Proof.Machine.execKeyExchange port slot hostKey s
  | .finish port verify => Sys2Proof.Machine.execFinish port verify s
  | .heartbeat port => Sys2Proof.Machine.execHeartbeat port s
  | .keyUpdate port both => Sys2Proof.Machine.execKeyUpdate port both s
  | .endSession port => Sys2Proof.Machine.execEndSession port s
  | .ideKm port op => Sys2Proof.Machine.execIdeKm port op s
  | .sysRstNLow ns => Sys2Proof.Machine.execSysRstNLow ns s
  | .vauxLoss => Sys2Proof.Machine.execVauxLoss s
  | .portLinkUp port => Sys2Proof.Machine.execPortLinkUp port s
  | .standbyBoot => Sys2Proof.Machine.execStandbyBoot s
  | .pairingFrame frame => Sys2Proof.Machine.execPairingFrame frame s
  | .unassignedOpcode port slot => Sys2Proof.Machine.execUnassignedOpcode port slot s

end Sys2Proof.Machine
end

