-- ==== Sys2Proof/Machine/Idle.lean ====
section
/-! DEFINITION. Idle.lean: what the block does when no command waits: a running sequencer fetches its next word, and with
none ready the timebase goes on. -/

namespace Sys2Proof.Machine

open Sys2Proof

/-- The tile whose sequencer takes its next word: the lowest that is ready (log 9). -/
def State.fetchTile (s : State) : Option Nat := (s.tiles.find? (fun x => x.2.ready)).map Prod.fst

/-- A ready sequencer's word becomes the block's next command, or halts it where it is none (R210). -/
def State.fetchNext (s : State) (t : Nat) : State :=
  let b := s.fetchWord t (s.tile t).nextAddr
  match decodeWord b with
  | some (op, w) => { s with pending := [streamInstr op t w] }
  | none => s.illegalWord t b

/-- A nanosecond passes. At 200 ppm a slew takes one nanosecond of an offset off every 5,000 (R432), and within 25 ns of a
reference the timebase is locked again. -/
def Clock.tick (c : Clock) : Clock :=
  let c := { c with timebase := c.timebase + 1 }
  if c.timebase.toNat % 5000 ≠ 0 || c.slew = 0 then c
  else
    let left := if 0 < c.slew then c.slew - 1 else c.slew + 1
    { c with slew := left, locked := c.locked || (c.source ≠ 0 && c.counted && decide (-25 ≤ left) && decide (left ≤ 25)) }

/-- What the board does next to a package that `PWROK` has left, or that waits for its rails to be removed: it may remove every
rail but VAUX (R474, R477), and may bring VAUX back (R472). No command of the block says when, so each is a free choice (log 131).
With the rails gone `THERMTRIP_N` is released. -/
def State.boardActs (s : State) : State :=
  let b := s.board
  let s :=
    if !b.vaux then { s with board := { b with rails := false, vaux := s.choice 0 } }
    else if (!b.pwrok || b.thermtrip) && b.rails && s.choice 0 then
      let s := { s with board := { b with rails := false, pwrok := false, thermtrip := false } }
      if b.thermtrip then s.emit (.pin "THERMTRIP_N" true) else s
    else s
  s.drawn

/-- Nothing happens but that a nanosecond passes, where VAUX feeds the timebase (R471); a fuse write is then over. -/
def State.passTime (s : State) : State :=
  let s := if s.board.vaux then { s with clk := s.clk.tick, sec := { s.sec with fuse := none } } else s
  if s.board.vaux && s.board.pwrok && !s.board.thermtrip then s else s.boardActs

/-- The block with an empty queue (log 9). -/
def State.idle (s : State) : State :=
  match s.fetchTile with
  | some t => s.fetchNext t
  | none => s.passTime

end Sys2Proof.Machine
end

