-- ==== Sys2Proof/Safety.lean ====
section
/-! DEFINITION. Safety.lean: what counts as a safe step, the invariant of the block's state (memory and the pantry caches
stay in canonical form), and the terms in which statements say what a command changes and what it leaves. -/

namespace Sys2Proof.Safety

open Sys2Proof Sys2Proof.Machine

/-- A step that stops neither in a fault nor in a refusal. -/
def goesOn (o : Host.Outcome State Fault Refusal) : Prop := ∃ s', o = .next s'

/-- Memory of the state is canonical. -/
def Inv (s : State) : Prop := s.store.wf = true

/-! ## Frames -/

/-- Only tiles change, and of these only `t`. -/
def OnlyTile (s u : State) (t : Nat) : Prop :=
  u = { s with tiles := u.tiles } ∧ ∀ q, q ≠ t → u.tile q = s.tile q

/-- Only job contexts change, and of these only `j`. -/
def OnlyJob (s u : State) (j : Nat) : Prop :=
  u = { s with jobs := u.jobs } ∧ ∀ i, i ≠ j → u.job i = s.job i

/-- Only the live words of BAR2 change, and of these only the ones listed. -/
def OnlyBar2 (s u : State) (offs : List Nat) : Prop :=
  u = { s with bar2 := u.bar2 } ∧ ∀ o, o ∉ offs → u.bar2Word o = s.bar2Word o

/-! ## An instance of a stream -/

/-- The state as an instance finds it: shadow values of the sequencer's registers have taken effect (R10). -/
def due (s : State) (t : Nat) : State := s.modTile t (fun x => x.boundary .sq)

/-- An instance goes past the dispatch point: its sequencer can take it, no breakpoint stops it, its checks pass, its tag is
free and its predicate holds (R210, R227, R228, R236). -/
structure Goes (s : State) (t : Nat) (op : Op) (w : CmdWord) : Prop where
  ready : (s.tile t).ready = true
  noBreak : ((due s t).tile t).breaks w = true → ((due s t).tile t).skipBreak = true
  checks : (due s t).wordCheck t op w = none
  tagFree : w.tag ≠ 0#16 → (((due s t).tile t).tagAt w.tag).pending = false
  predicate : ((due s t).tile t).predicate w = true

/-- A tile past an instance: the next ordinal and word, no wait (R220, R236). -/
def past (x : Tile) : Tile :=
  { x with
    ordinal := (x.ordinal + 1) % 2 ^ 48
    pc := if x.xct.isSome then x.pc else x.pc + 32
    xct := none, skipBreak := false, wait := .none, held := none }

/-- The tag table once an instance has ended: the entry of its tag, if it has one (R228). -/
def tagged (x : Tile) (tag : BitVec 16) (e : TagEntry) : SMap TagEntry :=
  if tag = 0#16 then x.tags else SMap.set {} x.tags (tag.toNat % 64) e

/-- A tile after a command of its sequencer has retired DONE: its tag entry, one more in `SQ_RETIRED`, and past it. -/
def retired (x : Tile) (w : CmdWord) : Tile :=
  past ({ x with tags := tagged x w.tag ⟨w.tag, false, .done, stOK⟩ }.setReg .sq 0x10
    (setField 0#64 0 48 (fieldOf (x.reg .sq 0x10) 0 48 + 1)))

/-- An instance that goes past the dispatch point with a predicate that does not hold; a word reached through `XCT` passes the
checks that such a word undergoes all the same (R227, R244). -/
structure Skips (s : State) (t : Nat) (op : Op) (w : CmdWord) : Prop where
  ready : (s.tile t).ready = true
  noBreak : ((due s t).tile t).breaks w = true → ((due s t).tile t).skipBreak = true
  checks : (due s t).wordCheck t op w = none
  tagFree : w.tag ≠ 0#16 → (((due s t).tile t).tagAt w.tag).pending = false
  predicate : ((due s t).tile t).predicate w = false
  lateOk : ((due s t).tile t).xct = none ∨ (due s t).lateCheck t op w = none

/-- A tile past a skipped instance: its tag entry says SKIPPED, one more in `SQ_RETIRED` (R227, R228). -/
def skipped (x : Tile) (w : CmdWord) : Tile :=
  past ({ x with tags := tagged x w.tag ⟨w.tag, false, .skipped, stSkipped⟩ }.setReg .sq 0x10
    (setField 0#64 0 48 (fieldOf (x.reg .sq 0x10) 0 48 + 1)))

/-- No register write of a tile waits behind a `CFGW` held at its dispatch point (R240). -/
def NoneBehind (x : Tile) : Prop := ∀ y ∈ x.regWrites, y.behind = false

/-- The command that a word of an engine comes to at dispatch, where its operands are good and its checks pass (R214,
R243, R244). -/
def Dispatches (s : State) (t : Nat) (op : Op) (w : CmdWord) (c : EngineCmd) : Prop :=
  (due s t).mkCmd t ((due s t).tile t).jobOf op w = some c ∧ (due s t).cmdCheck t ((due s t).tile t).jobOf c = none

/-- No other command meets memory meanwhile, so that no access can breach R223. -/
def Alone (s : State) : Prop := s.races.trails = [] ∧ s.races.now = none

end Sys2Proof.Safety
end

