-- ==== Sys2Proof/Certificates/Slice0/Obligations.lean ====
section
/-! DEFINITION. Obligations.lean: what is to be proved of the model: the queue and the words of a stream, each family of
commands with its completion and its frame, and the invariants. -/

open Sys2Proof Sys2Proof.Machine Sys2Proof.Safety

/-! ## The queue, reset and words -/

/-- A step takes the command at the front of the queue and runs it on the state with the rest of the queue. -/
def Obligations.StepRunsFront : Prop :=
  ∀ (s : State) (c : Instr) (rest : List Instr), s.pending = c :: rest → step s = exec c { s with pending := rest }

/-- With an empty queue the lowest tile whose sequencer is ready puts its next word on the queue; with none ready, every supply
there and no slew under way the timebase goes on by one nanosecond, and a fuse write is over. Both are the model's choice (log 9).
Without VAUX the timebase stands still (R471); what the board does then is open (log 131). -/
def Obligations.IdleStep : Prop :=
  (∀ (s : State) (t : Nat) (op : Op) (w : CmdWord), s.pending = [] → s.fetchTile = some t →
    decodeWord (s.fetchWord t (s.tile t).nextAddr) = some (op, w) →
    step s = .next { s with pending := [streamInstr op t w] }) ∧
  (∀ (s : State), s.pending = [] → (∀ x ∈ s.tiles, x.2.ready = false) →
    (s.clk.slew = 0 → s.board.vaux = true → s.board.pwrok = true → s.board.thermtrip = false →
      step s = .next { s with clk := { s.clk with timebase := s.clk.timebase + 1 }, sec := { s.sec with fuse := none } }) ∧
    (s.board.vaux = false → ∃ u, step s = .next u ∧ u.clk = s.clk))

/-- The state right after device reset: an empty queue, every memory byte zero with nothing listed, no job context, no
tile in service, every slot of both ports empty and FREE, no session, the timebase and both BOOT_STATEs at 0, no hearth ready,
and every register of every tile's page at the reset value of its table. -/
def Obligations.ResetState : Prop :=
  let s := State.reset
  s.pending = [] ∧ s.store.mem = [] ∧ (∀ c pa, s.store.byte c pa = 0#8) ∧ (∀ j, s.job j = {}) ∧
  (∀ t, (s.tile t).avail = false ∧ (s.tile t).mode = .idle) ∧ (∀ p n, (s.slot p n).mode = .free) ∧
  s.portA.session = none ∧ s.portB.session = none ∧ s.clk.timebase = 0#64 ∧ s.sec.ready = false ∧
  (∀ h, (s.hearth h).bootState = 0) ∧ (∀ t e off r, regAt e off = some r → s.readReg t e off = r.reset)

/-! ## Sequencer commands (R216 to R229) -/

/-- Operand b of `ALU` and `CMP` as Table 8.6 gives it. -/
def Safety.operand (s : State) (t : Nat) (immb : Bool) (x : OpSlot) : BitVec 64 :=
  if immb then x.off.signExtend 64 else s.readSeq t (x.field 0 8)

/-- A command of the sequencer that writes register `n` with `v`: it retires DONE, the register holds the low bits of the
value, and nothing else changes but the tag entry, `SQ_RETIRED` and the way on. -/
def Safety.Writes (s u : State) (t : Nat) (w : CmdWord) (n : Nat) (v : BitVec 64) : Prop :=
  OnlyTile s u t ∧ u.tile t = retired (((due s t).tile t).writeSeq n v) w

/-- `SETI`, `MOV`, `ALU`, `CMP` and `STEP_GET` (R217, R218, R36): for every word that goes ahead, the value written.
`CMP` on integers (R218): the predicate register takes the relation, signed by default and unsigned under `UNS`. `CMP` on
FP64 values, under `FPC` (R218): with a NaN every relation but NE is false, and −0 is equal to +0. -/
def Obligations.SequencerWrites : Prop :=
  (∀ (s : State) (t : Nat) (w : CmdWord),
     let d := due s t
     let a := d.readSeq t (w.slot0.field 0 8)
     let b := Safety.operand d t (w.imm 12 1 = 1) w.slot1
     let does (c : Instr) (n : Nat) (v : BitVec 64) : Prop := ∃ u, exec c s = .next u ∧ Safety.Writes s u t w n v
     let r := w.imm 0 8
     (Goes s t .seti w → does (.seti t w) r (w.slot1.off ++ w.slot0.off)) ∧
     (Goes s t .mov w → does (.mov t w) r a) ∧
     (Goes s t .aluAdd w → does (.aluAdd t w) r (a + b)) ∧
     (Goes s t .aluSub w → does (.aluSub t w) r (a - b)) ∧
     (Goes s t .aluMul w → does (.aluMul t w) r (a * b)) ∧
     (Goes s t .aluAnd w → does (.aluAnd t w) r (a &&& b)) ∧
     (Goes s t .aluOr w → does (.aluOr t w) r (a ||| b)) ∧
     (Goes s t .aluXor w → does (.aluXor t w) r (a ^^^ b)) ∧
     (Goes s t .aluShl w → does (.aluShl t w) r (a <<< (b.toNat % 64))) ∧
     (Goes s t .aluShr w → does (.aluShr t w) r (a >>> (b.toNat % 64))) ∧
     (Goes s t .aluSar w → does (.aluSar t w) r (a.sshiftRight (b.toNat % 64))) ∧
     (Goes s t .aluMin w → does (.aluMin t w) r (if a.toInt ≤ b.toInt then a else b)) ∧
     (Goes s t .aluMax w → does (.aluMax t w) r (if a.toInt ≤ b.toInt then b else a)) ∧
     (Goes s t .aluMinu w → does (.aluMinu t w) r (if a.toNat ≤ b.toNat then a else b)) ∧
     (Goes s t .aluMaxu w → does (.aluMaxu t w) r (if a.toNat ≤ b.toNat then b else a)) ∧
     (Goes s t .stepGet w → does (.stepGet t w) (w.imm 0 5) (s.job (s.tile t).jobOf).step)) ∧
  (∀ (s : State) (t : Nat) (w : CmdWord), Goes s t .cmp w → w.imm 8 1 = 0 →
     let d := due s t
     let a := d.readSeq t (w.slot0.field 0 8)
     let b := Safety.operand d t (w.imm 7 1 = 1) w.slot1
     let x : Int := if w.imm 6 1 = 1 then (a.toNat : Int) else a.toInt
     let y : Int := if w.imm 6 1 = 1 then (b.toNat : Int) else b.toInt
     let holds : Bool := match w.imm 3 3 with
       | 0 => decide (x = y) | 1 => decide (x ≠ y) | 2 => decide (x < y) | 3 => decide (x ≤ y)
       | 4 => decide (y < x) | _ => decide (y ≤ x)
     ∃ u, exec (.cmp t w) s = .next u ∧ Safety.Writes s u t w (0x74 + w.imm 0 3) (if holds then 1#64 else 0#64)) ∧
  (∀ (s : State) (t : Nat) (w : CmdWord), Goes s t .cmp w → w.imm 8 1 = 1 →
     let d := due s t
     let x := decodeElem .fp64 (d.readSeq t (w.slot0.field 0 8)).toNat
     let y := decodeElem .fp64 (Safety.operand d t (w.imm 7 1 = 1) w.slot1).toNat
     let same : Bool := Val.eq x y
     let holds : Bool := if x.isNan || y.isNan then decide (w.imm 3 3 = 1) else match w.imm 3 3 with
       | 0 => same | 1 => !same | 2 => Val.lt x y | 3 => Val.lt x y || same | 4 => Val.lt y x | _ => Val.lt y x || same
     ∃ u, exec (.cmp t w) s = .next u ∧ Safety.Writes s u t w (0x74 + w.imm 0 3) (if holds then 1#64 else 0#64))

/-- Widths of sequencer registers (R216): a write takes the low bits of the value, a read zero-extends, and S, A and stride
values and deadlines are whole; sums, differences and products wrap; an A register gives its bits [47:0] as an address. -/
def Obligations.RegisterWidths : Prop :=
  (∀ (s : State) (t n : Nat) (v : BitVec 64),
    let u := s.modTile t (fun x => x.writeSeq n v)
    (n < 0x70 → u.readSeq t n = v) ∧
    (0x70 ≤ n ∧ n ≤ 0x73 → (u.readSeq t n).toNat = v.toNat % 2 ^ 32) ∧
    (0x74 ≤ n ∧ n ≤ 0x7B → (u.readSeq t n).toNat = v.toNat % 2) ∧
    (0x80 ≤ n ∧ n ≤ 0x8F → (u.readSeq t n).toNat = v.toNat % 16) ∧
    (0x91 ≤ n ∧ n ≤ 0x9F → u.readSeq t n = v) ∧
    (∀ m, m ≠ n → u.readSeq t m = s.readSeq t m) ∧ (∀ q, q ≠ t → ∀ m, u.readSeq q m = s.readSeq q m)) ∧
  (∀ a b : BitVec 64,
    (aluResult 0 a b).toNat = (a.toNat + b.toNat) % 2 ^ 64 ∧
    (aluResult 1 a b).toNat = (a.toNat + (2 ^ 64 - b.toNat)) % 2 ^ 64 ∧
    (aluResult 2 a b).toNat = a.toNat * b.toNat % 2 ^ 64) ∧
  (∀ (x : Tile) (d i : Nat), d < 4 → i < 16 → ((x.addStrides d).sreg (0x20 + i)).toNat =
    ((x.sreg (0x20 + i)).toNat + (x.sreg (0x30 + 4 * i + d)).toNat) % 2 ^ 64) ∧
  (∀ (base : Nat) (a : BitVec 64) (x : OpSlot), effective base a x = effective base (a &&& 0xFFFFFFFFFFFF#64) x)

/-- `NOP`, `WAIT`, `XCT`, `LOOP` and `ENDLOOP` (R220, R222, R225): each retires and goes on where the rules say, a loop
latching its count and the A registers at entry, adding strides each time its end is reached, and rewinding the A registers
its masks name when it is left.
`PSTAT` (R229): with the entry of its tag no longer pending it sets the predicate register by its test; an entry that
is pending keeps it waiting. One that waits is dispatched and has taken its own tag as pending (R228).
Any command whose predicate is false (R227): it is skipped, touches nothing, is counted, and its tag entry says SKIPPED. -/
def Obligations.SequencerFlow : Prop :=
  (∀ (s : State) (t : Nat) (w : CmdWord),
     let x := (due s t).tile t
     let does (c : Instr) (y : Tile) : Prop := ∃ u, exec c s = .next u ∧ OnlyTile s u t ∧ u.tile t = y
     let a := (due s t).seqAddr t w
     let n := (x.sreg (0x70 + x.loops.length)).toNat
     (Goes s t .nop w → does (.nop t w) (retired x w)) ∧
     (Goes s t .wait w → (∀ e, w.imm (engId e) 1 = 1 → e ≠ .sq → x.busy e = false) → does (.wait t w) (retired x w)) ∧
     (Goes s t .wait w → (∃ e, w.imm (engId e) 1 = 1 ∧ e ≠ .sq ∧ x.busy e = true) →
       does (.wait t w) { x with
         tags := tagged x w.tag ⟨w.tag, true, .none, 0#16⟩
         wait := .condition, held := some (.wait t w), skipBreak := true }) ∧
     (Goes s t .xct w → a % 32 = 0 → a < 0x400000 → does (.xct t w) { retired x w with xct := some a }) ∧
     (Goes s t .loop w → n ≠ 0 → does (.loop t w)
       { retired x w with loops := ⟨n, 0, (List.range 16).map (fun i => x.sreg (0x20 + i)), x.pc + 32⟩ :: x.loops }) ∧
     (∀ past_, Goes s t .loop w → n = 0 → (due s t).loopEnd t 131072 0 (x.pc + 32) = some past_ →
       does (.loop t w) { retired x w with pc := past_ }) ∧
     (∀ l ls, Goes s t .endloop w → x.loops = l :: ls → l.iter + 1 < l.count →
       does (.endloop t w)
         { retired (x.addStrides ls.length) w with pc := l.body, loops := { l with iter := l.iter + 1 } :: ls }) ∧
     (∀ l ls, Goes s t .endloop w → x.loops = l :: ls → l.count ≤ l.iter + 1 →
       does (.endloop t w) { (retired (x.addStrides ls.length) w).rewind ls.length l.entry with loops := ls })) ∧
  (∀ (s : State) (t : Nat) (w : CmdWord), Goes s t .pstat w →
     let tag := BitVec.ofNat 16 (w.slot0.field 0 16)
     let e := ((due s t).tile t).tagAt tag
     let v := w.slot1.field 0 16
     let holds : Bool := match w.imm 3 2 with
       | 0 => decide (e.status.toNat = v) | 1 => decide (e.status.toNat / 0x1000 = v % 16)
       | 2 => decide (e.outcome = .done) | _ => decide (e.outcome = .done ∨ e.outcome = .donePartial)
     (e.tag = tag → e.pending = false → (w.tag = 0#16 ∨ w.tag.toNat % 64 ≠ tag.toNat % 64) →
       ∃ u, exec (.pstat t w) s = .next u ∧ Safety.Writes s u t w (0x74 + w.imm 0 3) (if holds then 1#64 else 0#64)) ∧
     (e.pending = true → ∃ u, exec (.pstat t w) s = .next u ∧ OnlyTile s u t ∧
       u.tile t = { (due s t).tile t with
         tags := tagged ((due s t).tile t) w.tag ⟨w.tag, true, .none, 0#16⟩
         wait := .condition, held := some (.pstat t w), skipBreak := true })) ∧
  (∀ (s : State) (t : Nat) (op : Op) (w : CmdWord), Skips s t op w →
     ∃ u, exec (streamInstr op t w) s = .next u ∧ OnlyTile s u t ∧ u.tile t = skipped ((due s t).tile t) w)

/-- `LDS` (R219): an aligned address of a page that the job may read, whose block is neither poisoned nor undefined, gives
the S register its eight bytes, the lowest address lowest; no byte of memory changes.
`STS` (R219) to a page outside the caches: the eight bytes at the address take the S register, the block's check stays
what it was, and every other byte of memory keeps its value. -/
def Obligations.TileMemory : Prop :=
  (∀ (s : State) (t : Nat) (w : CmdWord) (pa : Nat) (c : Bool), Goes s t .lds w → Alone s →
     let a := (due s t).seqAddr t w
     a % 8 = 0 → s.translate (s.tile t).jobOf a false = .ok pa c → s.store.lost = none →
     s.store.poisonedAt c (pa / 4096) = false →
     ∃ u, exec (.lds t w) s = .next u ∧ u.tile t = retired (((due s t).tile t).writeSeq (w.imm 0 5)
         (BitVec.ofNat 64 (leNat ((List.range 8).map (fun i => s.store.byte c (pa + i)))))) w ∧
       (∀ q, q ≠ t → u.tile q = s.tile q) ∧ u = { s with tiles := u.tiles, races := u.races }) ∧
  (∀ (s : State) (t : Nat) (w : CmdWord) (pa : Nat), Goes s t .sts w → Alone s →
     let a := (due s t).seqAddr t w
     a % 8 = 0 → s.translate (s.tile t).jobOf a true = .ok pa false → s.store.lost = none →
     s.store.poisonedAt false (pa / 4096) = false → s.store.captures = [] → s.store.guardFull = false →
     ∃ u, exec (.sts t w) s = .next u ∧ u.tile t = retired ((due s t).tile t) w ∧ (∀ q, q ≠ t → u.tile q = s.tile q) ∧
       (∀ i, i < 8 → u.store.rawByte (pa + i) = BitVec.ofNat 8 ((((due s t).tile t).sreg (w.imm 0 5)).toNat / 2 ^ (8 * i))) ∧
       (∀ c q, (q < pa ∨ pa + 8 ≤ q) → u.store.byte c q = s.store.byte c q) ∧
       u.store.check (pa / 4096) = s.store.check (pa / 4096) ∧
       u = { s with tiles := u.tiles, store := u.store, races := u.races })

/-- The completion record at an item's place. -/
def Safety.recordAt (u : State) (r : ItemRef) : Record := SMap.get {} (u.slot r.port r.slot).records r.pos

/-- An item that was open has ended with its one record, and is open no longer (R296). -/
def Safety.Ends (s u : State) (r : ItemRef) (o : ItemOutcome) (st : Status) (tile : Nat) (detail : BitVec 64) : Prop :=
  r.pos ∈ (s.slot r.port r.slot).openItems →
    Safety.recordAt u r = ⟨o, st, tile, detail, s.now⟩ ∧ r.pos ∉ (u.slot r.port r.slot).openItems

/-- Nothing keeps the drain of a tile's `END` or `STEP_END` waiting: no engine command, no posted fabric operation and no
collective of its own (R39, R220). -/
def Safety.Drained (s : State) (t : Nat) : Prop :=
  (s.tile t).enginesIdle = true ∧ postedBy (s.job (s.tile t).jobOf) (postedIssuer t) = [] ∧
    (s.job (s.tile t).jobOf).colls.filter (coversColl t) = []

/-- `END` (R220, R235): on a drained tile the stream ends, its item ends DONE with `OK`, and the sequencer is idle; on a tile
whose engines still work it waits, its tag pending (R228).
`STEP_END` and the arrival at the barrier (R32, R39, R40): `STEP_END` drains its tile; with the step counter at its end
it halts the sequencer before that, with `RESOURCE_REFUSED`; a drained tile arrives, and the last arrival of a job's tiles
brings the job to phase 2. -/
def Obligations.StreamEnds : Prop :=
  (∀ (s : State) (t : Nat) (w : CmdWord), Goes s t .endStream w →
     let x := (due s t).tile t
     (Safety.Drained s t → ∃ u, exec (.endStream t w) s = .next u ∧
       u.tile t = { retired x w with mode := .idle, ended := true, streamItem := none } ∧
       (∀ q, q ≠ t → u.tile q = s.tile q) ∧ u.store = s.store ∧
       (∀ r, x.streamItem = some r → Safety.Ends s u r .done stOK t 0#64)) ∧
     ((s.tile t).enginesIdle = false → ∃ u, exec (.endStream t w) s = .next u ∧ OnlyTile s u t ∧
       u.tile t = { x with
         tags := tagged x w.tag ⟨w.tag, true, .none, 0#16⟩
         wait := .endDrain, held := some (.endStream t w), skipBreak := true })) ∧
  ((∀ (s : State) (t : Nat) (w : CmdWord), Goes s t .stepEnd w → (s.job (s.tile t).jobOf).step ≠ BitVec.allOnes 64 →
     ∃ u, exec (.stepEnd t w) s = .next u ∧ OnlyTile s u t ∧
       u.tile t = { (due s t).tile t with
         tags := tagged ((due s t).tile t) w.tag ⟨w.tag, true, .none, 0#16⟩
         wait := .stepDrain, held := some (.stepEnd t w), skipBreak := true }) ∧
   (∀ (s : State) (t : Nat) (w : CmdWord), Goes s t .stepEnd w → (s.job (s.tile t).jobOf).step = BitVec.allOnes 64 →
     (s.tile t).enginesIdle = true → NoneBehind (s.tile t) → ∃ u, exec (.stepEnd t w) s = .next u ∧
       (u.tile t).mode = .halted ∧ (u.tile t).wait = .none ∧ (∀ q, q ≠ t → u.tile q = s.tile q) ∧
       fieldOf ((u.tile t).reg .sq 0x20) 0 16 = stRefused.toNat ∧ (u.job (s.tile t).jobOf).step = BitVec.allOnes 64 ∧
       (∀ r, ((due s t).tile t).streamItem = some r → ∃ d, Safety.Ends s u r .failed stRefused t d)) ∧
   (∀ (s : State) (t : Nat) (w : CmdWord), (s.tile t).wait = .stepDrain → (s.tile t).held = some (.stepEnd t w) →
     Safety.Drained s t → ∃ u, exec (.tileArrive t) s = .next u ∧
       u.tile t = { s.tile t with wait := .arrived } ∧ (∀ q, q ≠ t → u.tile q = s.tile q) ∧
       ((s.job (s.tile t).jobOf).tiles ≠ [] → (∀ q ∈ (s.job (s.tile t).jobOf).tiles, q = t ∨ (s.tile q).wait = .arrived) →
         (u.job (s.tile t).jobOf).phase = 2)))

/-- No boundary action but the advance, the stop and the release has anything to do (Table 2.6). -/
def Safety.PlainBoundary (s : State) (j : Nat) : Prop :=
  s.store.lines = [] ∧ (s.job j).mirror = {} ∧ (s.job j).cut.state = 0 ∧ (s.job j).rotate = []

/-- Beside one job context only memory's own state may differ. -/
def Safety.OnlyJobOrStore (s u : State) (j : Nat) : Prop :=
  (∀ i, i ≠ j → u.job i = s.job i) ∧ u = { s with jobs := u.jobs, store := u.store }

/-- `STEP_BOUNDARY` completes (R32, R40, R42, R46): with every tile of the job arrived, and no delta of the boundary before still
on its way, the counter gains exactly 1; with no stop armed for that boundary (a `STOP_AT` of all ones arms none) every tile is
released, its `STEP_END` retired, and the job runs; with one armed the job stops, the stop's item ends DONE and the tiles stay at
the barrier. A boundary with nothing to write back, capture or rotate leaves memory as it is. One whose delta is on its way waits at
order 2, in phase 2, with the counter as it was. -/
def Obligations.StepAdvances : Prop :=
  ∀ (s : State) (j : Nat), s.allArrived j = true → ((s.job j).phase = 1 ∨ (s.job j).phase = 2) →
    (((s.job j).mirror.sending = true ∧ (s.job j).mirror.delta.isSome = true) → ∃ u, exec (.stepBoundary j) s = .next u ∧
      u.job j = { s.job j with phase := 2 } ∧ Safety.OnlyJobOrStore s u j) ∧
    (((s.job j).mirror.sending = false ∨ (s.job j).mirror.delta = none) →
    ∃ u, exec (.stepBoundary j) s = .next u ∧ (u.job j).step = (s.job j).step + 1#64 ∧
      (Safety.PlainBoundary s j → u.store = s.store) ∧
      (∀ i, i ≠ j → u.job i = s.job i) ∧ (∀ q, q ∉ (s.job j).tiles → u.tile q = s.tile q) ∧
      (((s.job j).stopAt ≠ (s.job j).step + 1#64 ∨ (s.job j).step + 1#64 = BitVec.allOnes 64) → (u.job j).phase = 1 ∧
        (u.job j).stopAt = (s.job j).stopAt ∧
        (∀ t w, t ∈ (s.job j).tiles → (s.tile t).held = some (.stepEnd t w) →
          (u.tile t).wait = .none ∧ (u.tile t).held = none ∧ (u.tile t).ordinal = ((s.tile t).ordinal + 1) % 2 ^ 48 ∧
          (w.imm 5 1 = 1 → (u.tile t).sreg (w.imm 0 5) = (s.job j).step + 1#64) ∧
          (w.imm 5 1 = 0 → (u.tile t).seqRegs = (s.tile t).seqRegs))) ∧
      ((s.job j).stopAt = (s.job j).step + 1#64 → (s.job j).step + 1#64 ≠ BitVec.allOnes 64 → (u.job j).phase = 3 ∧
        (u.job j).stopAt = BitVec.allOnes 64 ∧ (∀ t, u.tile t = s.tile t) ∧
        (∀ r, (s.job j).stopItem = some r → Safety.Ends s u r .done stOK 0xFFFF 0#64)))

/-! ## Engine commands (R221, R222, R111, R233) -/

/-- Every command of an engine, dispatched to an idle engine (R221): the tile takes its tag as pending and goes past it, a
`UE_RUN` latches its step number in `UE_STEP`, and the engine starts the command as it was read at dispatch. The FP64 engine
is not free for a DMM while a solver command of the tile runs, nor the solver engine while the FP64 engine works (R26, R149).
Every command of an engine, dispatched to a busy engine (R221): with its pending slot empty it enters that, and dispatch
goes on; with the slot full it is held at the dispatch point. Nothing else changes. -/
def Obligations.EngineDispatch : Prop :=
  (∀ (s : State) (t : Nat) (op : Op) (w : CmdWord) (c : EngineCmd), op.engine ≠ .sq → Goes s t op w → Dispatches s t op w c →
     (s.tile t).unitFree op.engine = true → ((s.tile t).eng op.engine).pending = none →
     ∃ (d u : State), exec (streamInstr op t w) s = .next u ∧ u = d.start t c ∧ c.op = op ∧ c.w = w ∧
       c.step = (s.job (s.tile t).jobOf).step ∧
       d.tile t = { past ((due s t).tile t) with
         tags := tagged ((due s t).tile t) w.tag ⟨w.tag, true, .none, 0#16⟩ }.latchStep c ∧
       (∀ q, q ≠ t → d.tile q = s.tile q) ∧ d = { s with tiles := d.tiles, races := d.races }) ∧
  (∀ (s : State) (t : Nat) (op : Op) (w : CmdWord), op.engine ≠ .sq → Goes s t op w →
     let x := (due s t).tile t
     (∀ c, Dispatches s t op w c → x.unitFree op.engine = false → (x.eng op.engine).pending = none →
       ∃ u, exec (streamInstr op t w) s = .next u ∧
         u.tile t = ({ past x with tags := tagged x w.tag ⟨w.tag, true, .none, 0#16⟩ }.latchStep c).setEng op.engine
           { (x.eng op.engine) with pending := some c } ∧
         (∀ q, q ≠ t → u.tile q = s.tile q) ∧ u = { s with tiles := u.tiles, races := u.races }) ∧
     ((x.eng op.engine).pending.isSome = true →
       ∃ u, exec (streamInstr op t w) s = .next u ∧ OnlyTile s u t ∧
         u.tile t = { x with wait := .dispatch, held := some (streamInstr op t w) }))

/-- `COMMAND_RETIRE` (R111, R222, R228): a command whose work and straggler passes are done leaves its engine; its outcome
and status enter its tag entry, its flags are ORed into `ENG_FLAGS` and written to `LAST`, `SQ_RETIRED` gains 1, and the
pending command, memory and every other engine keep what they hold. -/
def Obligations.CommandRetires : Prop :=
  ∀ (s : State) (t : Nat) (e : Engine) (run : Running) (r : CmdResult), e ≠ .sq → run.cmd.op.engine = e →
    s.runningOf t e = some run → run.stage = .ready r → run.passesLeft = 0 → r.regs = [] → r.sres = [] →
    (r.outcome = .failed → haltsOn r.status = false) → (s.tile t).wait = .none → (s.tile t).haltPending = none →
    (s.tile t).shadow = [] → (s.job (s.tile t).jobOf).unmapItems = [] → s.cascadeOf t e = none →
    ∃ u, exec (.commandRetire t e) s = .next u ∧
      (u.tile t).eng e = { ((s.tile t).eng e) with running := none } ∧ (∀ f, f ≠ e → (u.tile t).eng f = (s.tile t).eng f) ∧
      (u.tile t).tags = tagged (s.tile t) run.cmd.w.tag ⟨run.cmd.w.tag, false, r.outcome, r.status⟩ ∧
      fieldOf ((u.tile t).reg e 0x00) 0 4 = (fieldOf ((s.tile t).reg e 0x00) 0 4 ||| r.flags.toNat) ∧
      fieldOf ((u.tile t).reg e 0x00) 8 4 = r.flags.toNat ∧
      fieldOf ((u.tile t).reg .sq 0x10) 0 48 = (fieldOf ((s.tile t).reg .sq 0x10) 0 48 + 1) % 2 ^ 48 ∧
      (u.tile t).ordinal = (s.tile t).ordinal ∧ (u.tile t).seqRegs = (s.tile t).seqRegs ∧ (u.tile t).mode = (s.tile t).mode ∧
      u.store = s.store ∧ (∀ q, q ≠ t → u.tile q = s.tile q) ∧ (∀ i, u.job i = s.job i)

/-- A command that FAILED with a status of class 1, 3, 4, 6 or 7 halts its sequencer when it retires (R233): with no other
engine command of the tile the halt takes effect at once, naming the command's stream address, ordinal and tag, and the
stream's item ends FAILED with the status. -/
def Obligations.FailureHalts : Prop :=
  ∀ (s : State) (t : Nat) (e : Engine) (run : Running) (r : CmdResult), e ≠ .sq → run.cmd.op.engine = e →
    s.runningOf t e = some run → ((s.tile t).eng e).pending = none → (∀ f, f ≠ e → (s.tile t).eng f = {}) →
    run.stage = .ready r → run.passesLeft = 0 → r.outcome = .failed → haltsOn r.status = true → r.status ≠ stBreakHit →
    (s.tile t).engines = SMap.set {} [] (engId e) ((s.tile t).eng e) →
    (s.tile t).mode = .running → (s.tile t).haltPending = none → (s.tile t).seqBusy = false → s.cascadeOf t e = none →
    NoneBehind (s.tile t) →
    ∃ u, exec (.commandRetire t e) s = .next u ∧ (u.tile t).mode = .halted ∧ (u.tile t).ended = true ∧
      fieldOf ((u.tile t).reg .sq 0x20) 0 16 = r.status.toNat ∧
      fieldOf ((u.tile t).reg .sq 0x20) 16 22 = run.cmd.addr % 2 ^ 22 ∧
      fieldOf ((u.tile t).reg .sq 0x28) 0 48 = run.cmd.ordinal % 2 ^ 48 ∧
      fieldOf ((u.tile t).reg .sq 0x28) 48 16 = run.cmd.w.tag.toNat ∧
      (∀ x, (s.tile t).streamItem = some x → ∃ d, Safety.Ends s u x .failed r.status t d)


/-! ## Registers (R9 to R13, R112, R217, R239, R251, R487, R491) -/

/-- `CFGR` reads a register of the tile's own page into an S register; `CFGW`, with its engine's pending slot empty, makes
the write that the register's access codes allow, and retires DONE where that is accepted (R217, R239). -/
def Obligations.ConfigCommands : Prop :=
  ∀ (s : State) (t : Nat) (w : CmdWord) (e : Engine) (off : Nat), cfgTarget w = (some e, off) →
    let d := due s t
    (Goes s t .cfgr w →
      ∃ u, exec (.cfgr t w) s = .next u ∧ Safety.Writes s u t w (w.imm 0 5) (d.readReg t e off)) ∧
    (Goes s t .cfgw w → ((s.tile t).eng e).pending = none → (d.writeReg t e off ((d.tile t).sreg (w.imm 0 5))).1 = stOK →
      ∃ u, exec (.cfgw t w) s = .next u ∧ OnlyTile s u t ∧
        u.tile t = retired ((d.writeReg t e off ((d.tile t).sreg (w.imm 0 5))).2.tile t) w) ∧
    (Goes s t .cfgw w → ((s.tile t).eng e).pending.isSome = true →
      ∃ u, exec (.cfgw t w) s = .next u ∧ OnlyTile s u t ∧
        u.tile t = { d.tile t with wait := .dispatch, held := some (.cfgw t w) })

/-- Every register of the page of a tile, but the one at an offset of an engine, holds what it held. -/
def Safety.OtherRegs (s u : State) (t : Nat) (e : Engine) (off : Nat) : Prop :=
  ∀ e' off', off' < 256 → (e' ≠ e ∨ off' ≠ off) → (u.tile t).reg e' off' = (s.tile t).reg e' off'

/-- The access codes on one register of each kind: `ENG_FLAGS` clears the flags written as 1 and keeps `LAST` (W1C); the
peek selector takes what is written (RW) and `SQ_PEEK` shows the register it selects; a halt register keeps its value (RO);
a breakpoint register takes a write at once on an idle sequencer, and on a running one keeps it in its shadow, which the
alias shows, until the next boundary (RWS); a static register keeps its value while its stream is under way, and the write
answers BUSY; an offset that names nothing changes nothing (R9, R10, R13, R112, R487, R491).
Committed registers (R11, R487): writes of the two staging registers of the tile mover are staged and shown by their
aliases while a read gives the committed values; the write of `ENG_GEN` commits both at once and adds 1 to the count, which
wraps at 2^32. No other register and no other tile changes.
Writes outside the tiles' pages (R251, R282, R284): a region register of a pantry is staged, and `PAN_GEN` commits it and
counts; while a job that owns a region of the die is there the region keeps its value and the write answers BUSY; the control
register of BAR4 sets its size (log 125); bit 2 of a port's command word is Bus Master
Enable; the address association of an IDE stream takes what is written (log 131). A word of the MSI-X table takes what is
written, each bit 32 of a vector's second word being its mask, where the write reaches the block (R463); a write of 4 bytes is
that of the word with that half replaced (R486); any other write to BAR2 changes nothing. -/
def Obligations.RegisterWrites : Prop :=
  ((∀ (s : State) (t : Nat) (e : Engine) (v : BitVec 64), s.pageHere t e = true →
      (e ≠ .sq → ∃ u, exec (.engFlagsWrite t e v false) s = .next u ∧ OnlyTile s u t ∧ Safety.OtherRegs s u t e 0 ∧
        u.readReg t e 0 = s.readReg t e 0 &&& ~~~(v &&& 15#64)) ∧
      (e = .sq → ∃ u, exec (.registerWrite (.page t e 0xB0) v) s = .next u ∧ OnlyTile s u t ∧ Safety.OtherRegs s u t e 0xB0 ∧
        (u.readReg t e 0xB0).toNat = v.toNat % 256 ∧ u.readReg t e 0x30 = s.readSeq t (v.toNat % 256)) ∧
      (e = .sq → ∃ u, exec (.registerWrite (.page t e 0x20) v) s = .next u ∧ OnlyTile s u t ∧
        (∀ off, off < 256 → (u.tile t).reg e off = (s.tile t).reg e off) ∧ Safety.OtherRegs s u t e 0x20) ∧
      (e = .sq → (s.tile t).mode ≠ .running → ∃ u, exec (.rwsWrite t e 0x80 v) s = .next u ∧ OnlyTile s u t ∧
        Safety.OtherRegs s u t e 0x80 ∧ (u.readReg t e 0x80).toNat = v.toNat % 2 ^ 48 ∧
        (u.readReg t e 0x40).toNat = v.toNat % 2 ^ 48) ∧
      (e = .sq → (s.tile t).mode = .running → (s.tile t).shadow = [] → ∃ u, exec (.rwsWrite t e 0x80 v) s = .next u ∧
        OnlyTile s u t ∧ (∀ off, off < 256 → (u.tile t).reg e off = (s.tile t).reg e off) ∧
        (u.readReg t e 0x40).toNat = v.toNat % 2 ^ 48 ∧
        (((u.tile t).boundary .sq).reg e 0x80).toNat = v.toNat % 2 ^ 48) ∧
      (e = .sq → (s.tile t).started = true → (s.tile t).ended = false →
        exec (.rwcWrite t e 0x90 v) s = .next (s.emit (.returned stBusy))) ∧
      (∀ off, regNamed e off = false → exec (.registerWrite (.page t e off) v) s = .next s)) ∧
   (∀ (s : State) (t : Nat) (a b c : BitVec 64), s.pageHere t .tm = true → (s.tile t).staged = [] →
      ∃ s1 s2 u : State, exec (.rwcWrite t .tm 0x80 a) s = .next s1 ∧ exec (.rwcWrite t .tm 0x88 b) s1 = .next s2 ∧
        exec (.engGenWrite t .tm c) s2 = .next u ∧
        s2.readReg t .tm 0x80 = s.readReg t .tm 0x80 ∧ s2.readReg t .tm 0x88 = s.readReg t .tm 0x88 ∧
        (s2.readReg t .tm 0x40).toNat = a.toNat % 2 ^ 22 ∧ (s2.readReg t .tm 0x48).toNat = b.toNat % 2 ^ 22 ∧
        (u.readReg t .tm 0x80).toNat = a.toNat % 2 ^ 22 ∧ (u.readReg t .tm 0x88).toNat = b.toNat % 2 ^ 22 ∧
        (u.readReg t .tm 0xF8).toNat = ((s.readReg t .tm 0xF8).toNat % 2 ^ 32 + 1) % 2 ^ 32 ∧
        OnlyTile s u t ∧ (u.tile t).staged = [] ∧
        (∀ e off, off < 256 → (e ≠ .tm ∨ (off ≠ 0x80 ∧ off ≠ 0x88 ∧ off ≠ 0xF8)) →
          (u.tile t).reg e off = (s.tile t).reg e off))) ∧
  ((∀ (s : State) (d n : Nat) (v c : BitVec 64), d < 8 → n < 16 → s.pantryBusy d = false → s.store.panStaged = [] →
     ∃ s1 u : State, exec (.registerWrite (.pantry d n) v) s = .next s1 ∧
       exec (.registerWrite (.pantryGen d) c) s1 = .next u ∧ s1.store.panRegs = s.store.panRegs ∧
       SMap.get 0#24 u.store.panRegs (16 * d + n) = BitVec.ofNat 24 v.toNat ∧
       (∀ k, k ≠ 16 * d + n → SMap.get 0#24 u.store.panRegs k = SMap.get 0#24 s.store.panRegs k) ∧
       SMap.get 0 u.store.panGen d = (SMap.get 0 s.store.panGen d + 1) % 2 ^ 32 ∧
       u = { s with store := { s.store with panRegs := u.store.panRegs, panGen := u.store.panGen } }) ∧
   (∀ (s : State) (d n : Nat) (v : BitVec 64), d < 8 → n < 16 → s.pantryBusy d = true →
     exec (.registerWrite (.pantry d n) v) s = .next (s.emit (.returned stBusy)) ∧
     ∃ u, exec (.registerWrite (.pantryGen d) v) s = .next u ∧
       SMap.get 0 u.store.panGen d = (SMap.get 0 s.store.panGen d + 1) % 2 ^ 32 ∧
       u = { s with store := { s.store with panRegs := u.store.panRegs, panStaged := u.store.panStaged, panGen := u.store.panGen } }) ∧
   (∀ (s : State) (p : Port) (v : BitVec 64),
     let n := v.toNat / 256 % 64
     (10 ≤ n → n ≤ 18 → ∃ u, exec (.registerWrite (.barSize p) v) s = .next u ∧
       u = s.setPort p { s.portOf p with barGib := 2 ^ (n - 10) }) ∧
     ((n < 10 ∨ 18 < n) → exec (.registerWrite (.barSize p) v) s = .next s)) ∧
   (∀ (s : State) (p : Port) (v : BitVec 64), ∃ u, exec (.registerWrite (.command p) v) s = .next u ∧
     u = s.setPort p { s.portOf p with busMaster := v.getLsbD 2 }) ∧
   (∀ (s : State) (p : Port) (n : Nat) (v : BitVec 64), n < 4 →
     (∃ u, exec (.registerWrite (.ideBase p n) v) s = .next u ∧
       SMap.get {} (u.portOf p).ide n = { SMap.get {} (s.portOf p).ide n with base := v } ∧
       (∀ i, i ≠ n → SMap.get {} (u.portOf p).ide i = SMap.get {} (s.portOf p).ide i) ∧
       u = s.setPort p { s.portOf p with ide := (u.portOf p).ide }) ∧
     (∃ u, exec (.registerWrite (.ideLimit p n) v) s = .next u ∧
       SMap.get {} (u.portOf p).ide n = { SMap.get {} (s.portOf p).ide n with limit := v } ∧
       (∀ i, i ≠ n → SMap.get {} (u.portOf p).ide i = SMap.get {} (s.portOf p).ide i) ∧
       u = s.setPort p { s.portOf p with ide := (u.portOf p).ide })) ∧
   (∀ (s : State) (p : Port) (k : Nat) (stream : Option Nat) (v : BitVec 64), k < 128 → (k % 2 = 0 ∨ v.getLsbD 32 = true) →
     s.tlpPasses p stream = true →
     ∃ u, exec (.registerWrite (.bar2 p (0xF0000 + 8 * k) false stream) v) s = .next u ∧
       SMap.get 0#64 (u.portOf p).msixTable k = (if k % 2 = 1 then v ^^^ 0x100000000#64 else v) ∧
       (∀ i, i ≠ k → SMap.get 0#64 (u.portOf p).msixTable i = SMap.get 0#64 (s.portOf p).msixTable i) ∧
       u = s.setPort p { s.portOf p with msixTable := (u.portOf p).msixTable }) ∧
   (∀ (s : State) (p : Port) (off : Nat) (stream : Option Nat) (v : BitVec 64), 0xF0000 ≤ off → off < 0xF0400 → off % 4 = 0 →
     ∃ x : BitVec 64, (∀ i, i < 64 → x.getLsbD i = if i / 32 = off % 8 / 4 then v.getLsbD (i % 32)
         else (s.pageWord p (off / 8 * 8)).getLsbD i) ∧
       exec (.registerWrite (.bar2 p off true stream) v) s = exec (.registerWrite (.bar2 p (off / 8 * 8) false stream) x) s) ∧
   (∀ (s : State) (p : Port) (off : Nat) (half : Bool) (stream : Option Nat) (v : BitVec 64),
     (off < 0xF0000 ∨ 0xF0400 ≤ off ∨ off % (if half then 4 else 8) ≠ 0 ∨ s.tlpPasses p stream = false) →
     exec (.registerWrite (.bar2 p off half stream) v) s = .next s))

/-! ## Events of the engines and sequencers -/

/-- A queued matrix command of a tile has pushed tiles, each once, in some order, the last one marked, and is done (R127). -/
def Safety.PushesAll (s u : State) (t : Nat) (tiles : List (Nat × Nat × Nat)) (run : Running) (r : CmdResult) (passes : Nat) : Prop :=
  ∃ es : List FtEntry,
    (es.map (fun e => (ftField e 0 16, ftField e 16 16, ftField e 32 32))).Perm tiles ∧
    (∀ i e, es[i]? = some e → ftField e 64 16 = 0 ∧ ftField e 80 16 = run.cmd.w.tag.toNat ∧ ftField e 97 1 = 0 ∧
      (ftField e 96 1 = 1 ↔ i + 1 = tiles.length)) ∧
    u.tile t = { (s.tile t).setEng .me { ((s.tile t).eng .me) with
      running := some { run with stage := .ready r, passesLeft := passes } } with ftq := (s.tile t).ftq ++ es } ∧
    (∀ q, q ≠ t → u.tile q = s.tile q) ∧ u = { s with tiles := u.tiles, fresh := u.fresh }

/-- The events of an engine's command and of the dispatch point (R103, R221, R222, R231): `PENDING_START` starts the pending
command of an idle engine; `DISPATCH_RESUME` issues again the instance held there, and makes the register writes that
waited behind it (R240); `CHUNK_END` counts a chunk and
`STRAGGLER_PASS` ends one pass of the running command, its state intact; the last pass of a queued matrix command with room in the
queue pushes the tiles that the passes held, once each, the last one marked (R127). -/
def Obligations.EngineEvents : Prop :=
  ∀ (s : State) (t : Nat) (e : Engine),
    (∀ c, (s.tile t).unitFree e = true → ((s.tile t).eng e).pending = some c → (∀ x ∈ (s.tile t).regWrites, x.eng ≠ e) →
      ∃ (d u : State), exec (.pendingStart t e) s = .next u ∧ u = d.start t c ∧ OnlyTile s d t ∧
        d.tile t = (s.tile t).setEng e { ((s.tile t).eng e) with pending := none }) ∧
    (∀ op w, (s.tile t).wait = .dispatch → (s.tile t).held = some (streamInstr op t w) →
      ∃ u, exec (streamInstr op t w) (s.modTile t (fun x => { x with wait := .none, held := none })) = .next u ∧
        exec (.dispatchResume t) s = .next (u.regWritesBehind t)) ∧
    ((s.tile t).wait ≠ .dispatch → exec (.dispatchResume t) s = .next s) ∧
    (∀ r, s.runningOf t e = some r →
      (∃ u, exec (.chunkEnd t e) s = .next u ∧ OnlyTile s u t ∧ u.tile t = (s.tile t).setEng e
        { ((s.tile t).eng e) with running := some { r with chunks := r.chunks + 1 } }) ∧
      ((2 ≤ r.passesLeft ∨ ∀ left x xs q, r.stage ≠ .queue left (x :: xs) q) →
        ∃ u, exec (.stragglerPass t e) s = .next u ∧ OnlyTile s u t ∧ u.tile t = (s.tile t).setEng e
          { ((s.tile t).eng e) with running := some { r with passesLeft := r.passesLeft - 1 } }) ∧
      (∀ left late q, e = .me → r.stage = .queue left late q → late ≠ [] → r.passesLeft ≤ 1 → q.outcome ≠ .failed →
        (∀ x ∈ left ++ late, x.1 < 2 ^ 16 ∧ x.2.1 < 2 ^ 16 ∧ x.2.2 < 2 ^ 32) →
        (s.tile t).ftq.length + (left ++ late).length ≤ 16 →
        ∃ u, exec (.stragglerPass t e) s = .next u ∧ Safety.PushesAll s u t (left ++ late) r q 0))

/-- A command whose operands are bad, or whose run-time checks fail, is not dispatched: with the engines idle the sequencer
halts with the status, and the stream's item ends FAILED with it (R233, R235, R244).
A word that is no command of the device halts its sequencer with `ILLEGAL_OPCODE` (R210): the idle step, on a tile whose
engines are idle.
`BREAK_HIT` (R235, R236): an instance that matches a breakpoint halts its sequencer at the dispatch point once every
engine of the tile is idle. The halt names the instance by address, ordinal and tag; the stream does not end, nothing of it
is dispatched, memory is untouched, and the break position gets its record. -/
def Obligations.WordsHalt : Prop :=
  ((∀ (s : State) (t : Nat) (op : Op) (w : CmdWord) (st : Status), op.engine ≠ .sq → Goes s t op w →
      ((s.tile t).eng op.engine).pending = none → (s.tile t).enginesIdle = true → NoneBehind (s.tile t) →
      (((due s t).mkCmd t ((due s t).tile t).jobOf op w = none ∧ st = stDescBad) ∨
        (∃ c, (due s t).mkCmd t ((due s t).tile t).jobOf op w = some c ∧
          (due s t).cmdCheck t ((due s t).tile t).jobOf c = some st)) → st ≠ stBreakHit →
      ∃ u, exec (streamInstr op t w) s = .next u ∧ (u.tile t).mode = .halted ∧ (u.tile t).ended = true ∧
        fieldOf ((u.tile t).reg .sq 0x20) 0 16 = st.toNat ∧ fieldOf ((u.tile t).reg .sq 0x28) 48 16 = w.tag.toNat ∧
        (u.tile t).tags = (s.tile t).tags ∧ (u.tile t).ordinal = (s.tile t).ordinal ∧ u.store = s.store ∧
        (∀ q, q ≠ t → u.tile q = s.tile q) ∧
        (∀ r, (s.tile t).streamItem = some r → ∃ d, Safety.Ends s u r .failed st t d)) ∧
   (∀ (s : State) (t : Nat), s.pending = [] → s.fetchTile = some t → (s.tile t).ready = true → (s.tile t).enginesIdle = true →
      NoneBehind (s.tile t) → decodeWord (s.fetchWord t (s.tile t).nextAddr) = none →
      ∃ u, step s = .next u ∧ (u.tile t).mode = .halted ∧ fieldOf ((u.tile t).reg .sq 0x20) 0 16 = stIllegal.toNat ∧
        u.store = s.store ∧ u.jobs = s.jobs ∧ (∀ q, q ≠ t → u.tile q = s.tile q))) ∧
  (∀ (s : State) (t : Nat) (op : Op) (w : CmdWord), (s.tile t).wait = .dispatch → (s.tile t).held = some (streamInstr op t w) →
     (s.tile t).haltPending = none → (s.tile t).mode = .running → (s.tile t).breaks w = true → (s.tile t).skipBreak = false →
     (s.tile t).enginesIdle = true → NoneBehind (s.tile t) →
     ∃ u, exec (.breakHit t) s = .next u ∧ (u.tile t).mode = .halted ∧ (u.tile t).ended = (s.tile t).ended ∧
       (u.tile t).pc = (s.tile t).pc ∧ (u.tile t).xct = (s.tile t).xct ∧ (u.tile t).ordinal = (s.tile t).ordinal ∧
       (u.tile t).tags = (s.tile t).tags ∧ (u.tile t).seqRegs = (s.tile t).seqRegs ∧
       fieldOf ((u.tile t).reg .sq 0x20) 0 16 = stBreakHit.toNat ∧
       fieldOf ((u.tile t).reg .sq 0x20) 16 22 = (s.tile t).nextAddr % 2 ^ 22 ∧
       fieldOf ((u.tile t).reg .sq 0x28) 0 48 = (s.tile t).ordinal % 2 ^ 48 ∧
       fieldOf ((u.tile t).reg .sq 0x28) 48 16 = w.tag.toNat ∧ u.store = s.store ∧ u.jobs = s.jobs ∧
       (∀ q, q ≠ t → u.tile q = s.tile q) ∧
       (∀ r, (s.tile t).breakItem = some r → Safety.recordAt u r =
         ⟨.done, stBreakHit, t, setField (BitVec.ofNat 64 ((s.tile t).ordinal % 2 ^ 48)) 48 16 w.tag.toNat, s.now⟩))

/-- An engine's page fault (R249, R186): for a deferred page and a frame left in the job's pool, `TRANSLATION_FAULT` maps
the page to the pool's first frame, filled with zeros, and the command waits resolved; which frame it is, and that the pool keeps
the others in their order, is the model's choice (log 16). With no frame left, or at a page that is not deferred, a command of the
tile mover fails with the status of that name at the address, and one of the vector, reduction or update engine has done the chunks
before that one, in the plan that the model gives it (log 129); `FAULT_RESTART` then runs the command's work again from its start, one more restart counted. -/
def Obligations.PageFaults : Prop :=
  ∀ (s : State) (t : Nat) (e : Engine) (run : Running) (va : Nat) (wr : Bool), e ≠ .sq → s.runningOf t e = some run →
    let j := (s.tile t).jobOf
    let page := va % 2 ^ 48 / 0x200000
    let pe := SMap.get {} (s.job j).pages page
    (∀ f rest, run.stage = .fault va wr → run.restarts < 4 → pe.mapped = false → pe.defer = true →
      (s.job j).pool = f :: rest →
      ∃ u, exec (.translationFault t e) s = .next u ∧
        u.tile t = (s.tile t).setEng e { ((s.tile t).eng e) with running := some { run with stage := .resolved } } ∧
        (∀ q, q ≠ t → u.tile q = s.tile q) ∧ SMap.get {} (u.job j).pages page = { pe with mapped := true, frame := f } ∧
        (∀ p, p ≠ page → SMap.get {} (u.job j).pages p = SMap.get {} (s.job j).pages p) ∧ (u.job j).pool = rest ∧
        (∀ c i, i < 0x200000 → u.store.byte c (f * 0x200000 + i) = 0#8) ∧
        (∀ c q, (q < f * 0x200000 ∨ (f + 1) * 0x200000 ≤ q) → u.store.byte c q = s.store.byte c q)) ∧
    (run.stage = .fault va wr → run.cmd.op.engine = e → (pe.mapped = true ∨ pe.defer = false ∨ (s.job j).pool = []) →
      (e = .tm → ∃ u x, exec (.translationFault t e) s = .next u ∧ OnlyTile s u t ∧
        u.tile t = (s.tile t).setEng e { ((s.tile t).eng e) with
          running := some { run with stage := .ready { failResult stTranslation va with elem := x }, passesLeft := 0 } }) ∧
      ((e = .ve ∨ e = .ru ∨ e = .ue) →
        let k := s.keepChunks t run.cmd stTranslation va
        exec (.translationFault t e) s = .next (k.2.setRunning t e (some (run.move (k.1.noSats run.cmd) []))) ∧
        ∃ r, k.1 = .ready r)) ∧
    (run.stage = .resolved → run.cmd.op.engine = e → (e = .ve ∨ e = .ru ∨ e = .ue ∨ e = .tm) →
      ∃ (d u : State), exec (.faultRestart t e) s = .next u ∧ u = d.rework t e { run with restarts := run.restarts + 1 } ∧
        OnlyTile s d t ∧ (∀ off, restartReg e = some off →
          fieldOf ((d.tile t).reg e off) 0 48 = min (2 ^ 48 - 1) (fieldOf ((s.tile t).reg e off) 0 48 + 1)))

/-- `CASCADE_START` (R135, R136, R140): nothing happens while a cascade of the id runs on the die or every master that waits
lacks a member its mask names; the first master whose members have all come starts; a member that is lost makes every other command of a DMM cascade fail with `TILE_LOST`; else
the cascade registers show the roles, and the master's command starts over all members. -/
def Obligations.CascadeStarts : Prop :=
  ∀ (s : State) (e : Engine) (die cid : Nat),
    let first := (s.cascadeMasters e die cid).find? (fun m => m.2.2.2)
    ((s.cascadeActive e die cid = true ∨ first = none) → exec (.cascadeStart e die cid) s = .next s) ∧
    (∀ (t : Nat) (r : Running) (ts : List Nat) (b : Bool), s.cascadeActive e die cid = false → first = some (t, r, ts, b) →
      let c := s.cascadeCmd t r.cmd
      let here := ts.filter (fun q => (s.tile q).avail)
      ∃ (d u : State), exec (.cascadeStart e die cid) s = .next u ∧ d = { s with tiles := d.tiles } ∧
        (∀ q, q ∉ ts → d.tile q = s.tile q) ∧
        (∀ q, q ∈ ts → d.tile q = (s.tile q).showCascade e cid (if q = t then 1 else 2) (cascMask c)) ∧
        ((∀ q ∈ ts, (s.tile q).avail = true) → e = .se → (d.startSolverCascade t r ts).store.guardFull = false →
          u = d.startSolverCascade t r ts) ∧
        ((∀ q ∈ ts, (s.tile q).avail = true) → e ≠ .se → (d.startMatCascade t e r ts).store.guardFull = false →
          u = d.startMatCascade t e r ts) ∧
        (e = .de → here ≠ ts → (∀ q ∈ here, ∀ x, s.runningOf q .de = some x → x.cmd.op.engine = .de ∧ x.stage = .cascade) →
          u.store = s.store ∧ ∀ q ∈ here, ∀ x, s.runningOf q .de = some x →
            (u.runningOf q .de) = some { x with stage := .ready (failResult stTileLost 0), passesLeft := 0 }))

/-- `QUEUE_RESUME` and `EPI_TILE` at the finished-tile queue (R127, R128, R129, R190): with room for all that is left, a
queued matrix command pushes each of its remaining output tiles once, in some order, the last one marked, and is done; with
no room it waits as before. A terminal entry ends the epilogue: DONE where the entry carries `OK`, DONE_PARTIAL else.
`FORWARD_RESUME` (R153): a DSU command that forwards puts its further groups of results into the buffer of 64 groups, in
their order, as far as there is room, and is done once the last is in.
`WAIT_DEADLINE_PASSED` (R329): the timebase is at or past the deadline of a `FB_WAIT` or `FB_RECV` that waits, and its
work is tried at that time; for any other state of the tile mover nothing happens. -/
def Obligations.EngineContinues : Prop :=
  ((∀ (s : State) (t : Nat) (run : Running) (left : List (Nat × Nat × Nat)) (r : CmdResult), s.runningOf t .me = some run →
     run.stage = .queue left [] r → r.outcome ≠ .failed → left ≠ [] → (∀ x ∈ left, x.1 < 2 ^ 16 ∧ x.2.1 < 2 ^ 16 ∧ x.2.2 < 2 ^ 32) →
     (s.tile t).ftq.length + left.length ≤ 16 →
     ∃ u, exec (.queueResume t) s = .next u ∧ Safety.PushesAll s u t left run r (min run.passesLeft r.passes)) ∧
   (∀ (s : State) (t : Nat) (run : Running) (left late : List (Nat × Nat × Nat)) (r : CmdResult), s.runningOf t .me = some run →
     run.stage = .queue left late r → left ≠ [] → 16 ≤ (s.tile t).ftq.length →
     ∃ u, exec (.queueResume t) s = .next u ∧ OnlyTile s u t ∧ (u.tile t).ftq = (s.tile t).ftq ∧
       u.runningOf t .me = some { run with passesLeft := min run.passesLeft r.passes, full := true }) ∧
   (∀ (s : State) (t : Nat) (run : Running) (done : Nat) (r : CmdResult) (e : FtEntry) (rest : List FtEntry) (d x : Desc),
     s.runningOf t .ve = some run → run.stage = .epilogue done r → (s.tile t).ftq = e :: rest → ftField e 97 1 = 1 →
     (s.tile t).epi = none → run.cmd.s3.desc = some d → run.cmd.s0.desc = some x → Alone s → s.store.guardFull = false →
     ∃ u, exec (.epiTile t) s = .next u ∧ OnlyTile s u t ∧ (u.tile t).ftq = rest ∧
       u.runningOf t .ve = some { run with passesLeft := r.passes, stage := .ready (if ftField e 64 16 = 0 then r
         else { r with outcome := .donePartial, status := stPartial }) })) ∧
  (∀ (s s' : State) (t next : Nat) (run : Running) (r : CmdResult) (rs : List Result), s.runningOf t .dsu = some run →
     s.runningOf t .ve = none → run.stage = .forward next r →
     s.dsuResults (s.tile t).jobOf run.cmd = .ok (rs, none) s' → s'.tile t = s.tile t →
     let groups := groupsOf (forwardValues run.cmd.w.mode rs).1
     let now := (groups.drop next).take (64 - (s.tile t).fwd.length)
     ∃ u, exec (.forwardResume t) s = .next u ∧ (u.tile t).fwd = (s.tile t).fwd ++ now ∧
       u.runningOf t .dsu = some { run with
         stage := if groups.length ≤ next + now.length then .ready r else .forward (next + now.length) r
         passesLeft := if groups.length ≤ next + now.length then r.passes else 0 } ∧ u.store = s'.store) ∧
  (∀ (s : State) (t : Nat),
     (∀ run, s.runningOf t .tm = some run → run.stage = .fabric → (run.cmd.op = .fbWait ∨ run.cmd.op = .fbRecv) →
       run.cmd.w.dsel ≠ 0#8 →
       ∃ (d u : State), exec (.waitDeadlinePassed t) s = .next u ∧ u = d.rework t .tm run ∧
         d.now.toNat = max s.now.toNat run.cmd.deadline.toNat ∧
         d = { s with clk := { s.clk with timebase := d.clk.timebase } }) ∧
     (s.runningOf t .tm = none → exec (.waitDeadlinePassed t) s = .next s))

/-! ## Numbers (R60 to R80, R91, R107, R181) -/

/-- Storing a finite value that a format holds gives back its encoding, in every rounding mode and with no flag (R60 to R64,
R76, R77): the floating-point formats, subnormals and both zeros, and the integer formats. -/
def Obligations.ExactStorage : Prop :=
  ∀ (f : Fmt) (b : Nat) (rd : Round), f ≠ .fx192 → f ≠ .mxInt8 → b < 2 ^ f.bits → (decodeElem f b).isFinite = true →
    (narrow f (decodeElem f b) rd).bits = b ∧ (narrow f (decodeElem f b) rd).flags = 0#4

/-- The one rounding of an exact number that does not saturate (R74 to R78, R91): under RNE no finite element is nearer to
it, RTZ gives no larger magnitude, RUP nothing below it, RDN nothing above it; NX says whether the result differs. -/
def Obligations.RoundingDirection : Prop :=
  ∀ (f : Fmt) (q : Q) (mode r : Nat) (sat : Bool), f ≠ .fx192 → q.num ≠ 0 → 0 < q.den →
    let n := narrow f (.fin q) ⟨mode, sat, r⟩
    let v := (decodeElem f n.bits).q
    n.kind ≠ .saturated →
    (mode = 0 → ∀ b, (decodeElem f b).isFinite = true →
      Q.le (Q.sub v q).abs (Q.sub (decodeElem f b).q q).abs = true) ∧
    (mode = 1 → Q.le v.abs q.abs = true) ∧ (mode = 2 → Q.le q v = true) ∧ (mode = 3 → Q.le v q = true) ∧
    (Q.eq v q = true ↔ n.flags &&& flagNX = 0#4)

/-- The result of an exact sum does not depend on the order in which its addends come: in every format and mode it is
stored as the same bits with the same flags (R90, R91, R106, R107). -/
def Obligations.SumOrder : Prop :=
  ∀ (vs ws : List (Val × Flags)) (mode : Nat), vs.Perm ws → (∀ v ∈ vs, 0 < v.1.q.den) →
    (sumExact mode vs).2 = (sumExact mode ws).2 ∧
    ∀ (f : Fmt) (rd : Round), narrow f (sumExact mode vs).1 rd = narrow f (sumExact mode ws).1 rd

/-- Exact sums of zero (R107): −0 under RDN and +0 under every other mode; −0 in every mode where every addend is −0; +0 where
there is no addend. -/
def Obligations.ZeroSums : Prop :=
  ∀ (mode : Nat) (vs : List Val), (∀ v ∈ vs, v.isFinite = true ∧ 0 < v.q.den) →
    let sum := vs.foldl (fun q v => Q.add q v.q) Q.zero
    let v := (sumExact mode (vs.map (fun v => (v, 0#4)))).1
    (vs = [] → v = .zero false) ∧
    (vs ≠ [] → (∀ x ∈ vs, x = .zero true) → v = .zero true) ∧
    (vs ≠ [] → (∃ x ∈ vs, x ≠ .zero true) → sum.isZero = true → v = .zero (decide (mode = 3))) ∧
    (∀ (f : FloatFmt) (rd : Round) (neg : Bool), (narrowFloat f (.zero neg) rd).bits = f.signBit neg)

/-- Conversions to integer destinations saturate whatever `SAT` says (R78): a NaN becomes 0, an infinity and a result out of
range become the bound on their side, each with NV; for an unsigned destination a negative result that rounds to a non-zero
integer becomes 0 with NV; every other result is stored as it rounds, without NV. -/
def Obligations.IntegerConversion : Prop :=
  ∀ (f : Fmt) (lo hi : Int) (rd : Round), f.intRange = some (lo, hi) → f ≠ .mxInt8 →
    let stored (v : Val) (x : Int) (nv : Bool) : Prop :=
      let n := narrow f v rd
      n.bits < 2 ^ f.bits ∧ decodeElem f n.bits = Val.ofQ (Q.ofInt x) false ∧ decide (n.flags &&& flagNV ≠ 0#4) = nv
    (∀ sig, stored (.nan sig) 0 true) ∧
    stored (.inf false) hi true ∧ stored (.inf true) lo true ∧
    (∀ q : Q, q.num ≠ 0 → 0 < q.den →
      let m := Q.over q 0
      let x : Int := if q.num < 0 then -(roundMag rd.mode true rd.r m.1 m.2 : Int) else roundMag rd.mode false rd.r m.1 m.2
      (x < lo → stored (.fin q) lo true) ∧ (hi < x → stored (.fin q) hi true) ∧
      (lo ≤ x → x ≤ hi → stored (.fin q) x false) ∧ (f.isSignedInt = false → x < 0 → stored (.fin q) 0 true))

/-- A floating-point vector command whose operands are scalars and whose destination is one FP64 element of a checked page
outside the caches (R180 to R182, R74, R262): the element takes the operation's exact result rounded once, the block's check is
that of its bytes, no other byte of memory changes, and the command stands ready to retire DONE with the flags. -/
def Obligations.VectorOnScalars : Prop :=
  ∀ (s : State) (t : Nat) (op : Op) (w : CmdWord) (c : EngineCmd) (d : Desc) (x y z : BitVec 64) (pa : Nat),
    (op = .veAdd ∨ op = .veSub ∨ op = .veMul ∨ op = .veFma ∨ op = .veMax ∨ op = .veMin ∨ op = .veAbs ∨ op = .veCvt) →
    Goes s t op w → Dispatches s t op w c → ((s.tile t).eng .ve).running = none → ((s.tile t).eng .ve).pending = none →
    Alone s → c.s0 = .scalar x → (op ≠ .veAbs → op ≠ .veCvt → c.s1 = .scalar y) → (op = .veFma → c.s2 = .scalar z) → c.s3 = .tensor d → c.mask = none →
    w.flag 4 = false → w.mode < 4 → d.fmt = 0 → d.skind = 0 → d.calPtr = 0 → d.ckpol = 0 → d.ext = [1] →
    s.translate (s.tile t).jobOf (d.addr 0) true = .ok pa false → s.store.lost = none →
    SMap.get false s.store.poison (pa / 4096) = false → SMap.get none s.store.stale (pa / 4096) = none →
    s.store.captures = [] → s.store.guardFull = false →
    let v (b : BitVec 64) : Val := decodeElem .fp64 b.toNat
    let r := veResult op w.mode (v x) (v y) (if op = .veFma then v z else .zero false)
    let n := narrow .fp64 r.1 ⟨w.mode, w.flag 3, 0⟩
    ∃ u, exec (streamInstr op t w) s = .next u ∧
      (∀ i, i < 8 → u.store.rawByte (pa + i) = BitVec.ofNat 8 (n.bits / 2 ^ (8 * i))) ∧
      (∀ k q, (q < pa ∨ pa + 8 ≤ q) → u.store.byte k q = s.store.byte k q) ∧
      u.store.check (pa / 4096) = blockCheck u.store.mem (pa / 4096) ∧
      (∃ g b, u.runningOf t .ve =
        some ⟨{ c with staging := g, began := s.now }, .ready { okResult with flags := r.2 ||| n.flags }, 0, 0, 0, false, b⟩) ∧
      (u.tile t).tags = tagged (s.tile t) w.tag ⟨w.tag, true, .none, 0#16⟩ ∧
      (∀ q, q ≠ t → u.tile q = s.tile q) ∧ u = { s with tiles := u.tiles, store := u.store, races := u.races }

/-! ## Words of a stream (R209 to R211) -/

/-- A slot whose bits are all 0. -/
def Safety.noSlot : OpSlot := ⟨0#4, 0#12, 0#32⟩

/-- Words written out from Tables 8.1 to 8.3: `SETI` of register 5 with an immediate of two slots; a predicated `VE_ADD` with
a descriptor, a scalar and a mask; a tracked compare-and-swap; and words of no command, by an engine that does not own the
opcode, an unassigned opcode and a reserved engine (R210). -/
def Obligations.EncodedWords : Prop :=
  decodeWord 0x008000000000000000010000FFFFFFFF00000000000000000000000000050007#256 =
    some (.seti, ⟨false, false, 0#3, 0#5, 0#8, ⟨0#4, 0#12, 1#32⟩, ⟨0#4, 0#12, 0xFFFFFFFF#32⟩, Safety.noSlot, Safety.noSlot,
      5#16, 7#16⟩) ∧
  decodeWord 0x400E2B002123000000400FFF0000000300000000000004560000000030018001#256 =
    some (.veAdd, ⟨true, false, 1#3, 0x0B#5, 0#8, ⟨2#4, 0x123#12, 0x40#32⟩, ⟨0#4, 0xFFF#12, 3#32⟩, Safety.noSlot,
      ⟨0#4, 0x456#12, 0#32⟩, 0x3001#16, 0x8001#16⟩) ∧
  decodeWord 0x70A01000000000000E091000000000080FFF000000040FFF0000000500060002#256 =
    some (.fbAtomicCas, ⟨false, false, 0#3, 0x10#5, 0#8, ⟨0#4, 0#12, 0xE09#32⟩, ⟨1#4, 0#12, 8#32⟩, ⟨0#4, 0xFFF#12, 4#32⟩,
      ⟨0#4, 0xFFF#12, 5#32⟩, 6#16, 2#16⟩) ∧
  decodeWord 0x4010000000000000000000000000000000000000000000000000000000000000#256 = none ∧
  decodeWord 0x0480000000000000000000000000000000000000000000000000000000000000#256 = none ∧
  decodeWord 0x1024000000000000000000000000000000000000000000000000000000000000#256 = none

/-- Decoding the word of a legal command gives the command back with every field, and a word that decodes is the one its
command encodes (R209, R210): no bit of a word is dropped, and no two commands share a word. -/
def Obligations.WordRoundTrip : Prop :=
  (∀ (op : Op) (w : CmdWord), wordLegal op w = true → decodeWord (encodeWord op w) = some (op, w)) ∧
  (∀ (b : BitVec 256) (op : Op) (w : CmdWord), decodeWord b = some (op, w) → encodeWord op w = b)

/-! ## Memory keeps its form -/

/-- Memory at reset is canonical. -/
def Obligations.InvReset : Prop := Inv State.reset

/-- Memory and the pantry caches stay in canonical form through every command of the block, and through every step, the idle
ones too: from every state with canonical memory the next state has it too. The form is the model's own, for the bytes that the
spec gives the memories. -/
def Obligations.MemoryCanonical : Prop :=
  (∀ (c : Instr) (s u : State), Inv s → exec c s = .next u → Inv u) ∧
  (∀ (s u : State), Inv s → step s = .next u → Inv u)

/-! ## The host's window, memory and its background (R256 to R270, R401, R440) -/

/-- A block of the cellar that is whole: its bytes are what its check was made from, and nothing has poisoned it. -/
def Safety.Whole (s : State) (blk : Nat) : Prop :=
  s.store.lost = none ∧ SMap.get false s.store.poison blk = false ∧ SMap.get none s.store.stale blk = none

/-- `BAR4_READ` and `BAR4_WRITE` (R246, R262, R266, R285, R449, R463): with Skeka ready a read of whole blocks completes with
their bytes, and a write within one whole block stores its bytes with a new check, every other byte as it was; before that,
or beyond the window, the access is unsupported; a write that finds no free guard slot waits, and so does every access and
seal that comes behind it on its port (R286, R414); in recovery a write goes to the boot buffer; under the IDE lock a write
on no secure stream is dropped, and a read is unsupported. That a waiting write keeps what comes behind it on its port, and what
BAR4 answers before Skeka is ready, are the model's readings (logs 28, 83). -/
def Obligations.HostWindow : Prop :=
  ∀ (s : State) (p : Port) (addr : Nat),
    (∀ len enc, (s.portOf p).posted = [] → s.tlpPasses p enc = true → s.recovering p = false → s.sec.ready = true →
      addr + len ≤ s.windowSize p → Alone s →
      (∀ b ∈ blockRun addr len, Safety.Whole s b ∧ s.cacheBreach false b = false) →
      ∃ u, exec (.bar4Read p addr len enc) s = .next u ∧
        u = { s with
          out := s.out ++ [.completion p ((List.range len).map (fun i => s.store.rawByte (addr + i))) false]
          races := u.races }) ∧
    (∀ data enc, (s.portOf p).posted = [] → s.tlpPasses p enc = true → s.recovering p = false → s.sec.ready = true →
      addr + data.length ≤ s.windowSize p → Alone s → data ≠ [] → addr % 4096 + data.length ≤ 4096 →
      Safety.Whole s (addr / 4096) → s.cacheBreach true (addr / 4096) = false → s.store.captures = [] →
      s.store.guardFull = false →
      ∃ u, exec (.bar4Write p addr data enc) s = .next u ∧
        (∀ i, i < data.length → u.store.rawByte (addr + i) = data.getD i 0#8) ∧
        (∀ q, (q < addr ∨ addr + data.length ≤ q) → u.store.rawByte q = s.store.rawByte q) ∧
        Safety.Whole u (addr / 4096) ∧ u.store.lines = s.store.lines ∧ u.store.cacheMem = s.store.cacheMem ∧
        u = { s with store := u.store, races := u.races }) ∧
    (∀ data enc, (s.portOf p).posted = [] → s.tlpPasses p enc = true → s.recovering p = false → s.sec.ready = true →
      addr + data.length ≤ s.windowSize p → Alone s → data ≠ [] → addr % 4096 + data.length ≤ 4096 →
      Safety.Whole s (addr / 4096) → s.store.guardFull = false → (s.store.guard (addr / 65536)).guardFull = true →
      ∃ u, exec (.bar4Write p addr data enc) s = .next u ∧ (u.portOf p).posted = [.write addr data enc] ∧
        u.store = { s.store with guardWaits := min 0xFFFFFFFF (s.store.guardWaits + 1) } ∧
        u = (s.withStore u.store).setPort p { s.portOf p with posted := (u.portOf p).posted }) ∧
    (∀ x : HostAccess, (s.portOf p).posted ≠ [] →
      (match x with
        | .read a n enc => exec (.bar4Read p a n enc) s
        | .write a d enc => exec (.bar4Write p a d enc) s
        | .seal n hdr body word => exec (.sealWrite p n hdr body word) s) =
      .next (s.setPort p { s.portOf p with posted := (s.portOf p).posted ++ [x] })) ∧
    (∀ len data enc, (s.portOf p).posted = [] → s.tlpPasses p enc = true → s.recovering p = false →
      (s.sec.ready = false ∨ s.windowSize p < addr + len) → (s.sec.ready = false ∨ s.windowSize p < addr + data.length) →
      exec (.bar4Read p addr len enc) s = .next (s.emit (.unsupported p)) ∧
      exec (.bar4Write p addr data enc) s = .next (s.emit (.unsupported p))) ∧
    (∀ data enc, (s.portOf p).posted = [] → s.tlpPasses p enc = true → s.recovering p = true → addr + data.length ≤ bufferEnd →
      ∃ u, exec (.bar4Write p addr data enc) s = .next u ∧
        (∀ i, i < data.length → SMap.get 0#8 (u.hearth (hearthOf p)).buffer (addr + i) = data.getD i 0#8) ∧
        (∀ q, (q < addr ∨ addr + data.length ≤ q) →
          SMap.get 0#8 (u.hearth (hearthOf p)).buffer q = SMap.get 0#8 (s.hearth (hearthOf p)).buffer q) ∧
        u = s.setHearth (hearthOf p) { s.hearth (hearthOf p) with buffer := (u.hearth (hearthOf p)).buffer }) ∧
    (∀ data enc, (s.portOf p).posted = [] → s.tlpPasses p enc = false → exec (.bar4Write p addr data enc) s = .next s) ∧
    (∀ len enc, (s.portOf p).posted = [] → s.tlpPasses p enc = false →
      exec (.bar4Read p addr len enc) s = .next (s.emit (.unsupported p)))

/-- The background of memory (R256, R257, R259, R267, R280): refreshes change nothing that a command can see; a scrub counts a
corrected word, and poisons the block of one that it cannot correct, or drops a clean line of a pantry cache; mapping out the first pseudo-channel poisons every block
that it holds, and a second one every block that touches it, for good, as the model takes it of every later one too (log 66). No
byte changes. Scrubbing pauses in Doze and below (R441). Every cellar address lies at one place
of one pseudo-channel, and every such place holds one address (R255). -/
def Obligations.MemoryBackground : Prop :=
  ∀ (s : State),
    (∀ pc bank, exec (.refresh pc bank) s = .next s ∧ exec (.refreshManagement pc bank) s = .next s) ∧
    (∀ a l, exec (.scrub a l .clean) s = .next s) ∧
    (∀ a l o, 2 ≤ s.clk.powerState → exec (.scrub a l o) s = .next s) ∧
    (∀ a l, s.clk.powerState < 2 → ∃ u, exec (.scrub a l .corrected) s = .next u ∧
      let m := if l then 1 else memoryOf a
      fieldOf (SMap.get 0#64 u.store.memErr m) 0 32 = min (2 ^ 32 - 1) (fieldOf (SMap.get 0#64 s.store.memErr m) 0 32 + 1) ∧
      u = { s with store := { s.store with memErr := u.store.memErr } }) ∧
    (∀ a, (SMap.get {} s.store.lines (a / 4096)).present = true → s.clk.powerState < 2 →
      ∃ u, exec (.scrub a true .uncorrectable) s = .next u ∧
      ((SMap.get {} s.store.lines (a / 4096)).dirty = false →
        (SMap.get {} u.store.lines (a / 4096)).present = false ∧ u.store.poison = s.store.poison) ∧
      ((SMap.get {} s.store.lines (a / 4096)).dirty = true → u.store.poisonedAt true (a / 4096) = true) ∧
      fieldOf (SMap.get 0#64 u.store.memErr 1) 32 16 = min (2 ^ 16 - 1) (fieldOf (SMap.get 0#64 s.store.memErr 1) 32 16 + 1) ∧
      u.store.mem = s.store.mem ∧ u.jobs = s.jobs ∧ u.tiles = s.tiles) ∧
    (∀ a, s.clk.powerState < 2 → ∃ u, exec (.scrub a false .uncorrectable) s = .next u ∧
      u.store.poisonedAt false (a / 4096) = true ∧
      (∀ b, b ≠ a / 4096 → SMap.get false u.store.poison b = SMap.get false s.store.poison b) ∧
      fieldOf (SMap.get 0#64 u.store.memErr (memoryOf a)) 32 16 =
        min (2 ^ 16 - 1) (fieldOf (SMap.get 0#64 s.store.memErr (memoryOf a)) 32 16 + 1) ∧
      u.store.mem = s.store.mem ∧ u.store.stale = s.store.stale ∧ u.jobs = s.jobs ∧ u.tiles = s.tiles) ∧
    (∀ pc, s.store.mapped = none → s.store.later = [] → ∃ u, exec (.pcMapout pc) s = .next u ∧ u.store.mapped = some pc ∧
      (∀ b, b < 0x4000000 → blockTouches none b pc = true → u.store.poisonedAt false b = true) ∧
      u.store.mem = s.store.mem ∧ u.store.stale = s.store.stale ∧ u.jobs = s.jobs ∧ u.tiles = s.tiles) ∧
    (∀ pc f, s.store.mapped = some f → pc ≠ f → pc ∉ s.store.later → ∃ u, exec (.pcMapout pc) s = .next u ∧
      u.store.mapped = some f ∧ u.store.later = s.store.later ++ [pc] ∧
      (∀ b, b < 0x4000000 → blockTouches (some f) b pc = true → u.store.poisonedAt false b = true ∧ u.store.stuck b = true) ∧
      u.store.mem = s.store.mem ∧ u.jobs = s.jobs ∧ u.tiles = s.tiles) ∧
    (∀ pc, s.store.mapped = some pc → exec (.pcMapout pc) s = .next s) ∧
    (∀ pa, pa < 2 ^ 38 → (cellarPlace pa).1 < 256 ∧ (cellarPlace pa).2 < 2 ^ 30 ∧
      cellarAddress (cellarPlace pa).1 (cellarPlace pa).2 = pa) ∧
    (∀ p a, p < 256 → a < 2 ^ 30 → cellarAddress p a < 2 ^ 38 ∧ cellarPlace (cellarAddress p a) = (p, a))

/-! ## Power and time (R425 to R439, R478) -/

/-- Housekeeping, saturation and advisories (R269, R270, R401, R440, R486): a slice publishes every register of the status pages
as it reads at that moment, and the journal is compacted (log 5); a window adds its time to the level's counter; an advisory
condition sets its own bit, and clears it unless the state shows the condition still true.
The governor, the sensors and landings (R305, R425, R428, R433, R434, R469): the ceiling falls by 25 MHz, to 350 at the least, over the
limit or while hot, rises by 25 where the rise fits and nothing is warm, to 700 at the most, and else stays, and the VTILE
regulator is written only with steps of 5 mV within 0.60 to 0.85 V (R469; at most 100 mV a tick, log 109); the sensors take
their samples and keep their highest, but those of a die that is lost or powered down, and below Ready; a stretched clock is counted; a landing is counted, and one that stays silent is the
fault of what it serves: a hearth is lost with its port; that a silent pantry is the failure of the package, as a silent spine is by
R396, is the model's choice (log 88). -/
def Obligations.Housekeeping : Prop :=
  (∀ (s : State),
     (s.inReset = false → s.clk.powerState ≠ 4 → ∃ u, exec .housekeepingSlice s = .next u ∧
       (s.sec.ready = true → ∀ p off, off ∈ bar2Offsets → u.pageWord p off = s.bar2Live p off) ∧
       u = { s with published := u.published, journal := u.journal }) ∧
     (∀ level ns above below, s.inReset = false → level < 6 → ∃ u, exec (.satLevel level ns above below) s = .next u ∧
       (u.bar2Word (0x100 + 8 * level)).toNat = min (2 ^ 64 - 1) ((s.bar2Word (0x100 + 8 * level)).toNat + ns) ∧
       (ns < 250000 → ∀ o, o ≠ 0x100 + 8 * level → u.bar2Word o = s.bar2Word o) ∧
       u.store = s.store ∧ u.jobs = s.jobs ∧ u.tiles = s.tiles) ∧
     (∀ b, b < 11 → ∃ u, exec (.ckptAdvisory b) s = .next u ∧ fieldOf (u.bar2Word 0x800) b 1 = 1 ∧
       (∀ k, k < 11 → k ≠ b → fieldOf (u.bar2Word 0x800) k 1 = fieldOf (s.bar2Word 0x800) k 1) ∧
       u.store = s.store ∧ u.jobs = s.jobs ∧ u.tiles = s.tiles) ∧
     (∀ b, s.warned b = true → exec (.advisoryClear b) s = .next s) ∧
     (∀ b, b < 11 → s.warned b = false → ∃ u, exec (.advisoryClear b) s = .next u ∧ fieldOf (u.bar2Word 0x800) b 1 = 0 ∧
       (∀ k, k < 11 → k ≠ b → fieldOf (u.bar2Word 0x800) k 1 = fieldOf (s.bar2Word 0x800) k 1) ∧ OnlyBar2 s u [0x800])) ∧
  (∀ (s : State), s.inReset = false →
     (∀ power tp, ∃ u, exec (.governorTick power tp) s = .next u ∧
       ((s.clk.limit < power ∨ s.clk.hot = true) → u.clk.ceil = max (s.clk.ceil - 25) 350) ∧
       (power < s.clk.limit → s.clk.hot = false → s.clk.warm = false → s.clk.ceil < 700 →
         tp * 25 < (s.clk.limit - power) * s.clk.ceil → u.clk.ceil = s.clk.ceil + 25) ∧
       (power ≤ s.clk.limit → s.clk.hot = false → (power = s.clk.limit ∨ s.clk.warm = true ∨ 700 ≤ s.clk.ceil ∨
         (s.clk.limit - power) * s.clk.ceil ≤ tp * 25) → u.clk.ceil = s.clk.ceil) ∧
       (u.bar2Word 0xA18).toNat =
         (if s.clk.ceil < 700 then min (2 ^ 64 - 1) ((s.bar2Word 0xA18).toNat + 10000) else (s.bar2Word 0xA18).toNat) ∧
       (600 ≤ s.board.vtile → s.board.vtile ≤ 850 → s.board.vtile % 5 = 0 → 600 ≤ u.board.vtile ∧ u.board.vtile ≤ 850 ∧
         u.board.vtile % 5 = 0 ∧ u.board.vtile ≤ s.board.vtile + 100 ∧ s.board.vtile ≤ u.board.vtile + 100) ∧
       u.out = s.out ++ (if u.board.vtile = s.board.vtile then [] else [.pmbus 0x40 u.board.vtile]) ∧
       u = { s with
         clk := u.clk, bar2 := u.bar2, board := { s.board with vtile := u.board.vtile }, out := u.out, fresh := s.fresh + 1 } ∧
       (∀ o, o ≠ 0xA18 → o ≠ 0xA10 → u.bar2Word o = s.bar2Word o)) ∧
     (∀ temps, 2 ≤ s.clk.powerState → exec (.tempSample temps) s = .next s) ∧
     (∀ temps, temps.length = 20 → s.clk.powerState < 2 → ∃ u, exec (.tempSample temps) s = .next u ∧
       (∀ n, n < 20 → SMap.get 0#16 u.clk.temps n = if s.sensed n then temps.getD n 0#16 else SMap.get 0#16 s.clk.temps n) ∧
       (∀ n, n < 20 → degrees (SMap.get 0#16 u.clk.tempMax n) = if s.sensed n then
         max (degrees (SMap.get 0#16 s.clk.tempMax n)) (degrees (temps.getD n 0#16)) else degrees (SMap.get 0#16 s.clk.tempMax n)) ∧
       (u.clk.hot = true ↔ ∃ x ∈ u.clk.temps, 1520 ≤ degrees x.2) ∧ u.store = s.store ∧ u.jobs = s.jobs ∧ u.tiles = s.tiles) ∧
     (∀ t mhz, ∃ u, exec (.clockStretch t mhz) s = .next u ∧
       fieldOf (u.bar2Word 0xA20) 0 48 = min (2 ^ 48 - 1) (fieldOf (s.bar2Word 0xA20) 0 48 + 1) ∧
       u.clk.minMhz = min s.clk.minMhz (min (max mhz 600) s.clk.ceil) ∧
       u = { s with clk := { s.clk with minMhz := u.clk.minMhz }, bar2 := u.bar2 }) ∧
     (∀ i planned, ∃ u, exec (.landingResync i planned) s = .next u ∧
       fieldOf (u.bar2Word 0xA38) (if planned then 0 else 32) 32 =
         min (2 ^ 32 - 1) (fieldOf (s.bar2Word 0xA38) (if planned then 0 else 32) 32 + 1) ∧
       fieldOf (u.bar2Word 0xA38) (if planned then 32 else 0) 32 = fieldOf (s.bar2Word 0xA38) (if planned then 32 else 0) 32 ∧
       OnlyBar2 s u [0xA38]) ∧
     (∀ t, ∃ u, exec (.landingTimeout (.tile t)) s = .next u ∧ exec (.tileFault t) s = .next u) ∧
     (∀ p, ∃ u, exec (.landingTimeout (.porch p)) s = .next u ∧ exec (.porchFault p) s = .next u) ∧
     (∀ i k, (i = .pantry k ∨ i = .spine k) → ∃ u, exec (.landingTimeout i) s = .next u ∧ u.sec.failed = true) ∧
     (∀ h, h ≠ s.sec.active → s.sec.standbyOk = true → (s.hearth h).alive = true → ∃ u v : State, exec (.landingTimeout (.hearth h)) s = .next u ∧ exec .standbyLost v = .next u ∧
       (v.portOf (portOfHearth h)).lost = true ∧ (v.portOf (portOfHearth h)).linkUp = false ∧ v.sec = s.sec ∧ v.jobs = s.jobs ∧
       v.tiles = s.tiles ∧ v.store = s.store ∧ v.fab = s.fab ∧ v.pair = s.pair))

/-- Power states (R437 to R439): idle tiles bring the package to Ready; work, a seal or a signal wakes it to Run, out of Nap and
Sleep with tile stores and pantry filled with zeros, of which Table 15.7 gives the tile stores and scratchpad frames on the exit from
Nap, and the exit from Sleep and the rest of the pantry are the model's (log 81); after Sleep the other hearth runs as standby again. -/
def Obligations.PowerStates : Prop :=
  ∀ (s : State),
    (s.inReset = false → s.clk.powerState = 0 → (∀ x ∈ s.tiles, s.quietTile x.1 = true) →
      exec .enterReady s = .next { s with clk := { s.clk with powerState := 1 } }) ∧
    ((s.inReset = true ∨ s.clk.powerState ≠ 0 ∨ ∃ x ∈ s.tiles, s.quietTile x.1 = false) → exec .enterReady s = .next s) ∧
    (∀ cause, s.wakes cause = true → ∃ u, exec (.wake cause) s = .next u ∧ u.clk = { s.clk with powerState := 0 } ∧
      (s.clk.powerState < 3 → u.store = s.store) ∧
      (3 ≤ s.clk.powerState → ∀ c q, (inTiles q = true ∨ inPantry q = true) → u.store.byte c q = 0#8) ∧
      (3 ≤ s.clk.powerState → ∀ c q, inCellar q = true → u.store.byte c q = s.store.byte c q) ∧
      u.jobs = s.jobs ∧ u.tiles = s.tiles) ∧
    (∀ cause, s.wakes cause = false → exec (.wake cause) s = .next s) ∧
    (s.sec.asleep = true → s.clk.powerState ≠ 4 → ∃ u, exec .standbyBoot s = .next u ∧ u.sec.standbyOk = true ∧
      u.sec.asleep = false ∧ u.sec.active = s.sec.active ∧ u.jobs = s.jobs ∧ u.store = s.store) ∧
    ((s.sec.asleep = false ∨ s.clk.powerState = 4) → exec .standbyBoot s = .next s)

/-- A `TIME` packet that the package takes (R431). -/
def Safety.TimeOk (s : State) (x : TimePacket) (kind : Nat) : Prop :=
  let p := x.packet
  packetOk p = true ∧ s.fab.endpoint = some p.dst.toNat ∧ p.typ.toNat = 0x30 ∧ p.jtag = 0#32 ∧ p.length.toNat = 48 ∧
    slice p.payload 8 8 = zeros 8 ∧ (∃ k, s.sec.fmk = some k ∧ slice p.payload 16 32 = timeCheck k p) ∧ p.subop.toNat = kind

/-- The two-way exchange and the lands of the timebase (R429 to R432): `SYNC` opens an exchange with t2; `FOLLOW_UP` brings t1
and answers with a `DELAY_REQ` at t3; `DELAY_RSP` gives offset and delay, which the timebase slews off or, after a loss of
lock with no job context and beyond 1 µs, steps off once; that it does so under source 1 too once the edges have stopped, and that
the lock on an edge asks for the count of seconds, is the model's (log 135); an edge within 1 µs of a whole second slews to it
where VAUX feeds the land; two seconds without
a reference lose the lock. A `TIME` packet whose check fails is a stranger. -/
def Obligations.TimeExchange : Prop :=
  ∀ (s : State) (x : TimePacket),
    let t := max s.now.toNat x.arrival.toNat
    (Safety.TimeOk s x 0 → ∃ u, exec (.sync x) s = .next u ∧ u.now.toNat = t ∧ u.clk.exchange = some x.packet.seq.toNat ∧
      u.clk.followed = false ∧ u.clk.t2 = x.arrival ∧
      u = { s with clk := { s.clk with timebase := u.clk.timebase, exchange := u.clk.exchange, followed := false, t2 := x.arrival } }) ∧
    (Safety.TimeOk s x 1 → s.clk.exchange = some x.packet.seq.toNat → ∃ u, exec (.followUp x) s = .next u ∧
      u.now.toNat = t ∧ u.clk.followed = true ∧ u.clk.t1.toNat = fieldAt x.packet.payload 0 8 % 2 ^ 64 ∧ u.clk.t3 = u.now ∧
      (s.liveLanes ≠ [] → ∃ q k, u.out = s.out ++ [.packet q k] ∧ k ∈ s.liveLanes ∧ q.typ = 0x30#8 ∧ q.subop = 2#8 ∧
        q.dst = x.packet.src ∧ q.src = x.packet.dst ∧ q.seq = x.packet.seq) ∧ (s.liveLanes = [] → u.out = s.out) ∧ u.store = s.store ∧ u.jobs = s.jobs ∧ u.tiles = s.tiles) ∧
    (∀ theta delay : Int, Safety.TimeOk s x 3 → s.clk.exchange = some x.packet.seq.toNat → s.clk.followed = true →
      (s.clk.source ≠ 1 ∨ s.clk.lastPps.toNat + 2000000000 ≤ t) → 0 ≤ delay → delay < 2 ^ 32 →
      2 * theta = ((s.clk.t2.toNat : Int) - s.clk.t1.toNat) - ((fieldAt x.packet.payload 0 8 : Int) - s.clk.t3.toNat) →
      2 * delay = ((s.clk.t2.toNat : Int) - s.clk.t1.toNat) + ((fieldAt x.packet.payload 0 8 : Int) - s.clk.t3.toNat) →
      ∃ u, exec (.delayRsp x) s = .next u ∧ u.clk.offset = theta ∧ (u.clk.delay : Int) = delay ∧ u.clk.source = 2 ∧
        u.clk.exchange = none ∧ u.clk.lastRef.toNat = t ∧
        ((s.liveJobs ≠ [] ∨ s.clk.locked = true ∨ s.clk.lossStepped = true ∨ (-1000 ≤ theta ∧ theta ≤ 1000)) →
          u.now.toNat = t ∧ u.clk.slew = theta ∧ u.clk.locked = decide (-25 ≤ theta ∧ theta ≤ 25)) ∧
        (s.liveJobs = [] → s.clk.locked = false → s.clk.lossStepped = false → (1000 < theta ∨ theta < -1000) →
          u.now = BitVec.ofInt 64 (t - theta) ∧ u.clk.slew = 0 ∧ u.clk.locked = true ∧ u.clk.lossStepped = true) ∧
        u.store = s.store ∧ u.jobs = s.jobs ∧ u.tiles = s.tiles) ∧
    (∀ theta k : Int, s.board.vaux = true → (s.now.toNat : Int) = 1000000000 * k + theta → -1000 ≤ theta → theta ≤ 1000 →
      ∃ u, exec .tbPpsEdge s = .next u ∧ u.clk.source = 1 ∧ u.clk.offset = theta ∧ u.clk.slew = theta ∧ u.now = s.now ∧
        u.clk.locked = (decide (-25 ≤ theta ∧ theta ≤ 25) && s.clk.counted) ∧
        u.clk.lastRef = s.now ∧ u = { s with clk := u.clk }) ∧
    (s.board.vaux = false → exec .tbPpsEdge s = .next s) ∧
    (∃ u, exec .tbLockLost s = .next u ∧ u.clk.source = 0 ∧ u.clk.locked = false ∧ u.clk.slew = 0 ∧
      u.now.toNat = max s.now.toNat (s.clk.lastRef + 2000000000#64).toNat ∧ u = { s with clk := u.clk }) ∧
    (∀ k, packetOk x.packet = true → s.fab.endpoint = some x.packet.dst.toNat → x.packet.typ.toNat = 0x30 →
      s.sec.fmk = some k → slice x.packet.payload 16 32 ≠ timeCheck k x.packet →
      exec (.sync x) s = .next (s.stranger x.packet) ∧ exec (.followUp x) s = .next (s.stranger x.packet) ∧
      exec (.delayRsp x) s = .next (s.stranger x.packet))

/-! ## Lanes, tiles, hearths and the twin (R19 to R24, R303 to R312, R378 to R398) -/

/-- `LINK_FRAME`, `LANE_DOWN`, `EYE_RECENTRE`, `PLANE_FAILOVER`, `PORCH_FAULT` and `PORCH_REMIRROR` (R19, R310 to R312, R396) complete
in every state, on either kind of lane: a good frame counts its corrections and ends the lane's failures; a bad one is retried, and
the one that fails its sixteenth retry takes the lane down; re-centring an eye takes time alone; a lane or plane goes down alone,
once; without a plane left, which the spec does not list, the package has failed (log 32); a lost porch takes its own lanes with it, and its neighbour carries on, unless that one is lost too and what it held was not
mirrored again: then the package has failed. -/
def Obligations.LaneEvents : Prop :=
  ∀ (s : State),
    (∀ g lane corr ok, ∃ u, exec (.linkFrame g lane corr ok) s = .next u ∧
      let k := if g then 128 + lane else lane
      fieldOf (u.bar2Word 0x240) 0 32 = min (2 ^ 32 - 1) (fieldOf (s.bar2Word 0x240) 0 32 + corr) ∧
      (ok = true → SMap.get 0 u.fab.retries k = 0 ∧ u = { s with fab := { s.fab with retries := u.fab.retries }, bar2 := u.bar2 }) ∧
      (ok = false → SMap.get 0 s.fab.retries k ≠ 16 → SMap.get 0 u.fab.retries k = SMap.get 0 s.fab.retries k + 1 ∧
        fieldOf (u.bar2Word 0x240) 32 32 = min (2 ^ 32 - 1) (fieldOf (s.bar2Word 0x240) 32 32 + 1) ∧
        u = { s with
          fab := { s.fab with retries := u.fab.retries }, bar2 := u.bar2, out := s.out ++ [.frameRetry g lane] }) ∧
      (ok = false → SMap.get 0 s.fab.retries k = 16 → SMap.get 0 u.fab.retries k = 0 ∧
        (g = false → lane < 128 → ∀ i, u.fab.lanesUp.getLsbD i = (s.fab.lanesUp.getLsbD i && decide (i ≠ lane))) ∧
        (g = true → lane < 32 → ∀ i, u.pair.galleryUp.getLsbD i = (s.pair.galleryUp.getLsbD i && decide (i ≠ lane))) ∧
        u.store.mem = s.store.mem ∧ u.tiles = s.tiles)) ∧
    (∀ g lane, ∃ u, exec (.laneDown g lane) s = .next u ∧ u.tiles = s.tiles ∧ u.store.mem = s.store.mem ∧
      (g = false → lane < 128 → s.fab.lanesUp.getLsbD lane = true →
        (∀ k, u.fab.lanesUp.getLsbD k = (s.fab.lanesUp.getLsbD k && decide (k ≠ lane))) ∧ u.pair = s.pair ∧
        fieldOf (u.bar2Word 0x620) 0 8 = 2 ∧ fieldOf (u.bar2Word 0x620) 8 16 = lane ∧ u.store = s.store ∧ u.jobs = s.jobs) ∧
      (g = true → lane < 32 → s.pair.galleryUp.getLsbD lane = true →
        (∀ k, u.pair.galleryUp.getLsbD k = (s.pair.galleryUp.getLsbD k && decide (k ≠ lane))) ∧
        u.fab.lanesUp = s.fab.lanesUp) ∧
      ((if g then s.pair.galleryUp.getLsbD lane else s.fab.lanesUp.getLsbD lane) = false → u = s)) ∧
    (∀ g lane, exec (.eyeRecentre g lane) s = .next s) ∧
    (∀ plane, plane < 2 → ∃ u, exec (.planeFailover plane) s = .next u ∧
      (s.clk.planesUp.getLsbD plane = true → fieldOf (u.bar2Word 0xA0) 0 8 = 5) ∧
      (s.clk.planesUp.getLsbD plane = false → u = s) ∧
      ((s.clk.planesUp.getLsbD (1 - plane) = true ∨ ∀ j, (s.job j).phase = 0) →
        (∀ k, u.clk.planesUp.getLsbD k = (s.clk.planesUp.getLsbD k && decide (k ≠ plane))) ∧
        u.store = s.store ∧ u.jobs = s.jobs ∧ u.tiles = s.tiles) ∧
      (s.clk.planesUp.getLsbD plane = true → s.clk.planesUp.getLsbD (1 - plane) = false → u.sec.failed = true)) ∧
    (∀ p, p < 4 → ∃ u, exec (.porchFault p) s = .next u ∧
      (∀ k, u.fab.porchUp.getLsbD k = (s.fab.porchUp.getLsbD k && decide (k ≠ p))) ∧
      (s.fab.porchUp.getLsbD p = false → u = s) ∧
      (s.fab.porchUp.getLsbD p = true → (∀ k, u.fab.lanesUp.getLsbD k = (s.fab.lanesUp.getLsbD k && decide (k / 32 ≠ p))) ∧
        let next := (p + 1) % 4
        ((s.fab.porchUp.getLsbD next = true ∨ s.fab.mirrored.getLsbD next = true) →
          u.sec = s.sec ∧ u.tiles = s.tiles ∧ u.store.mem = s.store.mem) ∧
        (s.fab.porchUp.getLsbD next = false → s.fab.mirrored.getLsbD next = false → u.sec.failed = true))) ∧
    (∀ p, p < 4 → ∃ u, exec (.porchRemirror p) s = .next u ∧
      (∀ k, u.fab.mirrored.getLsbD k = (s.fab.mirrored.getLsbD k || (decide (k = p) && !(s.fab.porchUp.getLsbD p)))) ∧
      u = { s with fab := { s.fab with mirrored := u.fab.mirrored } })

/-- No command, no store of a sequencer, no collective, no packet and no write of the host waits for a slot of the guard area
(R414). -/
def Safety.NoGuardWait (s : State) : Prop :=
  (∀ t, (∀ e r, s.runningOf t e = some r → r.stage ≠ .guardFull) ∧ (s.tile t).wait ≠ .access) ∧
  (∀ j, ∀ c ∈ (s.job j).colls, c.restoring = false ∧ ∀ x ∈ c.chunks, x.held = false) ∧ s.fab.waiting = [] ∧
  ∀ p, (s.portOf p).posted = []

/-- An item of a context that ends FAILED with the package: of a stream, a register write, a stop, an unmap or a mirror. -/
def Safety.OwedFailed (s : State) (j : Nat) (r : ItemRef) : Prop :=
  (∃ t ∈ (s.job j).tiles, (s.tile t).streamItem = some r ∨ ∃ x ∈ (s.tile t).regWrites, x.item = r) ∨
  (s.job j).stopItem = some r ∨ (s.job j).mirror.item = some r ∨ ∃ x ∈ (s.job j).unmapItems, x.1 = r

/-- Nothing of a job's tiles works or waits but at its barrier, and none of its register writes, collectives or unmaps is open. -/
structure Safety.AtBarrier (s : State) (j : Nat) : Prop where
  engines : ∀ q, (s.tile q).engines = [] ∧ (s.tile q).solver = []
  halts : ∀ q, (s.tile q).haltPending = none ∧ (s.tile q).regWrites = []
  waits : ∀ q, (s.tile q).wait = .none ∨ (s.tile q).wait = .arrived
  held : ∀ q, (s.tile q).wait = .arrived → (s.tile q).mode = .running ∧ ∃ w, (s.tile q).held = some (.stepEnd q w)
  colls : (s.job j).colls = []
  unmaps : (s.job j).unmapItems = []
  cut : (s.job j).cut.state = 0

/-- The loss of a tile (R23, R24, R45, R397, R489): it completes in every state. A spare of its die takes its logical id, empty, or
with none left the id becomes unavailable; a stream that had started ends FAILED with `TILE_LOST`, all of `DETAIL` ones. Where a job
owns the tile, every tile that it holds at a boundary halts with `TILE_LOST`, its stream FAILED, and the job is back in phase 1, its
counter as it was; every other tile of it goes on. An aging tile of a job waits for the job's boundary; one of no job moves where
its die may rotate (R398), with every logical state as it was; nothing happens at or above the threshold, or below Ready (R441).
The declared failure of the package (R396): in every state, once, with the event; every job context ends, and what its streams,
stops, unmaps, mirrors and register writes have open ends FAILED with the status of the fault; the twin gets the notice while it is
paired and a lane of the gallery is up. -/
def Obligations.TileAndPackageLoss : Prop :=
  (∀ (s : State) (t : Nat),
     (∃ u, exec (.tileFault t) s = .next u) ∧
     (∀ j, (s.tile t).avail = true → (s.tile t).owner = some j → Safety.AtBarrier s j →
       ∃ u, exec (.tileFault t) s = .next u ∧
         (u.tile t).avail = decide (0 < SMap.get 0 s.clk.spares (s.dieOf t)) ∧ (u.tile t).engines = [] ∧
         (u.tile t).seqRegs = [] ∧ (u.tile t).tags = [] ∧ (u.tile t).wait = .none ∧ (u.tile t).owner = some j ∧
         SMap.get 0 u.clk.spares (s.dieOf t) = SMap.get 0 s.clk.spares (s.dieOf t) - 1 ∧
         fieldOf (u.bar2Word 0x620) 0 8 = 1 ∧ fieldOf (u.bar2Word 0x620) 8 16 = t % 65536 ∧
         ((s.tile t).started = true → (s.tile t).ended = false → (u.tile t).ended = true ∧
           ((u.tile t).avail = true → (u.tile t).mode = .halted ∧
             fieldOf ((u.tile t).reg .sq 0x20) 0 16 = stTileLost.toNat) ∧
           ∀ r, (s.tile t).streamItem = some r → Safety.Ends s u r .failed stTileLost t (BitVec.allOnes 64)) ∧
         (∀ q, q ≠ t → (q ∉ (s.job j).tiles ∨ (s.tile q).wait = .none) → u.tile q = s.tile q) ∧
         (∀ q ∈ (s.job j).tiles, q ≠ t → (s.tile q).wait = .arrived → (s.job j).phase ≠ 0 →
           (u.tile q).mode = .halted ∧ (u.tile q).wait = .none ∧ (u.tile q).ended = true ∧
           fieldOf ((u.tile q).reg .sq 0x20) 0 16 = stTileLost.toNat ∧
           ∀ r, (s.tile q).streamItem = some r → ∃ x d, Safety.Ends s u r .failed stTileLost x d) ∧
         u.job j = { s.job j with phase := if (s.job j).phase = 0 then 0 else 1 } ∧ (∀ i, i ≠ j → u.job i = s.job i)) ∧
     ((s.tile t).avail = true → (s.tile t).owner = none → (∀ e, s.cascadesWith e t = []) → (∀ q, (s.tile q).solver = []) →
       ∃ u, exec (.tileFault t) s = .next u ∧
         (u.tile t).avail = decide (0 < SMap.get 0 s.clk.spares (s.dieOf t)) ∧ (u.tile t).engines = [] ∧
         (u.tile t).seqRegs = [] ∧ (u.tile t).tags = [] ∧ (∀ q, q ≠ t → u.tile q = s.tile q) ∧
         SMap.get 0 u.clk.spares (s.dieOf t) = SMap.get 0 s.clk.spares (s.dieOf t) - 1 ∧
         fieldOf (u.bar2Word 0x620) 0 8 = 1 ∧ fieldOf (u.bar2Word 0x620) 8 16 = t % 65536 ∧
         ((s.tile t).started = true → (s.tile t).ended = false → ∀ r, (s.tile t).streamItem = some r →
           Safety.Ends s u r .failed stTileLost t (BitVec.allOnes 64))) ∧
     ((s.tile t).avail = false → exec (.tileFault t) s = .next s) ∧
     (∀ j, s.clk.powerState < 2 → (s.tile t).avail = true → (s.tile t).owner = some j → ∃ u, exec (.agingReport t true) s = .next u ∧
       OnlyJob s u j ∧ t ∈ (u.job j).rotate ∧ (∀ q ∈ (s.job j).rotate, q ∈ (u.job j).rotate) ∧
       (∀ q ∈ (u.job j).rotate, q = t ∨ q ∈ (s.job j).rotate) ∧ u.job j = { s.job j with rotate := (u.job j).rotate }) ∧
     (s.clk.powerState < 2 → (s.tile t).avail = true → (s.tile t).owner = none → ∃ u, exec (.agingReport t true) s = .next u ∧
       u = { s with clk := u.clk, bar2 := u.bar2, fresh := u.fresh } ∧ (s.mayRotate t = false → u = s) ∧
       (s.mayRotate t = true →
         (fieldOf (u.bar2Word 0x630) 32 32 = min (2 ^ 32 - 1) (fieldOf (s.bar2Word 0x630) 32 32 + 1) ∧ u.clk.spares = s.clk.spares) ∨
         (u.bar2 = s.bar2 ∧ SMap.get 0 u.clk.spares (s.dieOf t) = SMap.get 0 s.clk.spares (s.dieOf t) - 1))) ∧
     ((2 ≤ s.clk.powerState ∨ (s.tile t).avail = false) → exec (.agingReport t true) s = .next s) ∧
     exec (.agingReport t false) s = .next s) ∧
  (∀ (s : State) (cause : Status),
     (s.sec.failed = true → exec (.packageFailed cause) s = .next s) ∧
     (s.sec.failed = false → ∃ u, exec (.packageFailed cause) s = .next u ∧
       u.sec.failed = true ∧ fieldOf (u.bar2Word 0xA0) 0 8 = 5 ∧ fieldOf (u.bar2Word 0x620) 0 8 = 8 ∧
       ((∀ j, (s.job j).phase = 0) → u.store = s.store ∧ u.jobs = s.jobs ∧ u.tiles = s.tiles ∧
         ((s.pair.state = 1 ∨ s.pair.state = 2) → s.pair.galleryUp ≠ 0#32 → Out.failureNotice ∈ u.out)) ∧
       (Safety.NoGuardWait s → (∀ j, (s.job j).colls = [] ∧ (s.job j).lists = [] ∧ (s.job j).heldTriggers = [] ∧
           (s.job j).cut.item = none) →
         (∀ j, j < 16 → (u.job j).phase = 0) ∧
         ((s.pair.state = 1 ∨ s.pair.state = 2) → s.pair.galleryUp ≠ 0#32 → Out.failureNotice ∈ u.out) ∧
         (∀ j r, j < 16 → (s.job j).phase ≠ 0 → Safety.OwedFailed s j r →
           ∃ t, Safety.Ends s u r .failed (failedCode cause) t 0#64))))

/-- The hearth pair (R303 to R305): the standby counts missed heartbeats; after 25 it becomes the active hearth, the old one
is out, the change is counted with its time, and waiting items of Skeka's own end FAILED with `HEARTH_FAILOVER` while tiles,
memory and every step counter go on; that a waiting `UNMAP` and a waiting `PAIR` are such items is the model's reading (log 70); a lost standby leaves the active hearth as it is. -/
def Obligations.HearthPair : Prop :=
  ∀ (s : State),
    (∀ m, s.sec.standbyOk = true → exec (.hearthHeartbeat m) s =
      .next { s with sec := { s.sec with missedHearth := if m then s.sec.missedHearth + 1 else 0 } }) ∧
    (∀ m, s.sec.standbyOk = false → exec (.hearthHeartbeat m) s = .next s) ∧
    (25 ≤ s.sec.missedHearth → s.sec.standbyOk = true → s.sec.active < 2 → ∃ u, exec .hearthFailover s = .next u ∧
      u.sec.active = 1 - s.sec.active ∧ u.sec.standbyOk = false ∧ (u.hearth s.sec.active).alive = false ∧
      u.sec.failovers = min 0xFFFF (s.sec.failovers + 1) ∧ u.sec.failoverTime = s.now ∧ u.tiles = s.tiles ∧
      u.store = s.store ∧ (∀ j, (u.job j).step = (s.job j).step ∧ (u.job j).phase = (s.job j).phase ∧
        (u.job j).pages = (s.job j).pages ∧ (u.job j).tiles = (s.job j).tiles) ∧
      (∀ j, j < 16 → ∀ x ∈ (s.job j).unmapItems, Safety.Ends s u x.1 .failed stHearthFailover 0xFFFF 0#64) ∧
      (∀ r, s.pair.item = some r → Safety.Ends s u r .failed stHearthFailover 0xFFFF 0#64)) ∧
    (s.sec.missedHearth < 25 → exec .hearthFailover s = .next s) ∧
    (s.sec.standbyOk = true → s.sec.active < 2 → ∃ u, exec .standbyLost s = .next u ∧ u.sec.standbyOk = false ∧
      u.sec.active = s.sec.active ∧ (u.hearth (1 - s.sec.active)).alive = false ∧
      u.hearth s.sec.active = s.hearth s.sec.active ∧ u.tiles = s.tiles ∧ u.store = s.store ∧ u.jobs = s.jobs) ∧
    (s.sec.standbyOk = false → exec .standbyLost s = .next s)

/-- The twin's heartbeats (R379 to R382): one leaves at each tick and a missed one is counted; twenty make the twin SUSPECT, with
its event, as the notice of its failure does; one that is heard clears the count and the suspicion; a waiting `PAIR` is done
where the twin shows the key that it names and has itself checked this package's, which hears of its own check (log 126), and
fails where the twin shows another or its time passes; without a `PAIR` a key is kept with its time, and a check of this package's key
says nothing (log 126). -/
def Obligations.TwinHeartbeats : Prop :=
  ∀ (s : State),
    (∀ m, (s.pair.state = 1 ∨ s.pair.state = 2) → s.sec.failed = false → s.clk.powerState < 2 → s.pair.twin = none →
      ∃ u, exec (.pairHeartbeat m) s = .next u ∧ u.out = s.out ++ [.heartbeat s.heartbeat] ∧
        u.pair = { s.pair with missed := if m then min 0xFFFF (s.pair.missed + 1) else s.pair.missed } ∧
        u = { s with out := u.out, pair := u.pair }) ∧
    (s.pair.state = 1 → ∃ u v : State, exec .failureNotice s = .next u ∧ u.pair.state = 2 ∧ u.tiles = s.tiles ∧
      fieldOf (u.bar2Word 0xA0) 0 8 = 5 ∧ exec .twinSuspect s = .next v ∧ v = if 20 ≤ s.pair.missed then u else s) ∧
    (s.pair.state ≠ 1 → exec .failureNotice s = .next s ∧ exec .twinSuspect s = .next s) ∧
    (∀ h, (s.pair.state = 1 ∨ s.pair.state = 2) → h.failed = false → h.pairState ≠ 4 → h.taken = [] → h.released = [] →
      ∃ u, exec (.pairHeartbeatReceive h) s = .next u ∧ u.pair.state = 1 ∧ u.pair.missed = 0 ∧ u.pair.twin = some h ∧
        u.pair.twinEndpoint = h.endpoint ∧ u.tiles = s.tiles ∧ u.store.mem = s.store.mem) ∧
    (∀ pub r, s.pair.item = some r → sha384 pub = s.pair.itemTwin → s.pair.itemTwin ≠ [] →
      (∀ j, j < 16 → (s.job j).mirror.isSource = false) →
      ∃ u, exec (.pairingFrame ⟨pub, true⟩) s = .next u ∧ u.pair.state = 1 ∧ u.pair.item = none ∧ u.pair.missed = 0 ∧
        (s.pair.told = false → .pairing s.identityPub true ∈ u.out) ∧
        Safety.Ends s u r .done stOK 0xFFFF 0#64 ∧ u.store = s.store ∧ u.jobs = s.jobs ∧ u.tiles = s.tiles) ∧
    (∀ pub r, s.pair.item = some r → sha384 pub = s.pair.itemTwin → s.pair.itemTwin ≠ [] →
      exec (.pairingFrame ⟨pub, false⟩) s = .next { s with
        pair := { s.pair with twinId := sha384 pub, twinChecked := false, shownAt := s.now, told := true }
        out := s.out ++ [.pairing s.identityPub true] }) ∧
    (∀ pub, s.pair.item = none → exec (.pairingFrame ⟨pub, false⟩) s =
      .next { s with pair := { s.pair with twinId := sha384 pub, twinChecked := false, shownAt := s.now, told := false } }) ∧
    (∀ pub, s.pair.item = none → exec (.pairingFrame ⟨pub, true⟩) s = .next s) ∧
    (∀ pub checked r, s.pair.item = some r → sha384 pub ≠ s.pair.itemTwin → sha384 pub ≠ [] →
      ∃ u, exec (.pairingFrame ⟨pub, checked⟩) s = .next u ∧ u.pair.state = s.pair.state ∧ u.pair.item = none ∧
        Safety.Ends s u r .failed stNotPermitted 0xFFFF 4#64 ∧ u.store = s.store ∧ u.jobs = s.jobs ∧ u.tiles = s.tiles) ∧
    (∀ r, s.pair.item = some r → ∃ u, exec .pairWaitExpiry s = .next u ∧ u.pair.item = none ∧
      Safety.Ends s u r .failed stNotPermitted 0xFFFF 5#64 ∧ u.store = s.store ∧ u.jobs = s.jobs ∧ u.tiles = s.tiles) ∧
    (∀ j r, (s.job j).mirror.item = some r → (s.job j).mirror.confirmed = false →
      ∃ u, exec (.mirrorSetupExpiry j) s = .next u ∧ u.job j = { s.job j with mirror := {} } ∧
        Safety.Ends s u r .failed stNotPermitted 0xFFFF 0#64 ∧ (∀ i, i ≠ j → u.job i = s.job i) ∧ u.store = s.store ∧
        u.tiles = s.tiles)

/-! ## Reset, boot, ports and board management (R283, R434, R446 to R450, R471 to R479) -/

/-- Everything of the package but the attics, the flashes and the lands is as at reset (R473). -/
def Safety.Cleared (s u : State) : Prop :=
  u.jobs = [] ∧ u.tiles = [] ∧ u.store = {} ∧ u.bar2 = [] ∧ u.clk = {} ∧ u.fab = {} ∧ u.pair = {} ∧ u.races = {} ∧
    u.journal = {} ∧ u.portA.session = none ∧ u.portB.session = none ∧ (∀ p n, u.slot p n = {}) ∧ u.sec.ready = false ∧
    (∀ h, (u.hearth h).bootState = 0 ∧ (u.hearth h).attic = (s.hearth h).attic ∧ (u.hearth h).flash = (s.hearth h).flash)

/-- Device reset and the loss of power (R434, R471, R473, R475, R477): each clears the package down to its attics and flashes;
`DEVICE_RESET` ends with power good, unless a thermal trip holds, the others hold it in reset; a supply fault in reset takes
`PWROK` alone (R474); a low of `SYS_RST_N` under 1 µs is ignored. -/
def Obligations.DeviceResets : Prop :=
  ∀ (s : State),
    (s.board.thermtrip = false → ∃ u, exec .deviceReset s = .next u ∧ Safety.Cleared s u ∧ u.inReset = false) ∧
    (s.board.thermtrip = true → exec .deviceReset s = .next s) ∧
    (∀ ns, s.inReset = false → 1000 ≤ ns → ∃ u, exec (.sysRstNLow ns) s = .next u ∧ Safety.Cleared s u ∧ u.inReset = true) ∧
    (∀ ns, ns < 1000 → exec (.sysRstNLow ns) s = .next s) ∧
    (s.board.vaux = true → s.board.thermtrip = false → ∃ u, exec .thermtrip s = .next u ∧ Safety.Cleared s u ∧
      u.inReset = true ∧ u.out = s.out ++ [.pin "THERMTRIP_N" false]) ∧
    (∀ rail, s.inReset = false → s.skekaRuns = false → ∃ u, exec (.supplyFault rail) s = .next u ∧ Safety.Cleared s u ∧
      u.inReset = true) ∧
    (∀ rail, s.inReset = true → exec (.supplyFault rail) s = .next { s with board := { s.board with pwrok := false } }) ∧
    (s.inReset = true → ∃ u, exec .vauxLoss s = .next u ∧ u.board.vaux = false ∧ u.jobs = [] ∧ u.tiles = [] ∧ u.store = {} ∧
      (s.sec.fuse = none → Safety.Cleared s u))

/-- The boot of a hearth (R446 to R450, R473): an image that passes its tests starts Skeka, a copy that fails them is noted and
the other one tried, and after both the hearth waits for recovery, where a sealed image in the boot buffer is tested in the
same way; two hearths with one image become active and standby; one that comes later with another image is held out of service
(log 131); with the roles settled `BOOT_READY` fills memory with zeros and brings up the tiles that passed. That the attics are
reconciled when a hearth reads its image, and that every lane is up at `BOOT_READY`, are the model's readings (logs 51, 86). -/
def Obligations.Boots : Prop :=
  ∀ (s : State) (h : Nat),
    let x := s.reconcile.hearth h
    let b := if x.tried = 0 then x.flash.activeB else !x.flash.activeB
    let img := x.flash.copy b
    (s.inReset = false → (s.hearth h).bootState = 0 → imageFail x.attic img none = 0 →
      ∃ u, exec (.bootImageAccept h false) s = .next u ∧ u.hearth h = { x with
        bootState := 2, bootSrc := bit b, imageSvn := imgSvn img, imageHeader := slice img 0 512 }) ∧
    (∀ err, s.inReset = false → (s.hearth h).bootState = 0 → (err = true ∨ imageFail x.attic img none ≠ 0) →
      ∃ u, exec (.bootImageAccept h err) s = .next u ∧ u.hearth h = { x with
        bootFail := if err then 6 else imageFail x.attic img none, tried := x.tried + 1
        bootState := if x.tried = 0 then 0 else 1 }) ∧
    (∀ (n : Nat) (stream : Option Nat), n ≤ bufferEnd → s.tlpPasses (portOfHearth h) stream = true → (s.hearth h).bootState = 1 →
      let y := s.hearth h
      let rec_ := SMap.getList 0#8 y.buffer 0 n
      ∃ u, exec (.recoverySeal h ⟨BitVec.ofNat 64 (0x5EA1B007 * 2 ^ 32 + n), stream⟩) s = .next u ∧
        (imageFail y.attic rec_ (some n) = 0 → u.hearth h = { y with
          bootState := 2, bootSrc := 2, imageSvn := imgSvn rec_, imageHeader := slice rec_ 0 512, buffer := [] }) ∧
        (imageFail y.attic rec_ (some n) ≠ 0 → u.hearth h = { y with bootFail := imageFail y.attic rec_ (some n) })) ∧
    (s.inReset = false → s.sec.settled = false → s.sec.h0.running = true → s.sec.h1.running = true → s.sameImage = true →
      ∃ u, exec .hearthRoleSelect s = .next u ∧ u.sec.active = 0 ∧ u.sec.standbyOk = true ∧ u.sec.settled = true ∧
        u.jobs = s.jobs ∧ u.store = s.store) ∧
    (s.inReset = false → s.sec.settled = true → s.sec.standbyOk = false → s.sec.asleep = false →
      (s.hearth (1 - s.sec.active)).running = true → s.sameImage = false →
      exec .hearthRoleSelect s = .next (s.setHearth (1 - s.sec.active) { s.hearth (1 - s.sec.active) with alive := false })) ∧
    (∀ avail spares, s.inReset = false → s.sec.settled = true → s.sec.ready = false →
      ∃ u, exec (.bootReady avail spares) s = .next u ∧ u.sec.ready = true ∧ u.store = {} ∧
        (∀ t, (u.tile t).avail = decide (t ∈ avail ∧ t < s.activeTiles)) ∧
        (∀ d, SMap.get 0 u.clk.spares d = min 4 (spares.getD d 0)) ∧ u.fab.lanesUp = BitVec.allOnes 128 ∧ u.jobs = s.jobs)

/-- The host ports and board management (R282, R283, R308, R463, R476, R479): a port reset clears the configuration space and the
link of its port and leaves slots and session; a function-level reset ends the host session too; a link that comes up is an
event; an IDE integrity failure takes its stream out of the secure state and is logged, with a mark that is the model's (log 52);
what a port's reset keeps of its configuration space is read from PCIe (log 82); board management reads from the offset that it
writes, and takes its address. -/
def Obligations.PortsAndBoard : Prop :=
  ∀ (s : State) (p : Port),
    (∀ cause, ∃ u, exec (.portReset p cause) s = .next u ∧ (u.portOf p).busMaster = false ∧ (u.portOf p).linkUp = false ∧
      (u.portOf p).msixTable = [] ∧ (u.portOf p).slots = (s.portOf p).slots ∧ (u.portOf p).session = (s.portOf p).session ∧
      (u.portOf p).aer = (s.portOf p).aer ∧ u.store = s.store ∧ u.jobs = s.jobs ∧ u.tiles = s.tiles) ∧
    (∃ u, exec (.functionLevelReset p) s = .next u ∧ u = (s.setPort p { s.portOf p with
      busMaster := false, barGib := 256, msixTable := [], msixPending := 0#64, ide := [], session := none, spdm := {} }).recordSession p) ∧
    (s.inReset = false → (s.portOf p).linkUp = false → (s.portOf p).lost = false → (s.hearth (hearthOf p)).alive = true → s.sec.asleep = false →
      ∃ u, exec (.portLinkUp p) s = .next u ∧ (u.portOf p).linkUp = true ∧ fieldOf (u.bar2Word 0xA0) 0 8 = 6 ∧
        u.store = s.store ∧ u.jobs = s.jobs ∧ u.tiles = s.tiles) ∧
    (∀ l, exec (.pairSenseChange l) s = .next { s with board := { s.board with pairSense := l } }) ∧
    (∀ k, ∃ u, exec (.ideIntegrityFail p k) s = .next u ∧ (SMap.get {} (u.portOf p).ide k).secure = false ∧
      (∀ i, i ≠ k → SMap.get {} (u.portOf p).ide i = SMap.get {} (s.portOf p).ide i) ∧
      (u.portOf p).aer = (s.portOf p).aer ++ [(k, stAuthTag)] ∧
      u = s.setPort p { s.portOf p with ide := (u.portOf p).ide, aer := (u.portOf p).aer }) ∧
    (∀ off, s.board.vaux = true → ∃ u, exec (.bmcOffsetWrite off) s = .next u ∧ u.board.bmcOffset = off ∧
      (∃ bs, u.out = s.out ++ [.bmc bs] ∧ bs.length = 0x1000 - off.toNat ∧
        (s.fewServed = false → ∀ i, i < bs.length → bs.getD i 0#8 =
          BitVec.ofNat 8 (fieldOf (s.pageWord .a ((off.toNat + i) / 8 * 8)) (8 * ((off.toNat + i) % 8)) 8))) ∧
      u = { s with board := u.board, out := u.out }) ∧
    (∀ a, s.board.vaux = true → exec (.bmcAddressAssign a) s = .next { s with board := { s.board with bmcAddr := a } })

/-! ## The mailbox (R286 to R300) -/

/-- A hamper that Skeka takes next, and the command of the block that serves its kind (R288, R446). -/
structure Safety.Takes (s : State) (kind : Nat) (p : Port) (n : Nat) : Prop where
  ready : s.sec.ready = true
  awake : s.clk.powerState < 2
  first : s.nextSealed = some (p, n)
  named : (s.hamperAt p n).kind = kind

/-- Such a hamper that passes all eight tests (R292). -/
def Safety.Serves (s : State) (kind : Nat) (p : Port) (n : Nat) : Prop :=
  Safety.Takes s kind p n ∧ s.refusal (s.hamperAt p n) = none

/-- A hamper is answered with the one record of its item (R295, R296): the slot is FREE again. -/
def Safety.Answers (s u : State) (p : Port) (n : Nat) (o : ItemOutcome) (st : Status) (tile : Nat) (detail : BitVec 64) : Prop :=
  Safety.recordAt u ⟨p, n, 0⟩ = ⟨o, st, tile, detail, s.now⟩ ∧ (u.slot p n).openItems = [] ∧ (u.slot p n).mode = .free ∧
  (u.slot p n).answer.seq = (s.hamperAt p n).seq ∧ (u.slot p n).answer.status = stOK ∧ (u.slot p n).answer.items = 1 ∧
  (u.slot p n).lastSeq = (s.hamperAt p n).seq

/-- A hamper is answered, and its item stays open. -/
def Safety.Opens (s u : State) (p : Port) (n : Nat) : Prop :=
  (u.slot p n).openItems = [0] ∧ (u.slot p n).mode = .opened ∧ (u.slot p n).answer.seq = (s.hamperAt p n).seq ∧
  (u.slot p n).answer.status = stOK ∧ (u.slot p n).answer.items = 1 ∧ (u.slot p n).lastSeq = (s.hamperAt p n).seq ∧
  (Safety.recordAt u ⟨p, n, 0⟩).outcome = .none

/-- Beside the ports and what leaves, only what is named in `v` may differ. -/
def Safety.PortsOnly (u v : State) : Prop :=
  u = { v with portA := u.portA, portB := u.portB, out := u.out, fresh := u.fresh, journal := u.journal }

/-- The command of the block that serves a hamper of a kind (Table 10.10). -/
def Safety.HamperOf (p : Port) (n : Nat) (img : LoaderImage) (kind : Nat) (c : Instr) : Prop :=
  (kind = 0 ∧ c = .unassignedOpcode p n) ∨ (kind = 0x0001 ∧ c = .echo p n) ∨ (kind = 0x0008 ∧ c = .sessionOpen p n) ∨
  (kind = 0x0010 ∧ c = .jobSetup p n) ∨ (kind = 0x0011 ∧ c = .jobLoad p n img) ∨ (kind = 0x0012 ∧ c = .jobStart p n) ∨
  (kind = 0x0013 ∧ c = .map p n) ∨ (kind = 0x0014 ∧ c = .unmap p n) ∨ (kind = 0x0018 ∧ c = .regRead p n) ∨
  (kind = 0x0019 ∧ c = .regWrite p n) ∨ (kind = 0x001A ∧ c = .tileResume p n) ∨ (kind = 0x0020 ∧ c = .stopAtStep p n) ∨
  (kind = 0x0021 ∧ c = .stepResume p n) ∨ (kind = 0x0022 ∧ c = .teardown p n) ∨ (kind = 0x0030 ∧ c = .checkpoint p n) ∨
  (kind = 0x0040 ∧ c = .pair p n) ∨ (kind = 0x4100 ∧ c = .takeover p n) ∨ (kind = 0x4101 ∧ c = .handover p n) ∨
  (kind = 0x4102 ∧ c = .releaseMirror p n) ∨ (kind = 0x4103 ∧ c = .resync p n) ∨ (kind = 0x0042 ∧ c = .detach p n) ∨
  (kind = 0x0043 ∧ c = .mirrorSetup p n) ∨ (kind = 0x0050 ∧ c = .tagAssign p n) ∨
  (kind = 0x0051 ∧ c = .tagTeardown p n) ∨ (kind = 0x0060 ∧ c = .powerLimit p n) ∨ (kind = 0x0070 ∧ c = .fwUpdate p n) ∨
  (kind = 0x7100 ∧ c = .ownerProgram p n) ∨ (kind = 0x7101 ∧ c = .fwRevoke p n) ∨
  (kind = 0x7102 ∧ c = .ownerRevoke p n) ∨ (kind = 0x7103 ∧ c = .svnAdvance p n) ∨ (kind = 0x7104 ∧ c = .fmkSet p n) ∨
  (kind = 0x7105 ∧ c = .ideLock p n) ∨ (kind = 0x0072 ∧ c = .lifecycle p n) ∨ (kind = 0x0073 ∧ c = .debugUnlock p n)

/-- A hamper that is answered and done changes its slot alone, with its port's pending vectors, the counter of a keyed session, and
the challenge where its opcode renews it (R455); messages leave, and the journal grows. -/
def Safety.SlotOnly (s u : State) (p : Port) (n : Nat) : Prop :=
  let h := s.hamperAt p n
  let renews := h.opcode = 0x0008 ∨ h.opcode = 0x0072 ∨ h.opcode = 0x0073
  Safety.PortsOnly u s ∧ (∀ q, q ≠ p → u.portOf q = s.portOf q) ∧ (∀ i, i ≠ n → u.slot p i = s.slot p i) ∧
  u.portOf p = { s.portOf p with
    slots := (u.portOf p).slots, chal := (u.portOf p).chal, session := (u.portOf p).session
    msixPending := (u.portOf p).msixPending } ∧
  (¬renews → (u.portOf p).chal = (s.portOf p).chal ∧ u.fresh = s.fresh) ∧ (renews → u.fresh = s.fresh + 1) ∧
  (h.keyed = false → (u.portOf p).session = (s.portOf p).session) ∧
  (u.portOf p).session.map (fun k => (k.key, k.ownerSlot)) = (s.portOf p).session.map (fun k => (k.key, k.ownerSlot)) ∧
  s.out <+: u.out ∧ s.journal.cellar <+: u.journal.cellar ∧ s.journal.h0 <+: u.journal.h0 ∧ s.journal.h1 <+: u.journal.h1

/-- Refused hampers, whatever their opcode (R292, R295): the first test that fails gives the status, in the answer and in the one
record, and nothing but the slot, what its port holds of the session and the challenge, what leaves and the journal changes. An
opcode that no row assigns is refused at test 1 or 2. -/
def Obligations.HampersRefused : Prop :=
  (∀ (s : State) (p : Port) (n kind : Nat) (img : LoaderImage) (c : Instr) (r : Refused), Safety.HamperOf p n img kind c →
    Safety.Takes s kind p n → s.refusal (s.hamperAt p n) = some r → ∃ u, exec c s = .next u ∧ Safety.SlotOnly s u p n ∧
      Safety.recordAt u ⟨p, n, 0⟩ = ⟨r.outcome, r.status, 0xFFFF, r.detail, s.now⟩ ∧ (u.slot p n).mode = .free ∧
      (u.slot p n).answer.status = r.status ∧ (u.slot p n).answer.seq = (s.hamperAt p n).seq ∧
      (r.test < 3 → (u.slot p n).lastSeq = (s.slot p n).lastSeq) ∧
      (3 ≤ r.test → (u.slot p n).lastSeq = ((s.slot p n).lastSeq + 1) % 2 ^ 32) ∧
      (r.test < 7 → (u.portOf p).session = (s.portOf p).session)) ∧
  (∀ (s : State) (p : Port) (n : Nat), Safety.Takes s 0 p n → ∃ u, exec (.unassignedOpcode p n) s = .next u ∧
    Safety.SlotOnly s u p n ∧ Safety.recordAt u ⟨p, n, 0⟩ = ⟨.failed, stIllegal, 0xFFFF, 0#64, s.now⟩ ∧
    (u.slot p n).mode = .free ∧ (u.slot p n).lastSeq = (s.slot p n).lastSeq ∧ (u.slot p n).answer.status = stIllegal ∧
    (u.slot p n).answer.seq = (s.hamperAt p n).seq ∧ (u.portOf p).session = (s.portOf p).session)

/-- `SEAL_WRITE` (R289, R291): a seal word that names the header's `SEQ` seals a FREE slot, as the latest seal; any other seal
word, and any write to a slot that is not FREE, is counted, and a write to a SEALED slot leaves its content undefined (free). The
write counts where it reaches the block (R463); what a bad seal leaves in a FREE slot, and that a slot that is TAKEN keeps its
content, is the model's (log 59).
`ECHO`, and the order in which hampers are taken (R288, R299): a sealed slot below 4 goes before every other one, and of two
of a kind the one sealed first; `ECHO` ends with the length of its body. -/
def Obligations.Seals : Prop :=
  (∀ (s : State) (p : Port) (n : Nat) (hdr body : List Byte) (w : SealWord), (s.portOf p).posted = [] →
     s.tlpPasses p w.stream = true → s.sec.ready = true →
     let word := w.word
     let x := s.slot p n
     let h := (hdr ++ zeros 64).take 64
     let good := word.toNat / 2 ^ 32 = 0x5EA1ED01 ∧ word.toNat % 2 ^ 32 = fieldAt h 4 4
     (x.mode = .free → good → ∃ u, exec (.sealWrite p n hdr body w) s = .next u ∧
       u.slot p n = { x with hdr := h, body := body.take 1984, mode := .sealed, sealNo := s.sealCount } ∧
       u = { s.setSlot p n (u.slot p n) with sealCount := s.sealCount + 1 }) ∧
     (x.mode = .free → ¬good → ∃ u, exec (.sealWrite p n hdr body w) s = .next u ∧
       u = s.setSlot p n { x with hdr := h, body := body.take 1984, badSeal := min 0xFFFF (x.badSeal + 1) }) ∧
     (x.mode = .sealed → ∃ u, exec (.sealWrite p n hdr body w) s = .next u ∧
       u.slot p n = { x with hdr := (u.slot p n).hdr, body := (u.slot p n).body, badSeal := min 0xFFFF (x.badSeal + 1) } ∧
       u = { s.setSlot p n (u.slot p n) with fresh := s.fresh + 1 }) ∧
     (x.mode ≠ .free → x.mode ≠ .sealed → exec (.sealWrite p n hdr body w) s =
       .next (s.setSlot p n { x with badSeal := min 0xFFFF (x.badSeal + 1) }))) ∧
  ((∀ (s : State) (p : Port) (n : Nat), s.nextSealed = some (p, n) → ∃ k, (k, p, n) ∈ s.sealed ∧
     (∀ x ∈ s.sealed, x.2.2 < 4 → n < 4) ∧ (∀ x ∈ s.sealed, (x.2.2 < 4 ↔ n < 4) → k ≤ x.1)) ∧
   (∀ (s : State) (p : Port) (n : Nat), Safety.Serves s 0x0001 p n → ∃ u, exec (.echo p n) s = .next u ∧
     Safety.Answers s u p n .done stOK 0xFFFF (BitVec.ofNat 64 (s.hamperAt p n).length) ∧ Safety.PortsOnly u s ∧
     (∀ i, i ≠ n → u.slot p i = s.slot p i)) ∧
   (∀ (s : State) (p : Port) (n kind : Nat) (img : LoaderImage) (c : Instr), Safety.HamperOf p n img kind c →
     (s.sec.ready = false ∨ 2 ≤ s.clk.powerState ∨ s.nextSealed ≠ some (p, n)) → exec c s = .next s))

/-! ## Job contexts (R46 to R50, R243 to R250, R299, R301, R342 to R346, R402) -/

/-- The state once a hamper of one item is accepted and answered. -/
def Safety.accepted (s : State) (p : Port) (n : Nat) : State :=
  let h := s.hamperAt p n
  (((s.take h).advanceSeq h).recordCounter h).answerOk h

/-- An item lies in another slot than a hamper's own. -/
def Safety.Elsewhere (p : Port) (n : Nat) (r : ItemRef) : Prop := r.port ≠ p ∨ r.slot ≠ n

/-- An item that a job context still owes a record. -/
def Safety.Owed (s : State) (j : Nat) (r : ItemRef) : Prop :=
  (∃ t ∈ (s.job j).tiles, (s.tile t).streamItem = some r ∨ ∃ x ∈ (s.tile t).regWrites, x.item = r) ∨
  (s.job j).stopItem = some r ∨ (s.job j).cut.item = some r ∨ (s.job j).mirror.item = some r ∨
  ∃ x ∈ (s.job j).unmapItems, x.1 = r

/-- Only the named job context changes. -/
def Safety.OtherJobs (s u : State) (j : Nat) : Prop := ∀ i, i ≠ j → u.job i = s.job i

/-- `JOB_LOAD` (R243, R451): an image whose bytes can be had, that passes its checks and is written whole is the context's image,
with its digest, and MR4 takes it before its checks (log 106), whatever they say; a tile of the context that it does not name holds
no image from then on (R416), and for a sink the image is kept for its takeover (log 73); an image that fails a check ends with that
check's status, tile and command.
`JOB_SETUP` (R249, R251, R299): in a context that holds no job, with its tiles in service and free, its regions fitting and
enough free frames, the context holds the job as its body describes it and its tiles are its own with their pages at reset; a
context in use is not permitted, and a tile that is not to be had refuses the setup with detail 1.
`JOB_START` (R208, R235, R299): each listed tile of the job that is loaded and has not started starts its stream at the base
of its image with every sequencer register 0, and brings the package back from Ready (R437); any other fails alone, in its own
record. -/
def Obligations.JobSetups : Prop :=
  (∀ (s : State) (p : Port) (n : Nat) (img : LoaderImage), Safety.Serves s 0x0011 p n →
     let h := s.hamperAt p n
     let j := h.job
     ∀ (bytes : List Byte) (e0 : State), (Safety.accepted s p n).imageBytes (h.at_ 0 8) (h.at_ 8 8) = (none, bytes, e0) →
       let e := e0.measureImage j (sha384 bytes)
       let mr := s.sec.mr.set 4 (sha384 (s.sec.mr.getD 4 [] ++ sha384 ([BitVec.ofNat 8 j] ++ sha384 bytes)))
       let gone (t : Nat) : Bool := (s.job j).tiles.contains t && !(img.tiles.any (fun x => x.tile = t))
       (∀ f, e.loadCheck j img = none → (s.job j).mirror.state ≠ 4 → e.install (orderedTiles img) = (none, f) →
         ∃ u, exec (.jobLoad p n img) s = .next u ∧ Safety.Answers s u p n .done stOK 0xFFFF 0#64 ∧
           u.job j = { s.job j with image := sha384 bytes, loadImage := some img } ∧ Safety.OtherJobs s u j ∧
           (∀ t, u.tile t = if gone t then { f.tile t with loaded := false } else f.tile t) ∧ u.store = f.store ∧ u.sec.mr = mr) ∧
       (e.loadCheck j img = none → (s.job j).mirror.state = 4 → ∃ u, exec (.jobLoad p n img) s = .next u ∧
         Safety.Answers s u p n .done stOK 0xFFFF 0#64 ∧
         u.job j = { s.job j with image := sha384 bytes, loadImage := some img } ∧ Safety.OtherJobs s u j ∧
         (∀ t, u.tile t = if gone t then { s.tile t with loaded := false } else s.tile t) ∧ u.store = e.store ∧ u.sec.mr = mr) ∧
       (∀ b, e.loadCheck j img = some b → ∃ u, exec (.jobLoad p n img) s = .next u ∧
         Safety.Answers s u p n .failed b.st b.tile (BitVec.ofNat 64 b.index) ∧ u.jobs = s.jobs ∧ u.tiles = s.tiles ∧ u.sec.mr = mr)) ∧
  ((∀ (s : State) (p : Port) (n : Nat), Safety.Serves s 0x0010 p n →
      let h := s.hamperAt p n
      let ts := tilesOfBitmap (h.at_ 0x18 32)
      let pool := takeFrames (fun f => !s.frameTaken f) cellarFrames (h.at_ 0x14 4)
      let free (t : Nat) : Prop := t < s.activeTiles ∧ (s.tile t).avail = true ∧ (s.tile t).owner = none
      ((s.job h.job).phase = 0 → s.attic.lifecycle ≠ 3 → (∀ t ∈ ts, free t) → s.store.regionsFit [] h.regionEntries = true →
        pool.length = h.at_ 0x14 4 →
        ∃ u, exec (.jobSetup p n) s = .next u ∧ Safety.Answers s u p n .done stOK 0xFFFF 0#64 ∧
          u.job h.job = h.newJob (s.job h.job) pool ∧ Safety.OtherJobs s u h.job ∧
          (∀ t, u.tile t = if t ∈ ts then { (s.tile t).resetPage with owner := some h.job } else s.tile t) ∧
          u.store.mem = s.store.mem ∧ (h.regionEntries = [] → u.store = s.store) ∧
          Safety.PortsOnly u { s with jobs := u.jobs, tiles := u.tiles, store := u.store }) ∧
      ((s.job h.job).phase ≠ 0 → ∃ u, exec (.jobSetup p n) s = .next u ∧
        Safety.Answers s u p n .failed stNotPermitted 0xFFFF 0#64 ∧ Safety.PortsOnly u s) ∧
      ((s.job h.job).phase = 0 → s.attic.lifecycle ≠ 3 → (∃ t ∈ ts, ¬free t) → ∃ u, exec (.jobSetup p n) s = .next u ∧
        Safety.Answers s u p n .failed stRefused 0xFFFF 1#64 ∧ Safety.PortsOnly u s)) ∧
   (∀ (s : State) (p : Port) (n : Nat), Safety.Serves s 0x0012 p n →
      let h := s.hamperAt p n
      let count := h.at_ 0 1
      let entry (k : Nat) : Nat := h.at_ (8 + k) 1
      let may (t : Nat) : Prop := t ∈ (s.job h.job).tiles ∧ (s.tile t).loaded = true ∧ (s.tile t).started = false ∧
        (s.tile t).avail = true
      let missing (t : Nat) : Prop := t ∈ (s.job h.job).tiles ∧ (s.tile t).started = false ∧
        ((s.tile t).loaded = false ∨ (s.tile t).avail = false) ∧
        ∃ i, (s.job h.job).loadImage = some i ∧ ∃ y ∈ i.tiles, y.tile = t
      ∃ u, exec (.jobStart p n) s = .next u ∧ (u.slot p n).answer.items = 2 * count ∧ (u.slot p n).answer.status = stOK ∧
        (∀ k, k < count → may (entry k) → (∀ i, i < k → entry i ≠ entry k) →
          u.tile (entry k) = (s.tile (entry k)).begin (some ⟨p, n, 2 * k⟩) (some ⟨p, n, 2 * k + 1⟩) ∧
          2 * k ∈ (u.slot p n).openItems) ∧
        (∀ k, k < count → ¬may (entry k) → ¬missing (entry k) → (entry k ∉ (s.job h.job).tiles ∨ (s.tile (entry k)).loaded = false ∨
            (s.tile (entry k)).started = true) →
          Safety.recordAt u ⟨p, n, 2 * k⟩ = ⟨.failed, stNotPermitted, entry k, 0#64, s.now⟩) ∧
        (∀ k, k < count → missing (entry k) →
          Safety.recordAt u ⟨p, n, 2 * k⟩ = ⟨.failed, stTileLost, entry k, 0#64, s.now⟩) ∧
        (∀ t, (∀ k, k < count → entry k ≠ t) → u.tile t = s.tile t) ∧
        (u.clk = s.clk ∨ (s.clk.powerState = 1 ∧ u.clk = { s.clk with powerState := 0 })) ∧
        ((∃ k, k < count ∧ may (entry k)) → u.clk.powerState ≠ 1) ∧
        Safety.PortsOnly u { s with tiles := u.tiles, clk := u.clk }))

/-- `MAP` and `UNMAP` (R248 to R250): all pages of a `MAP` are mapped to successive frames, or none is and the address of the
first that may not be is told; an `UNMAP` ends once no running command holds a page, and waits until then.
`REG_READ`, `REG_WRITE` and `TILE_RESUME` (R237 to R240, R299): a register of a tile that is there is read; it is written as
an access of its kind is, once its engine has an empty pending slot, and after a `CFGW` that waits for the same; a stream that stands
at a breakpoint goes on past it, and brings the package back from Ready (R437). Which page a failing `MAP` names, and the order of the
tests of the register hampers, are the model's readings (logs 38, 39). -/
def Obligations.PagesAndRegisters : Prop :=
  ((∀ (s : State) (p : Port) (n : Nat), Safety.Serves s 0x0013 p n →
     let h := s.hamperAt p n
     let va := h.at_ 0 8
     let fl := h.at_ 0x14 4
     let frame (i : Nat) : Nat := if fl.testBit 3 then h.at_ 8 8 else h.at_ 8 8 + i * 0x200000
     let ok (i : Nat) : Bool := s.mapPageOk h.job (va + i * 0x200000) (frame i) (fl.testBit 2) (fl.testBit 3)
     ((∀ i, i < h.at_ 0x10 4 → ok i = true) → ∃ u, exec (.map p n) s = .next u ∧
       Safety.Answers s u p n .done stOK 0xFFFF 0#64 ∧ Safety.OtherJobs s u h.job ∧
       u.job h.job = { s.job h.job with pages := (u.job h.job).pages } ∧
       (∀ i, i < h.at_ 0x10 4 → SMap.get {} (u.job h.job).pages (va / 0x200000 + i) =
         ⟨!fl.testBit 3, if fl.testBit 3 then 0 else frame i / 0x200000, fl.testBit 0, fl.testBit 1, fl.testBit 2, fl.testBit 3⟩) ∧
       (∀ q, (q < va / 0x200000 ∨ va / 0x200000 + h.at_ 0x10 4 ≤ q) →
         SMap.get {} (u.job h.job).pages q = SMap.get {} (s.job h.job).pages q) ∧
       Safety.PortsOnly u { s with jobs := u.jobs }) ∧
     (∀ k, k < h.at_ 0x10 4 → ok k = false → (∀ i, i < k → ok i = true) → ∃ u, exec (.map p n) s = .next u ∧
       Safety.Answers s u p n .failed stTranslation 0xFFFF (BitVec.ofNat 64 (va + k * 0x200000)) ∧ Safety.PortsOnly u s)) ∧
   (∀ (s : State) (p : Port) (n : Nat), Safety.Serves s 0x0014 p n → (s.job (s.hamperAt p n).job).unmapItems = [] →
     let h := s.hamperAt p n
     let first := h.at_ 0 8 % 2 ^ 48 / 0x200000
     let mine (q : Nat) : Prop := first ≤ q ∧ q < first + h.at_ 8 4
     ((∃ q, mine q ∧ (s.job h.job).pageKept q = true) → ∃ u, exec (.unmap p n) s = .next u ∧
       Safety.Answers s u p n .failed stNotPermitted 0xFFFF 0#64 ∧ Safety.PortsOnly u s) ∧
     ((∀ q, mine q → (s.job h.job).pageKept q = false) → (∀ q, mine q → s.pageHeld h.job q = false) →
       ∃ u, exec (.unmap p n) s = .next u ∧ Safety.Answers s u p n .done stOK 0xFFFF 0#64 ∧ Safety.OtherJobs s u h.job ∧
         u.job h.job = { s.job h.job with pages := (u.job h.job).pages, uncached := (u.job h.job).uncached } ∧
         (∀ q, mine q → SMap.get {} (u.job h.job).pages q = {}) ∧
         (∀ f, f ∈ (u.job h.job).uncached ↔ f ∈ (s.job h.job).uncached ∨ ∃ q, mine q ∧
           (SMap.get {} (s.job h.job).pages q).mapped = true ∧ (SMap.get {} (s.job h.job).pages q).cache = true ∧
           (SMap.get {} (s.job h.job).pages q).frame = f) ∧
         (∀ q, ¬mine q → SMap.get {} (u.job h.job).pages q = SMap.get {} (s.job h.job).pages q) ∧
         Safety.PortsOnly u { s with jobs := u.jobs }) ∧
     ((∀ q, mine q → (s.job h.job).pageKept q = false) → (∃ q, mine q ∧ s.pageHeld h.job q = true) →
       ∃ u, exec (.unmap p n) s = .next u ∧ Safety.Opens s u p n ∧ Safety.OtherJobs s u h.job ∧
         u.job h.job = { s.job h.job with unmapItems := [(⟨p, n, 0⟩, first, h.at_ 8 4)] } ∧
         Safety.PortsOnly u { s with jobs := u.jobs }))) ∧
  ((∀ (s : State) (p : Port) (n : Nat) (e : Engine), Safety.Serves s 0x0018 p n →
     let h := s.hamperAt p n
     (s.regTest h = .ok e → ∃ u, exec (.regRead p n) s = .next u ∧
       Safety.Answers s u p n .done stOK (h.at_ 0 2) (s.readReg (h.at_ 0 2) e (h.at_ 3 1)) ∧ Safety.PortsOnly u s) ∧
     (∀ st, s.regTest h = .error st → ∃ u, exec (.regRead p n) s = .next u ∧
       Safety.Answers s u p n .failed st (h.at_ 0 2) 0#64 ∧ Safety.PortsOnly u s)) ∧
   (∀ (s : State) (p : Port) (n : Nat) (e : Engine), Safety.Serves s 0x0019 p n → s.regTest (s.hamperAt p n) = .ok e →
     let h := s.hamperAt p n
     let t := h.at_ 0 2
     let v := BitVec.ofNat 64 (h.at_ 8 8)
     ((s.tile t).regWrites = [] → ((s.tile t).eng e).pending = none → ∃ u, exec (.regWrite p n) s = .next u ∧
       (let r := s.writeReg t e (h.at_ 3 1) v
        Safety.Answers s u p n (if r.1 = stOK then .done else .failed) r.1 t 0#64 ∧ u.tile t = r.2.tile t) ∧
       (∀ q, q ≠ t → u.tile q = s.tile q) ∧ Safety.PortsOnly u { s with tiles := u.tiles }) ∧
     (((s.tile t).eng e).pending.isSome = true → ∃ u, exec (.regWrite p n) s = .next u ∧ Safety.Opens s u p n ∧
       u.tile t = { s.tile t with regWrites := (s.tile t).regWrites ++ [⟨⟨p, n, 0⟩, e, h.at_ 3 1, v, (s.tile t).cfgwHeld e⟩] } ∧
       (∀ q, q ≠ t → u.tile q = s.tile q) ∧ Safety.PortsOnly u { s with tiles := u.tiles })) ∧
   (∀ (s : State) (p : Port) (n : Nat), Safety.Serves s 0x001A p n →
     let h := s.hamperAt p n
     let t := h.at_ 0 2
     ((s.tile t).atBreak = true → ∃ u, exec (.tileResume p n) s = .next u ∧ Safety.Answers s u p n .done stOK t 0#64 ∧
       u.tile t = { s.tile t with mode := .running, wait := .none, skipBreak := true } ∧ (∀ q, q ≠ t → u.tile q = s.tile q) ∧
       (∀ r, (s.tile t).breakItem = some r → Safety.Elsewhere p n r → (Safety.recordAt u r).outcome = .none) ∧
       Safety.PortsOnly u { s.toRun with tiles := u.tiles }) ∧
     ((s.tile t).atBreak = false → ∃ u, exec (.tileResume p n) s = .next u ∧
       Safety.Answers s u p n .failed stNotPermitted t 0#64 ∧ Safety.PortsOnly u s)))

/-- `TEARDOWN` completes (R301), and then lets go on what waited for its guard slots (R414): the context holds no job, its tiles are
stopped and free, every frame that only it mapped reads as zeros and, where no command and no collective is cut short, no other byte
changes; what its streams, its stop and its cut still owed has ended. The registers of its last cut stay as the cut ended (Table
14.9): one that was pending SKIPPED, and one that copied torn (log 132). -/
def Obligations.Teardowns : Prop :=
  (∀ (s : State) (p : Port) (n : Nat), Safety.Serves s 0x0022 p n →
    let j := (s.hamperAt p n).job
    ∃ v u : State, exec (.teardown p n) s = .next u ∧ u = v.guardRetry.done (s.hamperAt p n) ∧
      v.job j = { ({} : Job) with tagState := (v.job j).tagState, lastTag := (v.job j).lastTag, cut := (v.job j).cut.shown } ∧
      Safety.OtherJobs s v j ∧
      (∀ t ∈ (s.job j).tiles, (v.tile t).owner = none ∧ (v.tile t).loaded = false ∧ (v.tile t).mode = .idle ∧
        (v.tile t).engines = [] ∧ (v.tile t).tags = []) ∧
      ((s.job j).unmapItems = [] → ∀ c q, q / 0x200000 ∈ s.framesOf j → s.mappedElsewhere j (q / 0x200000) = false →
        v.store.byte c q = 0#8)) ∧
  ∀ (s : State) (p : Port) (n : Nat), Safety.Serves s 0x0022 p n → Safety.NoGuardWait s →
    let j := (s.hamperAt p n).job
    (∀ r, Safety.Owed s j r → Safety.Elsewhere p n r) → s.cachedLines j = [] → (s.job j).unmapItems = [] →
    ∃ u, exec (.teardown p n) s = .next u ∧ Safety.Answers s u p n .done stOK 0xFFFF 0#64 ∧
      (u.job j).phase = 0 ∧ (u.job j).tiles = [] ∧ (u.job j).pages = [] ∧ (u.job j).binding = none ∧ (u.job j).cut = (u.job j).cut.shown ∧
      ((s.job j).binding = none →
        ((s.job j).cut.state = 1 → (u.job j).cut = { (s.job j).cut.shown with state := 6, status := stSkipped }) ∧
        ((s.job j).cut.active = true → (u.job j).cut = { (s.job j).cut.shown with state := 5, status := stTorn }) ∧
        ((s.job j).cut.state ≠ 1 → (s.job j).cut.active = false → (u.job j).cut = (s.job j).cut.shown)) ∧
      (u.job j).mirror = {} ∧ Safety.OtherJobs s u j ∧
      (∀ t ∈ (s.job j).tiles, (u.tile t).owner = none ∧ (u.tile t).loaded = false ∧ (u.tile t).mode = .idle ∧
        (u.tile t).engines = [] ∧ (u.tile t).tags = []) ∧
      (∀ c q, q / 0x200000 ∈ s.framesOf j → s.mappedElsewhere j (q / 0x200000) = false → u.store.byte c q = 0#8) ∧
      ((∀ t e r, s.runningOf t e = some r → r.images = []) → (∀ x ∈ (s.job j).colls, ∃ st, x.phase = .ended st) →
        ∀ c q, q / 0x200000 ∉ s.framesOf j → u.store.byte c q = s.store.byte c q) ∧
      (∀ t ∈ (s.job j).tiles, ∀ r, (s.tile t).streamItem = some r →
        (∀ q ∈ (s.job j).tiles, (∀ x ∈ (s.tile q).regWrites, x.item ≠ r) ∧ (q ≠ t → (s.tile q).streamItem ≠ some r)) →
        ∃ d, Safety.Ends s u r .donePartial stPartial t d)

/-- `STOP_AT_STEP` and `STEP_RESUME` (R46 to R50): a stop for a step to come is armed in place of the one before, which is
SKIPPED; one for the step at which the job stands stopped ends at once; any other fails with the counter. `STEP_RESUME` releases
the tiles of a stopped job, as the boundary does, and brings the package back from Ready (R437).
`CHECKPOINT` (R402 to R404): a cut of a boundary to come is pending, and its item open; what may not be cut is refused. -/
def Obligations.StepStops : Prop :=
  ((∀ (s : State) (p : Port) (n : Nat), Safety.Serves s 0x0020 p n →
     let h := s.hamperAt p n
     let j := h.job
     let at_ := BitVec.ofNat 64 (h.at_ 0 8)
     (at_ ≠ BitVec.allOnes 64 → (s.job j).step.toNat < at_.toNat →
       (∀ r, (s.job j).stopItem = some r → Safety.Elsewhere p n r) → ∃ u, exec (.stopAtStep p n) s = .next u ∧
       Safety.Opens s u p n ∧ u.job j = { s.job j with stopAt := at_, stopItem := some ⟨p, n, 0⟩ } ∧ Safety.OtherJobs s u j ∧
       (∀ r, (s.job j).stopItem = some r → Safety.Ends s u r .skipped stSkipped 0xFFFF 0#64) ∧
       Safety.PortsOnly u { s with jobs := u.jobs }) ∧
     (at_ ≠ BitVec.allOnes 64 → (s.job j).step = at_ → (s.job j).phase = 3 → ∃ u, exec (.stopAtStep p n) s = .next u ∧
       Safety.Answers s u p n .done stOK 0xFFFF 0#64 ∧ Safety.PortsOnly u s) ∧
     ((at_ = BitVec.allOnes 64 ∨ at_.toNat < (s.job j).step.toNat ∨ ((s.job j).step = at_ ∧ (s.job j).phase ≠ 3)) →
       ∃ u, exec (.stopAtStep p n) s = .next u ∧ Safety.Answers s u p n .failed stNotPermitted 0xFFFF (s.job j).step ∧
         Safety.PortsOnly u s)) ∧
   (∀ (s : State) (p : Port) (n : Nat), Safety.Serves s 0x0021 p n →
     let j := (s.hamperAt p n).job
     ∃ u, exec (.stepResume p n) s = .next u ∧ Safety.Answers s u p n .done stOK 0xFFFF 0#64 ∧
       u.job j = { s.job j with phase := 1, stepTime := s.now } ∧ Safety.OtherJobs s u j ∧
       (∀ q, q ∉ (s.job j).tiles → u.tile q = s.tile q) ∧
       (∀ t w, t ∈ (s.job j).tiles → (s.tile t).wait = .arrived → (s.tile t).held = some (.stepEnd t w) →
         (u.tile t).wait = .none ∧ (u.tile t).held = none ∧ (u.tile t).ordinal = ((s.tile t).ordinal + 1) % 2 ^ 48 ∧
         (w.imm 5 1 = 1 → (u.tile t).sreg (w.imm 0 5) = (s.job j).step)) ∧
       Safety.PortsOnly u { s.toRun with jobs := u.jobs, tiles := u.tiles })) ∧
  (∀ (s : State) (p : Port) (n : Nat), Safety.Serves s 0x0030 p n → (s.job (s.hamperAt p n).job).unmapItems = [] →
     let h := s.hamperAt p n
     (s.cutRefused h = none → (s.job h.job).step ≠ BitVec.ofNat 64 (h.at_ 0 8) → ∃ u, exec (.checkpoint p n) s = .next u ∧
       Safety.Opens s u p n ∧ u.job h.job = { s.job h.job with cut := h.newCut } ∧ Safety.OtherJobs s u h.job ∧
       Safety.PortsOnly u { s with jobs := u.jobs }) ∧
     (s.cutRefused h = none → (s.job h.job).step = BitVec.ofNat 64 (h.at_ 0 8) → ∃ u, exec (.checkpoint p n) s = .next u ∧
       Safety.Opens s u p n ∧ (u.job h.job).cut = { h.newCut with state := 2 } ∧ Safety.OtherJobs s u h.job ∧
       u.store.mem = s.store.mem ∧ u.tiles = s.tiles) ∧
     (∀ st, s.cutRefused h = some st → ∃ u, exec (.checkpoint p n) s = .next u ∧
       Safety.Answers s u p n .failed st 0xFFFF 0#64 ∧ Safety.PortsOnly u s))

/-- `TAG_ASSIGN`, `TAG_TEARDOWN`, `QUARANTINE_EXPIRY` and `MGMT` (R313, R342 to R346): a sound binding of a free tag binds the
context with its flows as new; a teardown unbinds it, and the tag is in quarantine for 100 ms, after which it shows no more; a
management packet whose check holds sets the endpoint and the paths, and any other is a stranger; before the package has an endpoint
number a packet for any is taken, which is the model's reading (log 122). -/
def Obligations.FabricTags : Prop :=
  (∀ (s : State) (p : Port) (n : Nat), Safety.Serves s 0x0050 p n →
    let h := s.hamperAt p n
    let b := h.newBinding
    (b.ok = true → (s.job h.job).binding = none → s.tagBound (b.jtag % 2 ^ 20) = false → s.fab.endpoint.isSome = true →
      s.quarantined b.jtag = false → ∃ u, exec (.tagAssign p n) s = .next u ∧ Safety.Answers s u p n .done stOK 0xFFFF 0#64 ∧
        u.job h.job = (s.job h.job).bind b ∧ Safety.OtherJobs s u h.job ∧ Safety.PortsOnly u { s with jobs := u.jobs }) ∧
    (b.ok = false → ∃ u, exec (.tagAssign p n) s = .next u ∧ Safety.Answers s u p n .failed stDescBad 0xFFFF 0#64 ∧
      Safety.PortsOnly u s) ∧
    (b.ok = true → ((s.job h.job).binding.isSome = true ∨ s.tagBound (b.jtag % 2 ^ 20) = true ∨ s.fab.endpoint = none ∨
      s.quarantined b.jtag = true) → ∃ u, exec (.tagAssign p n) s = .next u ∧
        Safety.Answers s u p n .failed stNotPermitted 0xFFFF 0#64 ∧ Safety.PortsOnly u s)) ∧
  (∀ (s : State) (p : Port) (n : Nat), Safety.Serves s 0x0051 p n →
    let j := (s.hamperAt p n).job
    ((s.job j).binding = none → ∃ u, exec (.tagTeardown p n) s = .next u ∧
      Safety.Answers s u p n .failed stNotPermitted 0xFFFF 0#64 ∧ Safety.PortsOnly u s) ∧
    (∀ b, (s.job j).binding = some b → (s.job j).colls = [] → (s.job j).ops = [] → (s.job j).cut.active = false →
      (s.job j).unmapItems = [] →
      (∀ t ∈ (s.job j).tiles, s.runningOf t .tm = none ∧ (s.tile t).wait ≠ .condition ∧ (s.tile t).wait ≠ .endDrain ∧
        (s.tile t).haltPending = none) →
      ∃ u, exec (.tagTeardown p n) s = .next u ∧ Safety.Answers s u p n .done stOK 0xFFFF 0#64 ∧
        u.job j = { s.job j with
          binding := none, tagState := 2, lastTag := b.jtag, torn := true, queues := [], heldTriggers := [], lists := [], flows := [] } ∧
        Safety.OtherJobs s u j ∧ u.fab = { s.fab with
          quarantine := s.fab.quarantine ++ [(b.jtag, s.now + 100000000#64)], waiting := s.fab.waiting.filter (fun x => x.1 ≠ j) } ∧
        u.store = s.store ∧ (∀ t, u.tile t = s.tile t))) ∧
  (∀ (s : State) (jtag : Nat) (time : BitVec 64), s.fab.quarantine.find? (fun q => q.1 = jtag) = some (jtag, time) →
    ∃ u, exec (.quarantineExpiry jtag) s = .next u ∧ u.now.toNat = max s.now.toNat time.toNat ∧
      u.fab.quarantine = s.fab.quarantine.filter (fun x => x.1 ≠ jtag) ∧
      (∀ j, j < 16 → (s.job j).tagState = 2 → (s.job j).lastTag = jtag → u.job j = { s.job j with tagState := 0 }) ∧
      (∀ j, ((s.job j).tagState ≠ 2 ∨ (s.job j).lastTag ≠ jtag) → u.job j = s.job j) ∧ u.store = s.store ∧ u.tiles = s.tiles) ∧
  (∀ (s : State) (q : Packet) (endpt : BitVec 16) (paths down : Nat), packetOk q = true → q.typ = 0x3F#8 →
    (∀ x, s.fab.endpoint = some x → x = q.dst.toNat) →
    (∀ ok, (q.jtag ≠ 0#32 ∨ ok = false ∨ s.sec.fmk = none) → exec (.mgmt q endpt paths down ok) s = .next (s.stranger q)) ∧
    (q.jtag = 0#32 → s.sec.fmk.isSome = true → 1 ≤ paths → paths ≤ 16 → ∃ u, exec (.mgmt q endpt paths down true) s = .next u ∧
      u.fab.endpoint = some endpt.toNat ∧ u.fab.paths = paths ∧ (∀ i, i ∈ u.fab.pathsDown ↔ i < 16 ∧ down.testBit i = true) ∧
      u = { s with fab := { s.fab with endpoint := u.fab.endpoint, paths := paths, pathsDown := u.fab.pathsDown } }))

/-! ## The twin's hampers (R378 to R394) -/

/-- `PAIR` and `DETACH` (R379, R382): with the board's sense, an unpaired package and the gallery up, `PAIR` shows the package's own
key and waits, or is done at once where the twin has shown the key that it names and has checked this package's (log 126); what
the twin showed more than 1 s before is forgotten; its failures tell their causes. A package with no context detaches.
`MIRROR_SETUP`, `RELEASE` and `RESYNC` (R383, R384, R394): a side that nothing refuses stands as its body describes it and waits
for the twin's; a released source tracks no more, a released sink keeps its frames, the mirror's registers are as before a setup
(log 76), and the twin hears of it; after `RESYNC` the next delta carries every block. -/
def Obligations.TwinHampers : Prop :=
  ((∀ (s : State) (p : Port) (n : Nat), Safety.Serves s 0x0040 p n →
     let twin := slice (s.hamperAt p n).body 0 48
     let may := s.board.pairSense = true ∧ s.pair.state ≠ 1 ∧ s.pair.state ≠ 2 ∧ s.pair.item = none ∧ s.pair.galleryUp ≠ 0#32
     let late := s.pair.shownAt.toNat + 1000000000 ≤ s.now.toNat
     (may → late → ∃ u, exec (.pair p n) s = .next u ∧ Safety.Opens s u p n ∧ Out.pairing s.identityPub false ∈ u.out ∧
       u.pair = { s.pair with twinId := [], twinChecked := false, told := false, item := some ⟨p, n, 0⟩, itemTwin := twin } ∧
       Safety.PortsOnly u { s with pair := u.pair }) ∧
     (may → ¬late → s.pair.twinId = [] → ∃ u, exec (.pair p n) s = .next u ∧ Safety.Opens s u p n ∧
       Out.pairing s.identityPub false ∈ u.out ∧ u.pair = { s.pair with item := some ⟨p, n, 0⟩, itemTwin := twin } ∧
       Safety.PortsOnly u { s with pair := u.pair }) ∧
     (may → ¬late → s.pair.twinId ≠ [] → s.pair.twinId = twin → s.pair.twinChecked = false → ∃ u, exec (.pair p n) s = .next u ∧
       Safety.Opens s u p n ∧ (s.pair.told = false → Out.pairing s.identityPub true ∈ u.out) ∧
       u.pair = { s.pair with item := some ⟨p, n, 0⟩, itemTwin := twin, told := true } ∧
       Safety.PortsOnly u { s with pair := u.pair }) ∧
     (may → ¬late → s.pair.twinId ≠ [] → s.pair.twinId = twin → s.pair.twinChecked = true →
       (∀ j, j < 16 → (s.job j).mirror.isSource = false) → ∃ u, exec (.pair p n) s = .next u ∧
       Safety.Answers s u p n .done stOK 0xFFFF 0#64 ∧ u.pair.state = 1 ∧ u.pair.missed = 0 ∧ u.pair.item = none ∧
       Safety.PortsOnly u { s with pair := u.pair }) ∧
     (may → ¬late → s.pair.twinId ≠ [] → s.pair.twinId ≠ twin → ∃ u, exec (.pair p n) s = .next u ∧
       Safety.Answers s u p n .failed stNotPermitted 0xFFFF 4#64 ∧ u.pair.state = s.pair.state ∧ u.pair.item = none) ∧
     (s.board.pairSense = false → ∃ u, exec (.pair p n) s = .next u ∧
       Safety.Answers s u p n .failed stNotPermitted 0xFFFF 1#64 ∧ Safety.PortsOnly u s) ∧
     (s.board.pairSense = true → (s.pair.state = 1 ∨ s.pair.state = 2) → ∃ u, exec (.pair p n) s = .next u ∧
       Safety.Answers s u p n .failed stNotPermitted 0xFFFF 2#64 ∧ Safety.PortsOnly u s)) ∧
   (∀ (s : State) (p : Port) (n : Nat), Safety.Serves s 0x0042 p n →
     ((∀ j, j < 16 → (s.job j).phase = 0) → ∃ u, exec (.detach p n) s = .next u ∧
       Safety.Answers s u p n .done stOK 0xFFFF 0#64 ∧ u.pair.state = 0 ∧ u.pair.galleryUp = 0#32 ∧ u.pair.twin = none ∧
       Safety.PortsOnly u { s with pair := u.pair }) ∧
     ((∃ j, j < 16 ∧ (s.job j).phase ≠ 0) → ∃ u, exec (.detach p n) s = .next u ∧
       Safety.Answers s u p n .failed stNotPermitted 0xFFFF 0#64 ∧ Safety.PortsOnly u s))) ∧
  ((∀ (s : State) (p : Port) (n : Nat), Safety.Serves s 0x0043 p n →
     let h := s.hamperAt p n
     (s.mirrorRefused h.job h.newMirror = none → ∃ u, exec (.mirrorSetup p n) s = .next u ∧ Safety.Opens s u p n ∧
       u.job h.job = { s.job h.job with mirror := h.newMirror } ∧ Safety.OtherJobs s u h.job ∧
       Safety.PortsOnly u { s with jobs := u.jobs, pair := { s.pair with
         handed := s.pair.handed.filter (fun c => !(h.newMirror.side == some true) || c ≠ h.newMirror.twinCtx)
         released := s.pair.released.filter (fun c => c ≠ h.newMirror.twinCtx) } }) ∧
     (∀ st, s.mirrorRefused h.job h.newMirror = some st → ∃ u, exec (.mirrorSetup p n) s = .next u ∧
       Safety.Answers s u p n .failed st 0xFFFF 0#64 ∧ Safety.PortsOnly u s)) ∧
   (∀ (s : State) (p : Port) (n : Nat), Safety.Serves s 0x4102 p n →
     let j := (s.hamperAt p n).job
     let m := (s.job j).mirror
     (m.isSource = true → Safety.NoGuardWait s → ∃ u, exec (.releaseMirror p n) s = .next u ∧
       Safety.Answers s u p n .done stOK 0xFFFF 0#64 ∧ u.job j = { s.job j with mirror := {} } ∧ Safety.OtherJobs s u j ∧
       u.pair = { s.pair with released := s.pair.released.filter (fun c => c ≠ m.twinCtx) ++ [m.twinCtx] } ∧
       u.store.tracks = s.store.tracks.filter (fun t => t.job ≠ j) ∧ u.store.mem = s.store.mem ∧ (∀ t, u.tile t = s.tile t)) ∧
     (m.state = 4 → ∃ u, exec (.releaseMirror p n) s = .next u ∧ Safety.Answers s u p n .done stOK 0xFFFF 0#64 ∧
       u.job j = { s.job j with
         mirror := { copyBase := m.copyBase, copyBytes := m.copyBytes, logBase := m.logBase, logBytes := m.logBytes } } ∧
       Safety.OtherJobs s u j ∧ Safety.PortsOnly u { s with jobs := u.jobs, pair := { s.pair with
         released := s.pair.released.filter (fun c => c ≠ m.twinCtx) ++ [m.twinCtx] } }) ∧
     (m.isSource = false → m.state ≠ 4 → ∃ u, exec (.releaseMirror p n) s = .next u ∧
       Safety.Answers s u p n .failed stNotPermitted 0xFFFF 0#64 ∧ Safety.PortsOnly u s)) ∧
   (∀ (s : State) (p : Port) (n : Nat), Safety.Serves s 0x4103 p n →
     let j := (s.hamperAt p n).job
     let m := (s.job j).mirror
     (m.isSource = true → ∃ u, exec (.resync p n) s = .next u ∧ Safety.Answers s u p n .done stOK 0xFFFF 0#64 ∧
       u.job j = { s.job j with mirror := { m with carried := (s.job j).mirrorBlocks.map Prod.fst } } ∧
       Safety.OtherJobs s u j ∧ Safety.PortsOnly u { s with jobs := u.jobs }) ∧
     (m.isSource = false → ∃ u, exec (.resync p n) s = .next u ∧
       Safety.Answers s u p n .failed stNotPermitted 0xFFFF 0#64 ∧ Safety.PortsOnly u s)))

/-- A sink context has become the job (R391): it stands at its committed boundary, its victims have ended, the registers of the
takeover name the boundary, and its item ends as it says. -/
def Safety.TakenOver (s u : State) (p : Port) (n : Nat) (o : ItemOutcome) (st : Status) : Prop :=
  let j := (s.hamperAt p n).job
  let m := (s.job j).mirror
  Safety.Answers s u p n o st 0xFFFF m.committed ∧ (u.job j).step = m.committed ∧ (u.job j).mirror.state = 5 ∧
  (u.job j).mirror.committed = m.committed ∧ (∀ v ∈ m.victims, v ≠ j → (u.job v).phase = 0) ∧
  u.bar2Word 0x610 = m.committed ∧ u.bar2Word 0x618 = s.heardStep m.twinCtx

/-- `TAKEOVER` and `HANDOVER` (R390 to R393): a standing sink of a twin that is SUSPECT, or LOST through an earlier takeover, takes over, DONE_PARTIAL at its committed
boundary; a sink whose source stands stopped at that boundary takes it over cleanly, and one whose source stands halted does so as
a takeover. The package is LOST while another sink of a dead twin stands, and unpaired after the last (log 42). Who seals a
handover, and that the twin's last heartbeat says how the source stands, is the model's reading (log 74). -/
def Obligations.Takeovers : Prop :=
  ∀ (s : State) (p : Port) (n : Nat), Safety.NoGuardWait s →
    let j := (s.hamperAt p n).job
    let m := (s.job j).mirror
    (∀ i r, (i = j ∨ i ∈ m.victims) → Safety.Owed s i r → Safety.Elsewhere p n r) →
    let lost (u : State) : Prop := ((∃ i, i < 16 ∧ (u.job i).mirror.state = 4) → u.pair.state = 3) ∧
      ((∀ i, i < 16 → (u.job i).mirror.state ≠ 4) → u.pair.state = 0)
    (Safety.Serves s 0x4100 p n → (s.pair.state = 2 ∨ (s.pair.state = 3 ∧ s.pair.taken = true)) → m.state = 4 → ∃ u,
      exec (.takeover p n) s = .next u ∧ Safety.TakenOver s u p n .donePartial stTakeover ∧ lost u) ∧
    (Safety.Serves s 0x4100 p n → ¬((s.pair.state = 2 ∨ (s.pair.state = 3 ∧ s.pair.taken = true)) ∧ m.state = 4) → ∃ u,
      exec (.takeover p n) s = .next u ∧ Safety.Answers s u p n .failed stNotPermitted 0xFFFF 0#64 ∧ Safety.PortsOnly u s) ∧
    (∀ clean, Safety.Serves s 0x4101 p n → (s.pair.state = 1 ∨ s.pair.state = 2) → m.state = 4 →
      s.sourceStands m = some clean → ∃ u, exec (.handover p n) s = .next u ∧
        Safety.TakenOver s u p n (if clean then .done else .donePartial) (if clean then stOK else stTakeover) ∧
        (s.pair.state = 1 → u.pair.state = 1 ∧ m.twinCtx ∈ u.pair.handed) ∧ (s.pair.state = 2 → lost u)) ∧
    (Safety.Serves s 0x4101 p n → (¬((s.pair.state = 1 ∨ s.pair.state = 2) ∧ m.state = 4) ∨ s.sourceStands m = none) → ∃ u,
      exec (.handover p n) s = .next u ∧ Safety.Answers s u p n .failed stNotPermitted 0xFFFF 0#64 ∧ Safety.PortsOnly u s)

/-! ## Security (R444 to R463) -/

/-- A fuse write: the attics of both hearths take it, and MR2 is extended (R444, R451); until time goes on it may still be cut by a
loss of VAUX (log 50). -/
def Safety.Blown (s u : State) (f : Attic → Attic) : Prop :=
  u.sec.h0 = { s.sec.h0 with attic := f s.sec.h0.attic } ∧ u.sec.h1 = { s.sec.h1 with attic := f s.sec.h1.attic } ∧
  (∃ d, u.sec.mr = s.sec.mr.set 2 (sha384 (s.sec.mr.getD 2 [] ++ d))) ∧
  u.sec = { s.sec with h0 := u.sec.h0, h1 := u.sec.h1, mr := u.sec.mr, fuse := some (s.sec.h0.attic, s.sec.h1.attic) } ∧
  Safety.PortsOnly u { s with sec := u.sec }

/-- `KEY_OP` (R457 Table 16.7): each operation that its conditions allow writes its fuses, or sets the fabric management key, and
is DONE; one that is done already changes nothing; one that is not allowed tells its cause. That `FMK_SET` is refused under a debug
unlock alone is the model's reading (log 48). -/
def Obligations.KeyOperations : Prop :=
  ∀ (s : State) (p : Port) (n : Nat),
    let h := s.hamperAt p n
    let k := h.keyIndex
    let a := s.attic
    let done (c : Instr) (f : Attic → Attic) : Prop := ∃ u, exec c s = .next u ∧
      Safety.Answers s u p n .done stOK 0xFFFF 0#64 ∧ Safety.Blown s u f
    let same (c : Instr) : Prop := ∃ u, exec c s = .next u ∧ Safety.Answers s u p n .done stOK 0xFFFF 0#64 ∧ Safety.PortsOnly u s
    let fails (c : Instr) (cause : Nat) : Prop := ∃ u, exec c s = .next u ∧
      Safety.Answers s u p n .failed stNotPermitted 0xFFFF (BitVec.ofNat 64 cause) ∧ Safety.PortsOnly u s
    let revoked := a.fwRevoked ||| fuseBit k
    (Safety.Serves s 0x7100 p n → k < 4 →
      (a.ownProg.getLsbD k = true → a.ownHash.getD k [] = h.keyValue → same (.ownerProgram p n)) ∧
      (a.ownProg.getLsbD k = false → a.lifecycle = 1 → done (.ownerProgram p n) (fun a => { a with
        ownHash := a.ownHash.set k h.keyValue, ownProg := a.ownProg ||| fuseBit k })) ∧
      (a.ownProg.getLsbD k = false → a.lifecycle ≠ 1 → fails (.ownerProgram p n) 1) ∧
      (a.ownProg.getLsbD k = true → a.ownHash.getD k [] ≠ h.keyValue → a.lifecycle = 1 → fails (.ownerProgram p n) 2)) ∧
    (Safety.Serves s 0x7101 p n → k < 4 →
      (a.fwRevoked.getLsbD k = true → same (.fwRevoke p n)) ∧
      (a.fwRevoked.getLsbD k = false → revoked = 15#4 → fails (.fwRevoke p n) 3) ∧
      (a.fwRevoked.getLsbD k = false → revoked ≠ 15#4 → (s.sec.h0.signedBy k = true ∨ s.sec.h1.signedBy k = true) →
        fails (.fwRevoke p n) 4) ∧
      (a.fwRevoked.getLsbD k = false → revoked ≠ 15#4 → s.sec.h0.signedBy k = false → s.sec.h1.signedBy k = false →
        done (.fwRevoke p n) (fun a => { a with fwRevoked := a.fwRevoked ||| fuseBit k }))) ∧
    (Safety.Serves s 0x7102 p n → k < 4 →
      (a.ownRevoked.getLsbD k = true → same (.ownerRevoke p n)) ∧
      (a.ownRevoked.getLsbD k = false → a.owners = [k] → fails (.ownerRevoke p n) 3) ∧
      (a.ownRevoked.getLsbD k = false → a.owners ≠ [k] →
        done (.ownerRevoke p n) (fun a => { a with ownRevoked := a.ownRevoked ||| fuseBit k }) ∧
        ∃ u, exec (.ownerRevoke p n) s = .next u ∧ ∀ q x, (u.portOf q).session = some x → x.ownerSlot ≠ k)) ∧
    (Safety.Serves s 0x7103 p n →
      let v := h.at_ 8 1 % 128
      (v ≤ a.svn → same (.svnAdvance p n)) ∧
      (a.svn < v → (s.hearth s.sec.active).imageSvn < v → fails (.svnAdvance p n) 5) ∧
      (a.svn < v → v ≤ (s.hearth s.sec.active).imageSvn → done (.svnAdvance p n) (fun a => { a with svn := v }))) ∧
    (Safety.Serves s 0x7104 p n →
      (s.sec.debug = false → ∃ u, exec (.fmkSet p n) s = .next u ∧ Safety.Answers s u p n .done stOK 0xFFFF 0#64 ∧
        u.sec = { s.sec with fmk := some h.keyValue } ∧ Safety.PortsOnly u { s with sec := u.sec }) ∧
      (s.sec.debug = true → fails (.fmkSet p n) 6)) ∧
    (Safety.Serves s 0x7105 p n →
      (a.ideLock = true → same (.ideLock p n)) ∧
      (a.ideLock = false → a.lifecycle = 0 → fails (.ideLock p n) 1) ∧
      (a.ideLock = false → a.lifecycle ≠ 0 → done (.ideLock p n) (fun a => { a with ideLock := true })))

/-- `SESSION_OPEN`, `LIFECYCLE`, `DEBUG_UNLOCK`, `FW_UPDATE` and `POWER_LIMIT` (R435, R453 to R462): each that its tests allow has its
effect, and its failure names the status: a session's key comes from the two ephemeral keys and the challenge, which changes with
each take; a lifecycle moves as Table 16.8 permits, into RMA with memory as zeros and no session left; an unlock takes the fabric
management key, and scopes of several unlocks add up (log 85); an image that passes its tests is staged in both flashes, and the first test that
one fails is shown by the active hearth (log 131); a power limit is set and its state entered. -/
def Obligations.SecurityHampers : Prop :=
  ∀ (s : State) (p : Port) (n : Nat),
    let h := s.hamperAt p n
    let a := s.attic
    let fails (c : Instr) (st : Status) (cause : Nat) : Prop := ∃ u, exec c s = .next u ∧
      Safety.Answers s u p n .failed st 0xFFFF (BitVec.ofNat 64 cause) ∧ Safety.PortsOnly u s
    (Safety.Serves s 0x0008 p n →
      (s.sessionRefused h = false → ∃ u, exec (.sessionOpen p n) s = .next u ∧ Safety.Answers s u p n .done stOK 0xFFFF 0#64 ∧
        (∃ d sig, let host := slice h.body 0 96
          let dev := bytes96 (p384Public d)
          (u.portOf p).session = some ⟨hkdfExpand48 (hkdfExtract h.chal (p384Ecdh d (halves96 host)))
            (ascii "KN8-MBX" ++ [portByte p] ++ sha384 (host ++ dev)), 0, h.at_ 0x60 1⟩ ∧
          (u.slot p n).reply = zeros 8 ++ dev ++ sig ++ zeros 1768) ∧
        (u.portOf p).chal = freshChal s.fresh ∧ Safety.PortsOnly u s) ∧
      (s.sessionRefused h = true → fails (.sessionOpen p n) stAuthTag 0)) ∧
    (Safety.Serves s 0x0072 p n →
      let target := h.at_ 0 1
      ((∃ j, j < 16 ∧ (s.job j).phase ≠ 0) → fails (.lifecycle p n) stNotPermitted 0) ∧
      ((∀ j, j < 16 → (s.job j).phase = 0) → s.passage p target = .refused → fails (.lifecycle p n) stNotPermitted 0) ∧
      ((∀ j, j < 16 → (s.job j).phase = 0) → s.passage p target = .free → ∃ u, exec (.lifecycle p n) s = .next u ∧
        Safety.Answers s u p n .done stOK 0xFFFF 0#64 ∧ Safety.Blown s u (fun a => { a with lifecycle := target })) ∧
      (∀ own fw, (∀ j, j < 16 → (s.job j).phase = 0) → s.passage p target = .token own fw →
        (s.tokenOk (slice h.body 8 288) 1 (some target) h.chal own fw = false → fails (.lifecycle p n) stAuthTag 0) ∧
        (s.tokenOk (slice h.body 8 288) 1 (some target) h.chal own fw = true → ∃ u, exec (.lifecycle p n) s = .next u ∧
          Safety.Answers s u p n .done stOK 0xFFFF 0#64 ∧ u.sec.h0.attic = { s.sec.h0.attic with lifecycle := target } ∧
          u.sec.h1.attic = { s.sec.h1.attic with lifecycle := target } ∧
          (target = 3 → u.sec.fmk = none ∧ u.portA.session = none ∧ u.portB.session = none ∧ ∀ c q, u.store.byte c q = 0#8) ∧
          u.jobs = s.jobs ∧ u.tiles = s.tiles))) ∧
    (Safety.Serves s 0x0073 p n →
      ((∃ j, j < 16 ∧ (s.job j).phase ≠ 0) → fails (.debugUnlock p n) stNotPermitted 0) ∧
      ((∀ j, j < 16 → (s.job j).phase = 0) → s.unlockOk h = false → fails (.debugUnlock p n) stAuthTag 0) ∧
      ((∀ j, j < 16 → (s.job j).phase = 0) → s.unlockOk h = true → ∃ u, exec (.debugUnlock p n) s = .next u ∧
        Safety.Answers s u p n .done stOK 0xFFFF 0#64 ∧ u.sec.fmk = none ∧ u.sec.debug = true ∧
        u.sec.scope = s.sec.scope ||| BitVec.ofNat 3 (h.at_ 4 1) ∧
        u.sec.mr = s.sec.mr.set 3 (sha384 (s.sec.mr.getD 3 [] ++ sha384 (slice h.body 0 288))) ∧
        Safety.PortsOnly u { s with sec := u.sec })) ∧
    (Safety.Serves s 0x0070 p n → h.at_ 8 8 ≤ 0x1000000 → h.at_ 0 8 + h.at_ 8 8 ≤ windowEnd → ∀ (img : List Byte) (e : State),
      (Safety.accepted s p n).readPhys (h.at_ 0 8) (h.at_ 8 8) = (none, img, e) →
      (imageFail a img (some (h.at_ 8 8)) = 0 → ∃ u, exec (.fwUpdate p n) s = .next u ∧
        Safety.Answers s u p n .done stOK 0xFFFF 0#64 ∧
        (∀ h, (s.hearth h).flash.ruling.generation + 1 < 2 ^ 64 →
          (u.hearth h).flash.ruling.valid = true ∧ (u.hearth h).flash.copy (u.hearth h).flash.activeB = img) ∧
        u.sec.h0 = { s.sec.h0 with flash := s.sec.h0.flash.update img } ∧
        u.sec.h1 = { s.sec.h1 with flash := s.sec.h1.flash.update img } ∧
        u.sec.mr = s.sec.mr.set 5 (sha384 (s.sec.mr.getD 5 [] ++ imgDigest img)) ∧ u.jobs = s.jobs ∧ u.tiles = s.tiles) ∧
      (imageFail a img (some (h.at_ 8 8)) ≠ 0 → ∃ u, exec (.fwUpdate p n) s = .next u ∧
        Safety.Answers s u p n .failed (imageStatus (imageFail a img (some (h.at_ 8 8)))) 0xFFFF 0#64 ∧
        u.sec = (s.setHearth s.sec.active
          { s.hearth s.sec.active with bootFail := imageFail a img (some (h.at_ 8 8)) }).sec ∧
        u.jobs = s.jobs ∧ u.tiles = s.tiles)) ∧
    (Safety.Serves s 0x0060 p n →
      let w := h.at_ 0 4
      (∀ cause, s.powerRefusal w (h.at_ 4 1) = some cause → fails (.powerLimit p n) stNotPermitted cause) ∧
      (s.powerRefusal w (h.at_ 4 1) = none → ∃ u, exec (.powerLimit p n) s = .next u ∧
        Safety.Answers s u p n .done stOK 0xFFFF 0#64 ∧ u.clk.limit = (if w = 0 then s.clk.limit else w) ∧
        u.clk.powerState = (if h.at_ 4 1 = 0 then s.clk.powerState else h.at_ 4 1) ∧
        (h.at_ 4 1 ≤ 2 → u.store = s.store) ∧ u.jobs = s.jobs ∧ u.tiles = s.tiles))

/-- The host's SPDM requests on a port that is served (R450 to R452, R463): discovery and version open a connection, the
capabilities and algorithms settle it, a signed answer carries the transcript under the device's identity key, a key exchange and
the requester's check make a session, and only a session carries heartbeats, key updates, its end, and the keys of IDE streams. -/
def Obligations.Attestation : Prop :=
  ∀ (s : State) (p : Port), s.doeServed p = true →
    let x := s.spdmOf p
    let tells (c : Instr) (x' : Spdm) (code : Nat) (data : List Byte) : Prop :=
      exec c s = .next ((s.setSpdm p x').answerDoe p code data)
    let signs (c : Instr) (f : Spdm → Spdm) (code : Nat) (request body : List Byte) (k : Nat) : Prop := ∃ u, exec c s = .next u ∧
      ∃ nonce sig, nonce.length = k ∧ u.out = s.out ++ [.doe p code (body ++ nonce ++ sig)] ∧
        u.portOf p = { s.portOf p with
          spdm := { f x with transcript := x.transcript ++ request ++ [BitVec.ofNat 8 code] ++ (body ++ nonce ++ sig) } } ∧
        sig = bytes96 (ecdsaSign s.identity ({ s with fresh := u.fresh - 1 }).drawKey
          (x.transcript ++ request ++ [BitVec.ofNat 8 code] ++ (body ++ nonce))) ∧
        Safety.PortsOnly u s
    (∀ i, i < 3 → exec (.doeDiscovery p i) s = .next (s.answerDoe p 0
      [1#8, 0#8, BitVec.ofNat 8 i, BitVec.ofNat 8 ((i + 1) % 3)])) ∧
    tells (.getVersion p) { version := 1, transcript := [0x84#8, 0x04#8, 0x12#8, 0x13#8] } 0x04 [0x12#8, 0x13#8] ∧
    (∀ v, x.version = 1 → (v = 0x12 ∨ v = 0x13) → tells (.getCapabilities p v)
      { x with version := v, transcript := x.transcript ++ [0xE1#8, BitVec.ofNat 8 v, 0x61#8, BitVec.ofNat 8 v] } 0x61
      [BitVec.ofNat 8 v]) ∧
    (2 ≤ x.version → x.negotiated = false → tells (.negotiateAlgorithms p true true true true)
      { x with negotiated := true, transcript := x.transcript ++ [0xE3#8, 0x0F#8, 0x63#8, 0x0F#8] } 0x63 [0x0F#8]) ∧
    (∀ a b c d, 2 ≤ x.version → x.negotiated = false → (a && b && c && d) = false →
      exec (.negotiateAlgorithms p a b c d) s = .next (s.spdmError p 0x01)) ∧
    (x.negotiated = false → exec (.getDigests p) s = .next (s.spdmError p 0x04) ∧
      ∀ i nonce, exec (.getMeasurements p i nonce) s = .next (s.spdmError p 0x04)) ∧
    (x.negotiated = true →
      (let d := sha384 (s.chain p)
       tells (.getDigests p) { x with transcript := x.transcript ++ [0x81#8] ++ [0x01#8] ++ d } 0x01 d) ∧
      (∀ off len, off < (s.chain p).length →
        let part := ((s.chain p).drop off).take len
        let data := leBytes 2 part.length ++ leBytes 2 ((s.chain p).length - off - part.length) ++ part
        tells (.getCertificate p 0 off len) { x with transcript := x.transcript ++
          ([0x82#8, 0#8] ++ leBytes 2 off ++ leBytes 2 len) ++ [0x02#8] ++ data } 0x02 data) ∧
      (∀ nonce, signs (.challenge p 0 nonce) id 0x03 ([0x83#8, 0#8] ++ nonce) (sha384 (s.chain p)) 32) ∧
      (∀ i nonce, 1 ≤ i → i ≤ 6 → signs (.getMeasurements p i nonce) id 0x60 ([0xE0#8, BitVec.ofNat 8 i] ++ nonce)
        ([BitVec.ofNat 8 i] ++ s.sec.mr.getD (i - 1) []) 32) ∧
      (∀ key, x.exchanged = false → onCurve (halves96 key).1 (halves96 key).2 = true →
        let d := s.drawKey
        let prk := hkdfExtract (sha384 (x.transcript ++ ([0xE4#8, 0#8] ++ key))) (p384Ecdh d (halves96 key))
        signs (.keyExchange p 0 key) (fun x => { x with
          exchanged := true, hostKey := hkdfExpand48 prk (ascii "req"), devKey := hkdfExpand48 prk (ascii "rsp") }) 0x64
          ([0xE4#8, 0#8] ++ key) (bytes96 (p384Public d)) 0)) ∧
    (x.exchanged = true → x.secured = false →
      (∀ v, v = hmac384 x.hostKey x.transcript → tells (.finish p v)
        { x with secured := true, transcript := x.transcript ++ ([0xE5#8] ++ v) ++ [0x65#8] } 0x65 []) ∧
      (∀ v, v ≠ hmac384 x.hostKey x.transcript → exec (.finish p v) s = .next (s.spdmError p 0x06))) ∧
    (x.secured = true →
      exec (.heartbeat p) s = .next (s.answerDoe p 0x68 []) ∧
      (∀ both, tells (.keyUpdate p both) { x with
        hostKey := nextKey x.hostKey, devKey := if both then nextKey x.devKey else x.devKey } 0x69
        [BitVec.ofNat 8 (if both then 2 else 1)]) ∧
      tells (.endSession p) { x with exchanged := false, secured := false, hostKey := [], devKey := [] } 0x6C [] ∧
      (∀ n key, n < 4 → exec (.ideKm p (.keyProg n key)) s =
        .next ((s.setStream p n { s.stream p n with key := key }).answerDoe p 0x7E [1#8, BitVec.ofNat 8 n])) ∧
      (∀ n, n < 4 → (s.stream p n).key ≠ [] → exec (.ideKm p (.setGo n)) s =
        .next ((s.setStream p n { s.stream p n with secure := true }).answerDoe p 0x7E [2#8, BitVec.ofNat 8 n])) ∧
      (∀ n, n < 4 → exec (.ideKm p (.setStop n)) s =
        .next ((s.setStream p n { s.stream p n with secure := false }).answerDoe p 0x7E [3#8, BitVec.ofNat 8 n]))) ∧
    (x.secured = false → ∀ op, exec (.ideKm p op) s = .next (s.spdmError p 0x0B) ∧
      exec (.heartbeat p) s = .next (s.spdmError p 0x0B))

/-! ## The snapshot guard, mirrors and checkpoints (R385 to R389, R402 to R415) -/

/-- No write meets a capture, so that the guard area cannot be full for it. -/
def Safety.NoGuard (s : State) : Prop := s.store.captures = [] ∧ s.store.guardFull = false

/-- The guard's events (R413 to R415): a save copies a pending block, as accesses see it, for every capture that has none yet; a
command of the tile mover that waits for a slot runs its work again; captures that are over release their blocks.
A delta on its way and at its sink (R386 to R388): after release the next block goes out as it stood at the boundary, with its
checks, and after the last one the commit frame (R42: at a boundary that waits for it too); a block that cannot be read fails the delta, which the next one makes up for; an
acknowledgement commits it. A sink that agreed begins with the first delta that comes, and its item is DONE (the model's reading,
log 126). The sink keeps each good block in its log, commits a log that is whole, and applies it to its copy. -/
def Obligations.CapturesAndDeltas : Prop :=
  (∀ (s : State),
     (∀ b, s.store.guardFull = false → s.store.lost = none → s.store.guardUsed + s.store.captures.length ≤ 65536 →
       let needs (c : Capture) : Bool := (c.cut.contains b || c.delta.contains b) && !(c.saved.any (fun x => x.block = b))
       ∃ u, exec (.guardSave b) s = .next u ∧
         u.store.captures = s.store.captures.map (fun c =>
           if needs c then { c with saved := c.saved ++ [s.store.copyOf b] } else c) ∧
         u = { s with store := { s.store with captures := u.store.captures, guardSaves := u.store.guardSaves } }) ∧
     (∀ b q, q / 65536 = b → SMap.get 0#8 (s.store.copyOf b).bytes q = s.store.byte true q) ∧
     (65536 ≤ s.store.guardUsed → exec .guardSlotFree s = .next s) ∧
     (Safety.NoGuardWait s → exec .guardSlotFree s = .next s) ∧
     (∀ t r, s.store.guardUsed < 65536 → SMap.wf {} s.tiles = true → s.runningOf t .tm = some r → r.stage = .guardFull →
       (∀ q, (s.tile q).wait ≠ .access) → (∀ q e x, s.runningOf q e = some x → x.stage = .guardFull → q = t ∧ e = .tm) →
       Safety.NoGuardWait (s.rework t .tm r) → cascMaster (s.cascadeCmd t r.cmd).op (s.cascadeCmd t r.cmd).w = false →
       ∃ u, exec .guardSlotFree s = .next u ∧ u = s.rework t .tm r) ∧
     (∀ j, Safety.NoGuardWait s → ∃ u, exec (.captureEnd j) s = .next u ∧
       (∀ c, c ∈ u.store.captures ↔ c ∈ s.store.captures ∧ ¬(c.job = j ∧ s.captureOver c = true)) ∧
       u = { s with store := { s.store with captures := u.store.captures } })) ∧
  (∀ (s : State) (j : Nat),
     let m := (s.job j).mirror
     (∀ d v rest bs e, m.delta = some d → m.sending = true → d.todo = v :: rest →
       s.readCaptured j d.boundary false (s.physBlock j v).1 (s.physBlock j v).2 = (.ok bs, e) →
       let frame : GalleryFrame := ⟨m.twinCtx, d.boundary, v * 65536, bs, blockCrcs bs, 0⟩
       ∃ u, exec (.mirrorDeltaBlock j) s = .next u ∧ Safety.OtherJobs s u j ∧ u.tiles = s.tiles ∧
         (rest ≠ [] → u.out = s.out ++ [.gallery frame] ∧
           u.job j = { s.job j with mirror := { m with delta := some { d with todo := rest } } }) ∧
         (rest = [] → d.sentAll = false →
           u.out = s.out ++ [.gallery frame, .gallery ⟨m.twinCtx, d.boundary, 0, [], [], d.blocks.length⟩] ∧
           u.job j = { s.job j with mirror := { m with delta := some { d with todo := [], sentAll := true } } })) ∧
     (∀ d v rest x e, m.delta = some d → m.sending = true → d.todo = v :: rest →
       s.readCaptured j d.boundary false (s.physBlock j v).1 (s.physBlock j v).2 = (.error x, e) →
       ∃ u, exec (.mirrorDeltaBlock j) s = .next u ∧ Safety.OtherJobs s u j ∧ (u.job j).mirror.delta = none ∧
         (u.job j).mirror.cause = 2 ∧ (u.job j).mirror.state = 2 ∧ (∀ b ∈ d.blocks, b ∈ (u.job j).mirror.carried) ∧
         fieldOf (u.bar2Word 0xA0) 0 8 = 5) ∧
     (∀ d n, m.delta = some d → m.sending = true → d.sentAll = true → d.boundary = n →
       ∃ u, exec (.mirrorAck j n) s = .next u ∧ Safety.OnlyJob s u j ∧
         u.job j = { s.job j with mirror := { m with delta := none, committed := n, lagging := false, state := 1 } }) ∧
     (∀ n, (m.delta = none ∨ m.delta.any (fun d => d.boundary ≠ n) = true) → exec (.mirrorAck j n) s = .next s) ∧
     (∀ f, f.ctx = j → m.side = some true → m.agreed = true → m.confirmed = false → m.logDone = none → frameGood f = true →
       Safety.NoGuard s → ∃ u, exec (.deltaReceive f) s = .next u ∧ Safety.OtherJobs s u j ∧ u.tiles = s.tiles ∧
         (∀ r, m.item = some r → Safety.Ends s u r .done stOK 0xFFFF 0#64) ∧
         u.job j = { s.job j with mirror := { m with
           state := 4, confirmed := true, item := none
           log := m.log.filter (fun g => g.boundary = f.boundary && g.blockVa ≠ f.blockVa) ++ [f] } }) ∧
     ((m.side == some true && m.agreed && !m.confirmed) = false →
     (∀ f, f.ctx = j → m.state = 4 → m.logDone = none → frameGood f = true → Safety.NoGuard s →
       ∃ u, exec (.deltaReceive f) s = .next u ∧ Safety.OtherJobs s u j ∧ u.tiles = s.tiles ∧
         u.job j = { s.job j with mirror := { m with
           log := m.log.filter (fun g => g.boundary = f.boundary && g.blockVa ≠ f.blockVa) ++ [f] } } ∧
         ∀ c q, (q / 4096 < m.logBase / 4096 ∨ m.logBase / 4096 + m.logBytes / 4096 ≤ q / 4096) →
           u.store.byte c q = s.store.byte c q) ∧
     (∀ f, f.ctx = j → m.logDone = none → frameGood f = false → s.store.guardFull = false →
       exec (.deltaReceive f) s = .next s) ∧
     (∀ f, f.ctx = j → s.store.guardFull = false →
       let held := m.log.filter (fun g => g.boundary = f.boundary)
       (m.state = 4 → m.logDone = none → held.length = f.count → ∃ u, exec (.deltaCommit f) s = .next u ∧
         u.job j = { s.job j with mirror := { m with
           log := held, logDone := some f.boundary, committed := f.boundary, deltaMib := mibOf f.count } } ∧
         Safety.OtherJobs s u j ∧ u = { s with jobs := u.jobs, out := s.out ++ [.mirrorAck m.twinCtx f.boundary] }) ∧
       (m.state = 4 → m.logDone.isSome = true → m.log = [] → f.count = 0 → ∃ u, exec (.deltaCommit f) s = .next u ∧
         u.job j = { s.job j with mirror := { m with
           log := [], logDone := some f.boundary, committed := f.boundary, deltaMib := 0 } } ∧
         Safety.OtherJobs s u j ∧ u = { s with jobs := u.jobs, out := s.out ++ [.mirrorAck m.twinCtx f.boundary] }) ∧
       (m.logDone = none → (m.state ≠ 4 ∨ held.length ≠ f.count) → exec (.deltaCommit f) s = .next s))) ∧
     (m.logDone = none → s.store.guardFull = false → exec (.logApply j) s = .next s) ∧
     (∀ f o n, m.logDone = some n → m.log = [f] → f.data.length = 65536 → copyOffset m.regions f.blockVa = some o →
       (m.copyBase + o) % 4096 = 0 → Safety.NoGuard s → ∃ u, exec (.logApply j) s = .next u ∧ Safety.OtherJobs s u j ∧
         u.job j = { s.job j with mirror := { m with log := [], logDone := none } } ∧ u.tiles = s.tiles ∧
         (∀ i, i < 65536 → u.store.rawByte (m.copyBase + o + i) = f.data.getD i 0#8) ∧
         (∀ q, (q < m.copyBase + o ∨ m.copyBase + o + 65536 ≤ q) → u.store.rawByte q = s.store.rawByte q)))

/-- The copier's requests that a command has added, and the bytes that they carry, in their order. -/
def Safety.Sent (s u : State) (j : Nat) (bs : List Byte) : Prop :=
  (((u.job j).ops.drop (s.job j).ops.length).flatMap (fun o => o.pkt.payload)) = bs

/-- A cut being copied (R405 to R412): each block that can be read is digested, and one without replicas goes to the gateway; one
that cannot be read fails the cut with its address; a replicated block whose wait is over is written by its lowest holder, and the cut is
marked partial where a digest is missing; when everything is written and answered the manifest follows, and after its last
response the item is DONE with the blocks written. A fabric context that is torn down fails the cut, and so does a gateway that
its binding does not admit (R331, R344; the status of the latter is the model's choice, log 29). -/
def Obligations.CutCopies : Prop :=
  ∀ (s : State) (j : Nat),
    let c := (s.job j).cut
    let served := (s.job j).binding.any (fun b => decide (b.gateways.1 ≤ c.gateway ∧ c.gateway ≤ b.gateways.2))
    (∀ o ∈ copierOps (s.job j), o.answered = true → o.status = stOK) → (∀ o ∈ (s.job j).ops, o.dst ≠ c.gateway) →
    SMap.get [] (s.job j).queues 15 = [] →
    (∀ b bs e, c.state = 2 → served = true → c.blocks[c.next]? = some b → s.readBlock j b = (.ok bs, e) →
      ∃ u, exec (.ckptBlockCopy j) s = .next u ∧ Safety.OtherJobs s u j ∧ u.tiles = s.tiles ∧
        (u.job j).cut.next = c.next + 1 ∧ (u.job j).cut.digests = c.digests ++ [sha384 bs] ∧
        ((c.region b.1).replicated = false → (u.job j).cut.writers = c.writers ++ [(c.next, s.fab.endpoint.getD 0)] ∧
          (u.job j).cut.written = c.written + 1 ∧ Safety.Sent s u j bs)) ∧
    (∀ b st a e, c.state = 2 → c.blocks[c.next]? = some b → s.readBlock j b = (.error (st, a), e) →
      ∃ u, exec (.ckptBlockCopy j) s = .next u ∧ Safety.OtherJobs s u j ∧ (u.job j).cut.state = 5 ∧
        (u.job j).cut.status = st ∧
        (∀ r, c.item = some r → Safety.Ends s u r .failed st 0xFFFF (BitVec.ofNat 64 a))) ∧
    (∀ k b, c.state = 2 → c.blocks[k]? = some b → k < c.digests.length → (∀ w ∈ c.writers, w.1 ≠ k) →
      let lower := s.lowerEnds (c.region b.1)
      let missed := lower.any (fun e => !((c.heardOf b).any (fun h => h.1 = e)))
      let same := ((c.heardOf b).filter (fun h => lower.contains h.1 && h.2 == c.digests.getD k [])).map Prod.fst
      (∀ e, same.min? = some e → ∃ u, exec (.replicaDecideTimeout j k) s = .next u ∧
        (u.job j).cut.writers = c.writers ++ [(k, e)] ∧ (u.job j).cut.written = c.written ∧
        (u.job j).cut.partialSet = (c.partialSet || missed) ∧ Safety.OtherJobs s u j) ∧
      (∀ bs e, served = true → same = [] → s.readBlock j b = (.ok bs, e) → ∃ u, exec (.replicaDecideTimeout j k) s = .next u ∧
        (u.job j).cut.writers = c.writers ++ [(k, s.fab.endpoint.getD 0)] ∧ (u.job j).cut.written = c.written + 1 ∧
        (u.job j).cut.partialSet = (c.partialSet || missed) ∧ Safety.Sent s u j bs ∧ Safety.OtherJobs s u j)) ∧
    (c.state = 2 → served = true → s.copied j = true → ∃ u, exec (.manifestSend j) s = .next u ∧ (u.job j).cut = { c with state := 3 } ∧
      Safety.Sent s u j (s.manifest j) ∧ Safety.OtherJobs s u j ∧ u.store = s.store ∧ u.tiles = s.tiles) ∧
    (c.state = 2 → served = false → s.copied j = true → ∃ u, exec (.manifestSend j) s = .next u ∧
      let st := if (s.job j).binding.isNone then stTorn else stNotPermitted
      (u.job j).cut.state = 5 ∧ (u.job j).cut.status = st ∧ Safety.OtherJobs s u j ∧ u.store = s.store ∧ u.tiles = s.tiles ∧
      ∀ r, c.item = some r → Safety.Ends s u r .failed st 0xFFFF 0#64) ∧
    (c.state = 2 → s.copied j = false → exec (.manifestSend j) s = .next s) ∧
    (c.state = 3 → (∀ o ∈ copierOps (s.job j), o.pkt.typ.toNat = tyStream → o.answered = true) → ∃ u, exec (.ckptDone j) s = .next u ∧
      (u.job j).cut.state = 4 ∧ (u.job j).cut.status = stOK ∧ copierOps (u.job j) = [] ∧ Safety.OtherJobs s u j ∧
      (∀ r, c.item = some r → Safety.Ends s u r .done stOK 0xFFFF (BitVec.ofNat 64 c.written)) ∧ u.store = s.store ∧
      u.tiles = s.tiles) ∧
    (c.state = 3 → (∃ o ∈ copierOps (s.job j), o.pkt.typ.toNat = tyStream ∧ o.answered = false) → exec (.ckptDone j) s = .next s)

/-! ## The fabric (R316, R322 to R346) -/

/-- A whole packet of a type for this package, of a job bound here (R316, R334). -/
structure Safety.Arrives (s : State) (typ : Nat) (p : Packet) (j : Nat) : Prop where
  whole : packetOk p = true
  here : s.fab.endpoint = some p.dst.toNat
  typed : p.typ.toNat = typ
  bound : s.jobOfTag p.jtag = some j

/-- Nothing of a job waits for what a packet may bring, and nothing of it is still to be sent. -/
structure Safety.Quiet (s : State) (j : Nat) : Prop where
  tiles : ∀ t ∈ (s.job j).tiles, s.runningOf t .tm = none ∧ (s.tile t).wait ≠ .condition ∧ (s.tile t).wait ≠ .endDrain ∧
    (s.tile t).haltPending = none
  unmaps : (s.job j).unmapItems = []
  lists : (s.job j).lists = []
  cut : (s.job j).cut.active = false
  sent : ∀ o ∈ (s.job j).ops, o.attempts = 0 → o.answered = true

/-- The state in which a request is looked at: its porch holds its flow, whose window has moved with its `ACKBASE` (R337). -/
def Safety.landed (s : State) (j : Nat) (p : Packet) : State := (s.holdFlow j p).getD s

/-- A request that its flow's window takes and that has not been applied (R337). -/
structure Safety.NewRequest (s : State) (typ : Nat) (p : Packet) (j : Nat) : Prop where
  arrives : Safety.Arrives s typ p j
  held : (s.holdFlow j p).isSome = true
  inWindow : serialDist (((Safety.landed s j p).job j).flow p.src.toNat).base p.seq.toNat < 1024
  unapplied : ∀ a ∈ (((Safety.landed s j p).job j).flow p.src.toNat).applied, a.seq ≠ p.seq.toNat
  noMessages : (((Safety.landed s j p).job j).flow p.src.toNat).msgs = []
  notWaiting : ∀ x ∈ s.fab.waiting, x.1 = j → x.2.src = p.src → x.2.seq ≠ p.seq

/-- A request is answered and recorded with its response, and memory is as its own access left it. -/
def Safety.Replies (e u : State) (p : Packet) (j typ : Nat) (payload : List Byte) : Prop :=
  let r := replyTo p typ 0 payload
  u.out = (e.sendPacket r).out ∧ (⟨p.seq.toNat, r⟩ : Applied) ∈ ((u.job j).flow p.src.toNat).applied ∧ u.store = e.store ∧
  ∀ i, i ≠ j → u.job i = e.job i

/-- An access of the porch, with the faults that Skeka resolves for it (R314). -/
def Safety.porch {α : Type} (s : State) (j : Nat) (f : State → Access α) : Access α :=
  resolving (fun s => s.accessNow none .tm f) j 4 s

/-- Commands of the fabric on an idle tile mover of a job with its tag (R323, R329, R333, R340): `FB_CTRSET` sets its counter;
`FB_WAIT` is done where the counter has reached its value, and waits where not; an atomic that fetches nothing sends its one
request to its destination, with its operation, address and payload, and is done with its operation posted. -/
def Obligations.FabricCommands : Prop :=
  ∀ (s : State) (t : Nat) (op : Op) (w : CmdWord) (c : EngineCmd), Goes s t op w → Dispatches s t op w c →
    ((s.tile t).eng .tm).running = none → ((s.tile t).eng .tm).pending = none → Alone s → s.store.guardFull = false →
    s.fabAllowed (s.tile t).jobOf = none →
    let j := (s.tile t).jobOf
    let n := c.s3.immVal.toNat % 256
    let takes (u : State) (st : Stage) : Prop :=
      ∃ g b, u.runningOf t .tm = some ⟨{ c with staging := g, began := s.now }, st, 0, 0, 0, false, b⟩
    (op = .fbCtrset → (∀ q ∈ (s.job j).tiles, q ≠ t → s.runningOf q .tm = none) →
      ∃ u, exec (.fbCtrset t w) s = .next u ∧ takes u (.ready okResult) ∧
        (u.job j).counter n = c.sr (w.imm 0 5) ∧ (∀ k, k ≠ n → (u.job j).counter k = (s.job j).counter k) ∧
        Safety.OtherJobs s u j ∧ u.store = s.store ∧ u.out = s.out) ∧
    (op = .fbWait → (c.sr (w.imm 0 5)).toNat ≤ ((s.job j).counter n).toNat →
      ∃ u, exec (.fbWait t w) s = .next u ∧ takes u (.ready okResult) ∧
        (∀ i, u.job i = s.job i) ∧ u.store = s.store ∧ u.out = s.out) ∧
    (op = .fbWait → ((s.job j).counter n).toNat < (c.sr (w.imm 0 5)).toNat → w.dsel = 0#8 →
      ∃ u, exec (.fbWait t w) s = .next u ∧ takes u .fabric ∧
        (∀ i, u.job i = s.job i) ∧ u.store = s.store ∧ u.out = s.out) ∧
    (∀ a r fl b, op.aop = some a → atomicFetch c = false → w.flag 4 = false → (s.job j).ops = [] → atomicReq c = .ok (r, fl) →
      (s.job j).binding = some b → b.permits (destOf c) r = true →
      ∃ u, exec (streamInstr op t w) s = .next u ∧ takes u (.ready okResult) ∧
        (s.liveLanes = [] → u.out = s.out) ∧
        (s.liveLanes ≠ [] → ∃ q k, u.out = s.out ++ [.packet q k] ∧ k ∈ s.liveLanes ∧ q.typ = 4#8 ∧ q.subop = BitVec.ofNat 8 a ∧
          q.dst = BitVec.ofNat 16 (destOf c) ∧ q.offset = BitVec.ofNat 48 c.s1.addrVal ∧ q.payload = r.payload ∧
          q.jtag = b.word) ∧
        (∃ o, (u.job j).ops = [o] ∧ o.owner = .posted ∧ o.tile = t ∧ o.dst = destOf c ∧ o.flags = fl ∧ o.answered = false) ∧
        Safety.OtherJobs s u j ∧ u.store = s.store)

/-- New requests (R322 to R328, R337): a load answers with the bytes it reads; a store is written, counted where it notifies, and
acknowledged; an atomic answers with the old value where it is asked for; a message whose earlier numbers are all applied joins
its queue, and any other is held; a trigger for a stopped job is held, and one whose entry is not valid gets NACK code 4. An access
that fails gets its NACK, and a write that meets a full guard area waits unanswered, and is counted (R414). What the entry of a
message holds beside Table 11.9's fields is free, and an atomic asks for its old value by bit 7 of its control word (log 21).
Lanes and packets that are not applied (R316, R317, R334, R337): a packet leaves on a live lane that its `DST` and `SEQ` fix; a
request for whose flow its porch has no entry and none that it may free (which are idle is the model's choice, log 121) gets NACK code 5; a packet whose trailer, length or
reserved bits do not hold is dropped and counted; a request already applied is counted and answered once more with its response,
and nothing else happens. -/
def Obligations.RequestsApply : Prop :=
  (∀ (s : State) (p : Packet) (j : Nat),
     let d := Safety.landed s j p
     (∀ bs e, Safety.NewRequest s tyLoad p j →
       Safety.porch d j (fun s => s.readField j p.offset.toNat (p.handle.toNat % 4096 + 1)) = .ok bs e →
       e.store.guardFull = false → Safety.Quiet e j →
       ∃ u, exec (.load p) s = .next u ∧ Safety.Replies e u p j tyLoadRsp bs) ∧
     (∀ e, Safety.NewRequest s tyStore p j → Safety.porch d j (fun s => s.writeField j p.offset.toNat p.payload) = .ok () e →
       e.store.guardFull = false → Safety.Quiet e j →
       ∃ u, exec (.store p) s = .next u ∧ Safety.Replies e u p j tyAck [] ∧
         (p.pflags.toNat.testBit 1 = true → (u.job j).counter p.subop.toNat =
           (e.job j).counter p.subop.toNat + BitVec.ofNat 64 p.length.toNat) ∧
         (p.pflags.toNat.testBit 1 = false → (u.job j).counters = (e.job j).counters)) ∧
     (∀ e, Safety.NewRequest s tyStore p j → Safety.porch d j (fun s => s.writeField j p.offset.toNat p.payload) = .ok () e →
       e.store.guardFull = true → (s.job j).cut.active = false → ∃ u, exec (.store p) s = .next u ∧ u.out = s.out ∧
         u.fab = { s.fab with waiting := s.fab.waiting ++ [(j, p)] } ∧ u.jobs = d.jobs ∧ u.tiles = s.tiles ∧
         u.store = { s.store with guardWaits := min 0xFFFFFFFF (s.store.guardWaits + 1) }) ∧
     (∀ f old e, Safety.NewRequest s tyAtomic p j → Fmt.ofCode (fieldAt p.payload 0 8 % 32) = some f →
       atomicFormatOk f p.subop.toNat = true → p.offset.toNat % atomicAlign f = 0 →
       Safety.porch d j (fun s => (s.readField j p.offset.toNat (f.bits / 8)).bind fun bs s =>
         match atomicNew f p.subop.toNat (bitsOf (fieldAt p.payload 0 8) 5 2) (leNat bs) (fieldAt p.payload 8 (f.bits / 8))
             (fieldAt p.payload (8 + f.bits / 8) (f.bits / 8)) with
         | none => .fail stNonfinite 0 s
         | some v => (s.writeField j p.offset.toNat (leBytes (f.bits / 8) v)).bind fun _ s => .ok bs s) = .ok old e →
       e.store.guardFull = false → Safety.Quiet e j →
       ∃ u, exec (.atomic p) s = .next u ∧
         Safety.Replies e u p j tyAtomicRsp (if (fieldAt p.payload 0 8).testBit 7 then old else [])) ∧
     (∀ e, Safety.NewRequest s tySend p j → (((d.job j).flow p.src.toNat).reached p.seq.toNat) = true →
       let q := p.subop.toNat % 16
       let old := SMap.get [] (s.job j).queues q
       1 ≤ p.payload.length → p.payload.length ≤ 240 → old.length < 256 →
       Safety.porch d j (fun s => s.writeField j
         ((((s.job j).binding.map Binding.queueBase).getD 0 + 65536 * q + 256 * freeEntry old) % 2 ^ 48)
         (leBytes 2 p.src.toNat ++ leBytes 2 p.payload.length ++ (List.range 12).map (fun k => Config.freeByte d.fresh k) ++
           p.payload)) = .ok () e →
       e.store.guardFull = false → Safety.Quiet e j →
       ∃ u, exec (.send p) s = .next u ∧ Safety.Replies e u p j tyAck [] ∧
         SMap.get [] (u.job j).queues q = SMap.get [] (e.job j).queues q ++ [⟨freeEntry old, p.src.toNat, p.payload⟩]) ∧
     (Safety.NewRequest s tySend p j → (s.job j).cut.active = false → (((d.job j).flow p.src.toNat).reached p.seq.toNat) = false →
       ∃ u, exec (.send p) s = .next u ∧ u.out = s.out ∧ ((u.job j).flow p.src.toNat).msgs = [p] ∧ u.store = s.store ∧
         Safety.OtherJobs d u j ∧ (u.job j).queues = (s.job j).queues) ∧
     (Safety.NewRequest s tyTrigger p j → (s.job j).phase = 3 → (s.job j).cut.active = false →
       (∀ q ∈ (s.job j).heldTriggers, q.src ≠ p.src ∨ q.seq ≠ p.seq) → ∃ u, exec (.trigger p) s = .next u ∧ u.out = s.out ∧
         (u.job j).heldTriggers = (s.job j).heldTriggers ++ [p] ∧ u.store = s.store ∧ Safety.OtherJobs d u j) ∧
     (∀ c e, Safety.NewRequest s tyTrigger p j → (s.job j).phase ≠ 3 → (s.job j).heldTriggers = [] → (s.job j).cut.active = false →
       d.trigger j p = (c, e) → (e.job j).cut.active = false →
       ∃ u, exec (.trigger p) s = .next u ∧ (c ≠ 0 → c ≠ trigWaits → (e.job j).flow p.src.toNat = (d.job j).flow p.src.toNat →
           u.out = (e.sendPacket (replyTo p tyNack c [])).out ∧ u.store = e.store) ∧
         (c = trigWaits → (e.job j).flow p.src.toNat = (d.job j).flow p.src.toNat →
           u = { e with fab := { e.fab with waiting := e.fab.waiting ++ [(j, p)] } }) ∧
         (c = 0 → s.liveLanes ≠ [] → ∃ k ∈ s.liveLanes, Out.packet (replyTo p tyAck 0 []) k ∈ u.out)) ∧
     (∀ st a e, Safety.NewRequest s tyLoad p j → (e.job j).flow p.src.toNat = (d.job j).flow p.src.toNat →
       (e.job j).cut.active = false →
       Safety.porch d j (fun s => s.readField j p.offset.toNat (p.handle.toNat % 4096 + 1)) = .fail st a e →
       ∃ u, exec (.load p) s = .next u ∧ u.out = (e.sendPacket (replyTo p tyNack (nackOf st) [])).out ∧ u.store = e.store)) ∧
  (∀ (s : State) (p : Packet),
     (s.liveLanes = [] → s.sendPacket p = s) ∧
     (s.liveLanes ≠ [] → ∃ k ∈ s.liveLanes, s.sendPacket p = s.emit (.packet p k) ∧
       ∀ q, q.dst = p.dst → q.seq = p.seq → s.sendPacket q = s.emit (.packet q k)) ∧
     (∀ j typ c, Safety.Arrives s typ p j → ((typ = tyLoad ∧ c = .load p) ∨ (typ = tyStore ∧ c = .store p) ∨
         (typ = tyAtomic ∧ c = .atomic p) ∨ (typ = tyTrigger ∧ c = .trigger p) ∨ (typ = tySend ∧ c = .send p)) →
       (∀ f ∈ (s.job j).flows, f.src ≠ p.src.toNat) →
       s.fab.flowSlots ≤ (s.flowsOn (s.homePorch p.src.toNat)).length →
       (∀ x ∈ s.flowsOn (s.homePorch p.src.toNat), x.2.applied ≠ [] ∨ x.2.msgs ≠ []) →
       exec c s = .next (s.sendPacket (replyTo p tyNack 5 []))) ∧
     (packetOk p = false →
       exec (.load p) s = .next s.dropBad ∧ exec (.store p) s = .next s.dropBad ∧ exec (.atomic p) s = .next s.dropBad ∧
       exec (.trigger p) s = .next s.dropBad ∧ exec (.send p) s = .next s.dropBad ∧ exec (.ack p) s = .next s.dropBad ∧
       exec (.collUp p 0 0) s = .next s.dropBad ∧
       fieldOf (s.dropBad.bar2Word 0x248) 0 32 = min (2 ^ 32 - 1) (fieldOf (s.bar2Word 0x248) 0 32 + 1) ∧
       Safety.OnlyBar2 s s.dropBad [0x248]) ∧
     (∀ j a, Safety.Arrives s tyStore p j → (s.job j).cut.active = false →
       let f := ((s.job j).flow p.src.toNat).advance p.ackbase.toNat
       (∀ x ∈ s.fab.waiting, x.1 = j → x.2.src = p.src → x.2.seq ≠ p.seq) →
       serialDist f.base p.seq.toNat < 1024 → f.applied.find? (fun a => a.seq = p.seq.toNat) = some a → f.msgs = [] →
       ∃ u, exec (.store p) s = .next u ∧ u.store = s.store ∧ (u.job j).counters = (s.job j).counters ∧
         (s.liveLanes ≠ [] → ∃ q k, u.out = s.out ++ [.packet q k] ∧ k ∈ s.liveLanes ∧ q.payload = a.resp.payload ∧
           q.typ = a.resp.typ ∧ q.seq = a.resp.seq ∧ q.path = p.path) ∧ (s.liveLanes = [] → u.out = s.out) ∧
         fieldOf (u.bar2Word 0x238) 0 48 = min (2 ^ 48 - 1) (fieldOf (s.bar2Word 0x238) 0 48 + 1) ∧ u.tiles = s.tiles))

/-- A stranger (R334): a whole packet for this package whose tag with its epoch no job context holds is dropped, no response
leaves, and it is counted and recorded. -/
def Obligations.Strangers : Prop :=
  ∀ (s : State) (p : Packet) (typ : Nat) (c : Instr), packetOk p = true → s.fab.endpoint = some p.dst.toNat →
    p.typ.toNat = typ → (∀ j, j < 16 → ∀ b, (s.job j).binding = some b → b.word ≠ p.jtag) →
    ((typ = tyLoad ∧ c = .load p) ∨ (typ = tyStore ∧ c = .store p) ∨ (typ = tyAtomic ∧ c = .atomic p) ∨
      (typ = tyTrigger ∧ c = .trigger p) ∨ (typ = tySend ∧ c = .send p) ∨ (typ = tyLoadRsp ∧ c = .loadRsp p) ∨
      (typ = tyAtomicRsp ∧ c = .atomicRsp p) ∨ (typ = tyAck ∧ c = .ack p) ∨ (typ = tyNack ∧ c = .nack p) ∨
      (typ = 0x20 ∧ ∃ a b r, c = .collSetup p a b r) ∨ (typ = 0x21 ∧ ∃ r, c = .collSetupRsp p r) ∨
      (typ = 0x22 ∧ ∃ a b, c = .collUp p a b) ∨ (typ = 0x23 ∧ c = .collDown p) ∨ (typ = 0x24 ∧ c = .collEnd p)) →
    ∃ u, exec c s = .next u ∧ u = { s with bar2 := u.bar2, fresh := u.fresh } ∧
      (∀ o, o ≠ 0x220 → o ≠ 0x228 → u.bar2Word o = s.bar2Word o) ∧
      fieldOf (u.bar2Word 0x220) 0 48 = min (2 ^ 48 - 1) (fieldOf (s.bar2Word 0x220) 0 48 + 1) ∧
      fieldOf (u.bar2Word 0x228) 0 28 = p.jtag.toNat ∧ fieldOf (u.bar2Word 0x228) 32 16 = p.src.toNat

/-- The operation that a response answers: sent, unanswered, of its destination and number (R336). -/
def Safety.answers (p : Packet) (o : FabOp) : Bool :=
  o.dst = p.src.toNat && o.seq = p.seq.toNat && !o.answered && decide (0 < o.attempts)

/-- Responses (R336, R339): the first response to a sent request answers it, with the data or the old value that it brings or with
the status of its NACK; NACK code 5 leaves it to be sent again; one that answers nothing changes nothing.
The sender's clock (R338, R339, R341, R345): a request whose path has timed out goes again by the next live path with `RETX`,
up to eight attempts, after which its destination's requests are unreachable; a busy one goes again as it was; a command of the
tile mover that waits beyond the fabric timeout fails with `FENCE_TIMEOUT` and gives up what it waits for, and so does a list. That
a command that `FENCED` keeps from being issued does so too is the model's reading (log 134), and so is the operand that names a
list (log 30). A held trigger whose write meets a full guard area waits unanswered (R414).
Held triggers and the ends of lists (R49, R326, R327): the first held trigger of a job that runs starts and is answered; a list
whose words are past and whose operations are answered ends, adds to its counter, and gives up what it issued; one that failed is
counted and adds nothing. -/
def Obligations.ResponsesTaken : Prop :=
  ((∀ (s : State) (p : Packet) (j : Nat), Safety.Quiet s j →
      let takes (typ : Nat) (c : Instr) (f : FabOp → FabOp) : Prop :=
        Safety.Arrives s typ p j → (∃ o ∈ (s.job j).ops, Safety.answers p o = true) →
        ∃ u, exec c s = .next u ∧ Safety.OtherJobs s u j ∧
          u.job j = { s.job j with ops := (s.job j).ops.map (fun o => if Safety.answers p o then f o else o) } ∧
          u = { s with jobs := u.jobs, fresh := u.fresh }
      takes tyAck (.ack p) (fun o => { o with answered := true }) ∧
      takes tyLoadRsp (.loadRsp p) (fun o => { o with answered := true, data := p.payload }) ∧
      (∃ fl, takes tyAtomicRsp (.atomicRsp p) (fun o => { o with
        answered := true, value := BitVec.ofNat 64 (fieldAt p.payload 0 8)
        flags := if o.pkt.subop = 0x10#8 then o.flags ||| (if p.payload = [] then fl else faddFlags o.pkt p.payload) else o.flags })) ∧
      (∀ st, nackStatus p.subop.toNat = some st →
        takes tyNack (.nack p) (fun o => { o with answered := true, status := st })) ∧
      (nackStatus p.subop.toNat = none → takes tyNack (.nack p) (fun o => { o with busy := o.busy + 1 })) ∧
      (Safety.Arrives s tyAck p j → (∀ o ∈ (s.job j).ops, Safety.answers p o = false) → exec (.ack p) s = .next s)) ∧
   (∀ (s : State) (j dst seq : Nat),
      (∀ o, (s.job j).awaiting dst seq = some o → o.unreachable = false → o.attempts < 8 →
        ∃ u, exec (.retransmit j dst seq) s = .next u ∧ Safety.OtherJobs s u j ∧ o.pkt.path.toNat ∈ u.fab.pathsDown ∧
          (s.liveLanes ≠ [] → ∃ q k, u.out = s.out ++ [.packet q k] ∧ k ∈ s.liveLanes ∧ q.payload = o.pkt.payload ∧
            q.seq = o.pkt.seq ∧ q.pflags = o.pkt.pflags ||| 1#8) ∧ (s.liveLanes = [] → u.out = s.out) ∧
          (∃ x ∈ (u.job j).ops, x.dst = dst ∧ x.seq = seq ∧ x.attempts = o.attempts + 1) ∧ u.store = s.store ∧
          u.tiles = s.tiles ∧ fieldOf (u.bar2Word 0x230) 0 48 = min (2 ^ 48 - 1) (fieldOf (s.bar2Word 0x230) 0 48 + 1)) ∧
      (∀ o, (s.job j).awaiting dst seq = some o → (o.unreachable = true ∨ 8 ≤ o.attempts) →
        exec (.retransmit j dst seq) s = .next s) ∧
      (∀ o, (s.job j).awaiting dst seq = some o → o.busy ≠ 0 → ∃ u, exec (.busyRetry j dst seq) s = .next u ∧
        (s.liveLanes ≠ [] → ∃ q k, u.out = s.out ++ [.packet q k] ∧ k ∈ s.liveLanes ∧ q.payload = o.pkt.payload ∧
          q.seq = o.pkt.seq ∧ q.pflags = o.pkt.pflags ∧ q.path = o.pkt.path) ∧ (s.liveLanes = [] → u.out = s.out) ∧ (∃ x ∈ (u.job j).ops, x.dst = dst ∧ x.seq = seq ∧ x.attempts = o.attempts) ∧
        u = { s with jobs := u.jobs, out := u.out } ∧ Safety.OtherJobs s u j) ∧
      ((s.job j).awaiting dst seq = none → exec (.busyRetry j dst seq) s = .next s ∧ exec (.retransmit j dst seq) s = .next s) ∧
      ((∃ o ∈ (s.job j).ops, o.dst = dst ∧ o.answered = false ∧ o.unreachable = false ∧ 8 ≤ o.attempts) →
        ∃ u, exec (.markUnreachable j dst) s = .next u ∧ Safety.OtherJobs s u j ∧ Out.management 1 dst ∈ u.out ∧
          u.job j = { s.job j with ops := (s.job j).ops.map (fun o =>
            if o.dst = dst && !o.answered then { o with unreachable := true } else o) } ∧
          (∀ o, (s.job j).ops.find? (fun o => o.dst = dst && !o.answered && !o.unreachable && decide (8 ≤ o.attempts)) = some o →
            o.pkt.path.toNat ∈ u.fab.pathsDown) ∧
          fieldOf (u.bar2Word 0x258) 0 4 = 1 ∧ u.store = s.store ∧ u.tiles = s.tiles) ∧
      (∀ t r, t < 256 → (s.tile t).jobOf = j → s.runningOf t .tm = some r → r.stage = .fabric →
        let waits := if r.cmd.op = .fbFence then some (fun (o : FabOp) => (o.owner == .posted && o.tile = t) && fenceCovers r.cmd o)
          else if waitsForOps r.cmd = true ∧ awaitedBy (s.job j) t ≠ [] then some (fun o => o.owner == .waiting && o.tile = t)
          else if isFenced r.cmd = true then some (fun o => (o.owner == .posted && o.tile = t) && decide (o.dst = destOf r.cmd))
          else none
        (waits = none → exec (.fenceTimeout t) s = .next s) ∧
        ∀ f, waits = some f → ∃ u, exec (.fenceTimeout t) s = .next u ∧ Safety.OtherJobs s u j ∧
          (∃ fl k, (u.runningOf t .tm).map (fun x => x.stage) =
            some (.ready { failResult stFenceTimeout 0 with flags := fl, elem := k })) ∧
          (∀ q, q ≠ t → u.tile q = s.tile q) ∧ u.store = s.store ∧
          (u.job j).ops = (s.job j).ops.filter (fun o => !(f o))) ∧
      (∀ t, t < 256 → s.runningOf t .tm = none → (s.tile t).wait = .none → exec (.fenceTimeout t) s = .next s) ∧
      (∀ id l f, j < 16 → (s.job j).lists.find? (fun x => x.id = id) = some l → s.listWaits j l = some f →
        (∃ o ∈ (s.job j).ops, f o = true ∧ o.answered = false) →
        ∃ u, exec (.fenceTimeout (272 + 16 * id + j)) s = .next u ∧ Safety.OnlyJob s u j ∧
          (∃ x ∈ (u.job j).lists, x.id = id ∧ x.failed = some stFenceTimeout) ∧
          (u.job j).ops = (s.job j).ops.filter (fun o => !(f o))))) ∧
  (∀ (s : State) (j : Nat),
     (Safety.Quiet s j → ((s.job j).heldTriggers = [] ∨ (s.job j).phase = 3) → exec (.heldTriggerRun j) s = .next s) ∧
     (∀ p rest c e, (s.job j).heldTriggers = p :: rest → (s.job j).phase ≠ 3 → (s.job j).binding.isSome = true →
       p.rsvd = 0#8 → s.trigger j p = (c, e) →
       (c = 0 → ∃ u, exec (.heldTriggerRun j) s = .next u ∧
         (s.liveLanes ≠ [] → ∃ k ∈ s.liveLanes, Out.packet (replyTo p tyAck 0 []) k ∈ u.out)) ∧
       (c = trigWaits → Safety.Quiet e j → ∃ u, exec (.heldTriggerRun j) s = .next u ∧ u.out = e.out ∧
         u.fab = { e.fab with waiting := e.fab.waiting ++ [(j, p)] } ∧ u.job j = { e.job j with heldTriggers := rest } ∧
         u.store = e.store ∧ u.tiles = e.tiles) ∧
       (c ≠ 0 → c ≠ 5 → c ≠ trigWaits → Safety.Quiet e j → ∃ u, exec (.heldTriggerRun j) s = .next u ∧
         u.out = (e.sendPacket (replyTo p tyNack c [])).out ∧ u.job j = { e.job j with heldTriggers := rest } ∧
         u.store = e.store ∧ u.tiles = e.tiles)) ∧
     (∀ l, (s.job j).lists = [l] → Safety.Quiet (s.modJob j (fun jb => { jb with lists := [] })) j →
       let ops := postedBy (s.job j) (listIssuer l)
       let cs := listColls (s.job j) l.id
       (∀ o ∈ ops, o.answered = true) → (∀ c ∈ cs, c.endedWith.isSome = true ∧ c.restoring = false) →
       let left : Job := { s.job j with
         lists := [], ops := (s.job j).ops.filter (fun o => o.owner != .list l.id)
         colls := (s.job j).colls.filter (fun c => c.list ≠ some l.id) }
       (l.failed = none → (∀ o ∈ ops, o.status = stOK) → (∀ c ∈ cs, c.endedWith = some stOK) → l.words.length ≤ l.next →
         ∃ u, exec (.listComplete j l.id) s = .next u ∧ Safety.OnlyJob s u j ∧
           (l.ctr = none → u.job j = left) ∧
           (∀ n, l.ctr = some n → u.job j = { left with
             counters := SMap.set 0#64 (s.job j).counters n ((s.job j).counter n + 1) })) ∧
       (l.failed.isSome = true → ∃ u, exec (.listComplete j l.id) s = .next u ∧ u.job j = left ∧ Safety.OtherJobs s u j ∧
         fieldOf (u.bar2Word 0x250) 0 48 = min (2 ^ 48 - 1) (fieldOf (s.bar2Word 0x250) 0 48 + 1) ∧ u.store = s.store ∧
         u.tiles = s.tiles)) ∧
     (∀ l, (s.job j).lists = [l] → (∃ o ∈ postedBy (s.job j) (listIssuer l), o.answered = false) →
       exec (.listComplete j l.id) s = .next s))

/-! ## Collectives (R356 to R372) -/

/-- A collective of a job with a property, by its group and sequence. -/
def Safety.CollHas (u : State) (j : Nat) (c : Coll) (P : Coll → Prop) : Prop :=
  ∃ x ∈ (u.job j).colls, x.gid = c.gid ∧ x.seq = c.seq ∧ P x

/-- The setup round (R366, R367, R369, R376): the earliest queued collective of a job takes a free context, and a member that
collects nothing sends its record up, as one packet or several; a collector keeps each input's record once it is whole until it
has them all; a verdict other than `OK` ends the
collective with its destination untouched, and an `OK` starts its chunks.
Chunks and endings (R356 to R358, R370 to R372): data of an input is kept until its stage can combine, and a chunk whose result
is known sends it again; a result that comes down whole is taken and written, and with the last one the collective ends `OK`; a
notice, or the timeout, ends the collective with its status; what went unanswered is sent again. That a record's parameters stand
beside its packets (log 22), that what goes to a switch leaves on this package's lanes (log 23), by the hash of R317 (log 123), and
that a status outside Table 18.1 makes a bad packet (log 133), are the model's readings. -/
def Obligations.Collectives : Prop :=
  (∀ (s : State) (j : Nat) (p : Packet),
     (16 ≤ s.collsActive → exec (.collStart j) s = .next s) ∧
     ((s.job j).firstQueued = none → exec (.collStart j) s = .next s) ∧
     (∀ c st r e, s.collsActive < 16 → (s.job j).firstQueued = some c → c.stages[0]? = some st → st.collector = false →
       c.setupStage = 0 → c.setupSent = false → s.ownSetup j c = (r, e) → c ∈ (e.job j).colls → Safety.Quiet e j →
       (e.job j).heldTriggers = [] → ∃ u, exec (.collStart j) s = .next u ∧ u.store = e.store ∧
         Safety.CollHas u j c (fun x => x.phase = .setup ∧ x.setupSent = true ∧ x.setup = some r) ∧
         u.out = (e.sendSetup j c 0x20 stOK st r 0).out) ∧
     (∀ c typ (st : Status) e r fl, ∃ ps : List Packet, ps.length = setupPackets r ∧
       (∀ i, i < ps.length → let q := ps.getD i noPacket
         q.typ = BitVec.ofNat 8 typ ∧ q.offset = BitVec.ofNat 48 (i * 2 ^ 32) ∧ q.handle = BitVec.ofNat 16 st.toNat ∧
         q.seq = BitVec.ofNat 32 c.seq ∧ q.ackbase = BitVec.ofNat 32 c.gid ∧ q.pflags = BitVec.ofNat 8 fl ∧
         q.payload = slice (setupBytes r) (4096 * i) (min 4096 ((setupBytes r).length - 4096 * i))) ∧
       s.sendSetup j c typ st e r fl = { s with out := s.out ++ ps.filterMap (fun q =>
         if e.kind = 1 then some (.galleryColl q (some r)) else (laneOf s.liveLanes q).map (fun l => .setupRecord q r l)) }) ∧
     (∀ c e stage input r r0, Safety.Arrives s 0x20 p j → (s.job j).collOf p = some c → c.collects stage = some e →
       c.phase = .setup → c.setup = some r0 → c.setupStage = stage → (∀ x ∈ c.records, ¬(x.1 = stage ∧ x.2.1 = input)) →
       (c.records.filter (fun x => x.1 = stage)).length + 2 < e.fanin → Safety.Quiet s j → (s.job j).heldTriggers = [] →
       let c1 := c.takeSetup (setupPart p (some (stage, input)) r)
       ∃ u, exec (.collSetup p stage input r) s = .next u ∧ u.store = s.store ∧ u.out = s.out ∧
         Safety.CollHas u j c (fun x => x = (match wholeSetup (c1.setupFrom (some (stage, input))) with
           | some y => { c1 with records := c1.records ++ [(stage, input, y.2)] }
           | none => c1))) ∧
     (∀ c e stage input r, Safety.Arrives s 0x20 p j → (s.job j).collOf p = some c → c.collects stage = some e →
       c.phase = .data → ∃ v : SetupRecord, v.chunks = c.anchors ∧ exec (.collSetup p stage input r) s =
         .next (if bitsOf p.offset.toNat 32 10 = 0 then s.sendSetup j c 0x21 stOK e v 0 else s)) ∧
     (∀ c r, Safety.Arrives s 0x21 p j → (s.job j).collOf p = some c → p.handle ∉ statusCodes →
       exec (.collSetupRsp p r) s = .next s.dropBad) ∧
     (∀ c r, Safety.Arrives s 0x21 p j → (s.job j).collOf p = some c → p.handle ∈ statusCodes → c.phase = .setup →
       c.setupSent = true →
       let c1 := c.takeSetup (setupPart p none r)
       (wholeSetup (c1.setupFrom none) = none → ∃ u, exec (.collSetupRsp p r) s = .next u ∧ Safety.OnlyJob s u j ∧
         Safety.CollHas u j c (fun x => x = c1)) ∧
       (∀ st r1, wholeSetup (c1.setupFrom none) = some (st, r1) → st ≠ stOK → c.undo = [] → Safety.Quiet s j →
         s.store.guardFull = false → (s.job j).heldTriggers = [] → ∃ u, exec (.collSetupRsp p r) s = .next u ∧ u.store = s.store ∧ u.tiles = s.tiles ∧
         Safety.CollHas u j c (fun x => x.endedWith = some st)) ∧
       (∀ r1 st vs e, wholeSetup (c1.setupFrom none) = some (stOK, r1) → c.stages = [st] → st.collector = false →
         c.setupStage = 0 → c.chunks = [] → c.chunkCount = 1 → c.abort = false → (s.collPorch 0).isSome = true →
         let c2 : Coll := { c1 with phase := .data, anchors := r1.chunks }
         (s.putColl j c2).chunkVals j c2 0 = (some vs, e) → c2 ∈ (e.job j).colls →
         Safety.Quiet e j → (e.job j).heldTriggers = [] →
         ∃ u, exec (.collSetupRsp p r) s = .next u ∧ u.store = e.store ∧ Safety.CollHas u j c (fun x => x.phase = .data ∧
           x.anchors = r1.chunks ∧ ∃ ch, x.chunks = [ch] ∧ ch.sent = true ∧ ch.written = false ∧
             ch.data = (carry c2 0 vs.1 vs.2).1)))) ∧
  (∀ (s : State) (j : Nat) (p : Packet) (c : Coll), Safety.Quiet s j → (s.job j).heldTriggers = [] →
     (∀ st e ch input, Safety.Arrives s 0x22 p j → (s.job j).collOf p = some c → c.collects st = some e →
       let x := partOf p st input false
       c.chunk x.chunk = some ch → c.phase = .data → c.chunks = [ch] → c.chunkCount = 1 → x.chunk < c.chunkCount →
       ch.result = none → ch.stage = st → ch.sent = true →
       ch.written = false → (∀ y ∈ c.parts, samePlace x y = false) →
       { c with parts := c.parts ++ [x] }.combine (s.job j).det ch.chunk e st (ch.data, ch.special) = none →
       ∃ u, exec (.collUp p st input) s = .next u ∧ u.store = s.store ∧ u.out = s.out ∧
         Safety.CollHas u j c (fun y => y.parts = c.parts ++ [x] ∧ y.chunks = [ch])) ∧
     (∀ st e ch input d w fl, Safety.Arrives s 0x22 p j → (s.job j).collOf p = some c → c.collects st = some e →
       c.chunk (partOf p st input false).chunk = some ch → ch.result = some (d, w, fl) →
       exec (.collUp p st input) s = .next (s.sendChunk j c ch.chunk e 0x23 0 fl.toNat d w 0)) ∧
     (∀ ch, Safety.Arrives s 0x23 p j → (s.job j).collOf p = some c → c.chunk (bitsOf p.offset.toNat 0 32) = some ch →
       c.phase = .data → ch.sent = true → ch.result = none →
       let x := partOf p ch.stage 0 true
       let d := { c with parts := c.parts ++ [x] }
       let ps := d.partsAt ch.chunk ch.stage true
       (∀ y ∈ c.parts, samePlace x y = false) →
       (d.whole ch.chunk ps = false → ∃ u, exec (.collDown p) s = .next u ∧ u.out = s.out ∧ u.store = s.store ∧
         Safety.CollHas u j c (fun y => y = d)) ∧
       (∀ e st, d.whole ch.chunk ps = true → c.chunks = [ch] → c.chunkCount = 1 → ch.written = false → c.chain = none →
         c.stages[ch.stage]? = some st → st.collector = false → c.below (min ch.stage c.stages.length) = [] →
         let r := (d.join ch.chunk false ps, d.join ch.chunk true ps, x.flags)
         s.chunkWrite j (d.setChunk { ch with result := some r }) { ch with result := some r } r = (none, e) → Safety.Quiet e j →
         e.store.guardFull = false → (e.job j).heldTriggers = [] → c ∈ (e.job j).colls → ∃ u, exec (.collDown p) s = .next u ∧ u.store = e.store ∧
           Safety.CollHas u j c (fun y => y.endedWith = some stOK))) ∧
     (Safety.Arrives s 0x24 p j → p.handle ∉ statusCodes → exec (.collEnd p) s = .next s.dropBad) ∧
     (Safety.Arrives s 0x24 p j → (s.job j).liveColl p.ackbase.toNat p.seq.toNat = some c → p.handle ∈ statusCodes →
       p.handle ≠ stOK → c.undo = [] → s.store.guardFull = false →
       ∃ u, exec (.collEnd p) s = .next u ∧ u.store = s.store ∧ u.tiles = s.tiles ∧
         Safety.CollHas u j c (fun y => y.endedWith = some p.handle) ∧
         (((s.job j).binding.map Binding.jtag).getD 0, p.ackbase.toNat, p.seq.toNat, p.handle) ∈ u.fab.collEnded) ∧
     (Safety.Arrives s 0x24 p j → (s.job j).liveColl p.ackbase.toNat p.seq.toNat = none →
       s.endedColl j p.ackbase.toNat p.seq.toNat = none → p.handle ∈ statusCodes →
       ∃ u, exec (.collEnd p) s = .next u ∧ u = { s with fab := { s.fab with collEnded := u.fab.collEnded }, out := u.out } ∧
         (((s.job j).binding.map Binding.jtag).getD 0, p.ackbase.toNat, p.seq.toNat, p.handle) ∈ u.fab.collEnded ∧
         u.fab.collEnded.length ≤ max 256 s.fab.collEnded.length ∧
         ((s.job j).groupOf p.ackbase.toNat = none → u.out = s.out) ∧
         (∀ g, (s.job j).groupOf p.ackbase.toNat = some g →
           u.out = (s.collNotice j p.ackbase.toNat p.seq.toNat g.stages p.handle).out)) ∧
     (∀ gid seq, (s.job j).liveColl gid seq = some c → c.undo = [] → s.store.guardFull = false → ∃ u, exec (.collTimeout j gid seq) s = .next u ∧ u.store = s.store ∧
       u.tiles = s.tiles ∧ Safety.CollHas u j c (fun y => y.endedWith = some stCollTimeout) ∧
       s.now.toNat ≤ u.now.toNat) ∧
     (∀ gid seq, (s.job j).liveColl gid seq = none → exec (.collTimeout j gid seq) s = .next s) ∧
     (∀ gid seq chunk e r, (s.job j).liveColl gid seq = some c → c.phase = .setup → c.stages[c.setupStage]? = some e →
       c.setup = some r → c.setupSent = true →
       exec (.collRetransmit j gid seq chunk) s = .next (s.sendSetup j c 0x20 stOK e r 1)) ∧
     (∀ gid seq chunk ch e, (s.job j).liveColl gid seq = some c → c.phase = .data → c.chunk chunk = some ch →
       c.stages[ch.stage]? = some e → ch.sent = true → ch.result = none →
       let lanes := ((s.collPorch chunk).map s.porchLanes).getD []
       ∃ u, exec (.collRetransmit j gid seq chunk) s = .next u ∧ u = { s with out := u.out, bar2 := u.bar2 } ∧
         (∀ o ∈ u.out.drop s.out.length, ∃ q, q.pflags = 1#8 ∧ q.typ = 0x22#8 ∧
           ((∃ k ∈ lanes, o = .packet q k) ∨ o = .galleryColl q none)) ∧
         ((e.kind = 1 ∨ lanes ≠ []) → u.out.length = s.out.length + c.packets chunk + c.specials chunk) ∧
         fieldOf (u.bar2Word 0x290) 32 32 = min (2 ^ 32 - 1) (fieldOf (s.bar2Word 0x290) 32 32 + 1)))
end

