-- ==== Sys2Proof/Laws/SMap.lean ====
section
/-! SUPPORT. SMap.lean: the laws of sparse tables: what a read finds after a write, and that writes keep the canonical
form. -/

namespace Sys2Proof

variable {α : Type} {d v : α} {m : SMap α} {k k2 lo : Nat}

/-! ## Reading after writing -/

theorem SMap.get_put_same : SMap.get d (SMap.put m k v) k = v := by
  induction m with
  | nil => simp [SMap.put, SMap.get]
  | cons e m ih =>
    obtain ⟨a, b⟩ := e
    unfold SMap.put
    split
    · simp [SMap.get]
    · split
      · simp [SMap.get]
      · simp_all [SMap.get]

theorem SMap.get_put_other (h : k2 ≠ k) : SMap.get d (SMap.put m k v) k2 = SMap.get d m k2 := by
  induction m with
  | nil => simp [SMap.put, SMap.get, h]
  | cons e m ih =>
    obtain ⟨a, b⟩ := e
    unfold SMap.put
    split
    · subst_vars; simp [SMap.get, h]
    · split
      · simp [SMap.get, h]
      · simp [SMap.get, ih]

theorem SMap.get_erase_same : SMap.get d (SMap.erase m k) k = d := by
  induction m with
  | nil => simp [SMap.erase, SMap.get]
  | cons e m ih =>
    obtain ⟨a, b⟩ := e
    unfold SMap.erase
    split
    · exact ih
    · simp_all [SMap.get]

theorem SMap.get_erase_other (h : k2 ≠ k) : SMap.get d (SMap.erase m k) k2 = SMap.get d m k2 := by
  induction m with
  | nil => rfl
  | cons e m ih =>
    obtain ⟨a, b⟩ := e
    unfold SMap.erase
    split
    · subst_vars; simp [SMap.get, h, ih]
    · simp [SMap.get, ih]

@[simp] theorem SMap.get_set_same [DecidableEq α] : SMap.get d (SMap.set d m k v) k = v := by
  unfold SMap.set
  split
  · rename_i h; rw [SMap.get_erase_same, h]
  · exact SMap.get_put_same

@[simp] theorem SMap.get_set_other [DecidableEq α] (h : k2 ≠ k) :
    SMap.get d (SMap.set d m k v) k2 = SMap.get d m k2 := by
  unfold SMap.set
  split
  · exact SMap.get_erase_other h
  · exact SMap.get_put_other h

/-- A read after a write, whichever key. -/
theorem SMap.get_set [DecidableEq α] :
    SMap.get d (SMap.set d m k v) k2 = if k2 = k then v else SMap.get d m k2 := by
  by_cases h : k2 = k
  · subst h; simp
  · simp [h]

@[simp] theorem SMap.get_nil : SMap.get d ([] : SMap α) k = d := rfl

/-! ## The canonical form -/

theorem SMap.sortedFrom_mono {lo' : Nat} (h : lo' ≤ lo) (hm : SMap.sortedFrom lo m = true) : SMap.sortedFrom lo' m = true := by
  cases m with
  | nil => rfl
  | cons e m =>
    obtain ⟨a, b⟩ := e
    simp only [SMap.sortedFrom, Bool.and_eq_true, decide_eq_true_eq] at *
    exact ⟨by omega, hm.2⟩

theorem SMap.sortedFrom_erase (hm : SMap.sortedFrom lo m = true) : SMap.sortedFrom lo (SMap.erase m k) = true := by
  induction m generalizing lo with
  | nil => rfl
  | cons e m ih =>
    obtain ⟨a, b⟩ := e
    simp only [SMap.sortedFrom, Bool.and_eq_true, decide_eq_true_eq] at hm
    unfold SMap.erase
    split
    · exact ih (SMap.sortedFrom_mono (by omega) hm.2)
    · simp only [SMap.sortedFrom, Bool.and_eq_true, decide_eq_true_eq]
      exact ⟨hm.1, ih hm.2⟩

theorem SMap.sortedFrom_put (hk : lo ≤ k) (hm : SMap.sortedFrom lo m = true) : SMap.sortedFrom lo (SMap.put m k v) = true := by
  induction m generalizing lo with
  | nil => simp [SMap.put, SMap.sortedFrom, hk]
  | cons e m ih =>
    obtain ⟨a, b⟩ := e
    simp only [SMap.sortedFrom, Bool.and_eq_true, decide_eq_true_eq] at hm
    unfold SMap.put
    split
    · subst_vars; simp only [SMap.sortedFrom, Bool.and_eq_true, decide_eq_true_eq]; exact hm
    · split
      · simp only [SMap.sortedFrom, Bool.and_eq_true, decide_eq_true_eq]
        exact ⟨hk, by omega, hm.2⟩
      · simp only [SMap.sortedFrom, Bool.and_eq_true, decide_eq_true_eq]
        exact ⟨hm.1, ih (by omega) hm.2⟩

theorem SMap.mem_erase {e : Nat × α} (h : e ∈ SMap.erase m k) : e ∈ m := by
  induction m with
  | nil => simp [SMap.erase] at h
  | cons x m ih =>
    obtain ⟨a, b⟩ := x
    unfold SMap.erase at h
    split at h
    · exact List.mem_cons_of_mem _ (ih h)
    · rcases List.mem_cons.1 h with h | h
      · exact h ▸ List.mem_cons_self
      · exact List.mem_cons_of_mem _ (ih h)

theorem SMap.mem_put {e : Nat × α} (h : e ∈ SMap.put m k v) : e = (k, v) ∨ e ∈ m := by
  induction m with
  | nil => simpa [SMap.put] using h
  | cons x m ih =>
    obtain ⟨a, b⟩ := x
    unfold SMap.put at h
    split at h
    · rcases List.mem_cons.1 h with h | h
      · exact .inl h
      · exact .inr (List.mem_cons_of_mem _ h)
    · split at h
      · rcases List.mem_cons.1 h with h | h
        · exact .inl h
        · exact .inr h
      · rcases List.mem_cons.1 h with h | h
        · exact .inr (h ▸ List.mem_cons_self)
        · rcases ih h with h | h
          · exact .inl h
          · exact .inr (List.mem_cons_of_mem _ h)

/-- The canonical form, said of the entries. -/
theorem SMap.wf_iff [DecidableEq α] : SMap.wf d m = true ↔ SMap.sortedFrom 0 m = true ∧ ∀ e ∈ m, e.2 ≠ d := by
  simp [SMap.wf]

/-- A write keeps the canonical form. -/
theorem SMap.wf_set [DecidableEq α] (h : SMap.wf d m = true) : SMap.wf d (SMap.set d m k v) = true := by
  rw [SMap.wf_iff] at *
  unfold SMap.set
  split
  · exact ⟨SMap.sortedFrom_erase h.1, fun e he => h.2 e (SMap.mem_erase he)⟩
  · rename_i hv
    refine ⟨SMap.sortedFrom_put (Nat.zero_le _) h.1, fun e he => ?_⟩
    rcases SMap.mem_put he with he | he
    · subst he; exact hv
    · exact h.2 e he

theorem SMap.wf_nil [DecidableEq α] : SMap.wf d ([] : SMap α) = true := rfl

/-- Writes along a list keep the canonical form. -/
theorem SMap.wf_setList [DecidableEq α] {vs : List α} (h : SMap.wf d m = true) :
    SMap.wf d (SMap.setList d m k vs) = true := by
  induction vs generalizing m k with
  | nil => exact h
  | cons x xs ih => exact ih (SMap.wf_set h)

theorem SMap.sortedFrom_filter {p : Nat × α → Bool} (hm : SMap.sortedFrom lo m = true) :
    SMap.sortedFrom lo (m.filter p) = true := by
  induction m generalizing lo with
  | nil => rfl
  | cons e m ih =>
    obtain ⟨a, b⟩ := e
    simp only [SMap.sortedFrom, Bool.and_eq_true, decide_eq_true_eq] at hm
    rw [List.filter_cons]
    split
    · simp only [SMap.sortedFrom, Bool.and_eq_true, decide_eq_true_eq]; exact ⟨hm.1, ih hm.2⟩
    · exact ih (SMap.sortedFrom_mono (by omega) hm.2)

/-- Leaving entries out keeps the canonical form. -/
theorem SMap.wf_filter [DecidableEq α] {p : Nat × α → Bool} (h : SMap.wf d m = true) :
    SMap.wf d (m.filter p) = true := by
  rw [SMap.wf_iff] at *
  exact ⟨SMap.sortedFrom_filter h.1, fun e he => h.2 e (List.mem_filter.1 he).1⟩

theorem SMap.wf_clearRange [DecidableEq α] {base len : Nat} (h : SMap.wf d m = true) :
    SMap.wf d (SMap.clearRange m base len) = true := SMap.wf_filter h

/-- A fold of writes keeps the canonical form. -/
theorem SMap.wf_foldl [DecidableEq α] {β : Type} {xs : List β} {f : SMap α → β → SMap α}
    (hf : ∀ m x, SMap.wf d m = true → SMap.wf d (f m x) = true) (h : SMap.wf d m = true) :
    SMap.wf d (xs.foldl f m) = true := by
  induction xs generalizing m with
  | nil => exact h
  | cons x xs ih => exact ih (hf m x h)

end Sys2Proof
end

