-- ==== Sys2Proof/Laws/Memory.lean ====
section
/-! SUPPORT. Memory.lean: every operation on memory keeps its canonical form, and reset has it. -/

namespace Sys2Proof.Machine

open Sys2Proof

/-- The canonical form by its two parts. -/
theorem Store.wf_iff {st : Store} : st.wf = true ↔ SMap.wf 0#8 st.mem = true ∧ SMap.wf 0#8 st.cacheMem = true := by
  simp [Store.wf]

/-- An operation that leaves the two byte tables alone keeps the form. -/
theorem Store.wf_congr {st st' : Store} (hm : st'.mem = st.mem) (hc : st'.cacheMem = st.cacheMem) (h : st.wf = true) :
    st'.wf = true := by
  rw [Store.wf_iff] at *; rw [hm, hc]; exact h

theorem Store.reset_wf : State.reset.store.wf = true := rfl

/-- Bytes stored one after another keep the form. -/
theorem cells_wf {m : List Host.Cell} {ws : List (Nat × Byte)} (h : SMap.wf 0#8 m = true) :
    SMap.wf 0#8 (ws.foldl (fun m w => SMap.set 0#8 m w.1 w.2) m) = true :=
  SMap.wf_foldl (fun _ _ h => SMap.wf_set h) h

theorem Store.wf_settle {st : Store} {blk : Nat} (h : st.wf = true) : (st.settle blk).wf = true := by
  unfold Store.settle
  split
  · exact h
  · split
    · exact h
    · generalize List.map _ (List.range 4096) = vs
      exact Store.wf_iff.2 ⟨SMap.wf_setList (Store.wf_iff.1 h).1, (Store.wf_iff.1 h).2⟩

theorem Store.wf_poisonBlock {st : Store} {blk : Nat} (h : st.wf = true) : (st.poisonBlock blk).wf = true :=
  Store.wf_congr (st := st) rfl rfl h

theorem Store.wf_memCount {st : Store} {n lo len : Nat} (h : st.wf = true) : (st.memCount n lo len).wf = true :=
  Store.wf_congr (st := st) rfl rfl h

/-- A fold over stores keeps the form where each step does. -/
theorem Store.wf_foldl {β : Type} {xs : List β} {f : Store → β → Store} {st : Store}
    (hf : ∀ st x, st.wf = true → (f st x).wf = true) (h : st.wf = true) : (xs.foldl f st).wf = true := by
  induction xs generalizing st with
  | nil => exact h
  | cons x xs ih => exact ih (hf st x h)

/-- The guard settles the block it saves, and changes no listed byte otherwise. -/
theorem Store.wf_guard {st : Store} {b : Nat} (h : st.wf = true) : (st.guard b).wf = true := by
  have h' : ((List.range 16).foldl (fun st i => st.settle (b * 16 + i)) st).wf = true :=
    Store.wf_foldl (fun _ _ hs => Store.wf_settle hs) h
  generalize hx : (List.range 16).foldl (fun st i => st.settle (b * 16 + i)) st = x at h'
  simp only [Store.guard, hx]
  split
  · split
    · exact Store.wf_congr (st := st) rfl rfl h
    · exact Store.wf_congr (st := x) rfl rfl h'
  · exact h

theorem Store.wf_track {st : Store} {b : Nat} (h : st.wf = true) : (st.track b).wf = true :=
  Store.wf_congr (st := st) rfl rfl h

theorem Store.wf_beforeWrite {st : Store} {blk : Nat} (h : st.wf = true) : (st.beforeWrite blk).wf = true :=
  Store.wf_track (Store.wf_guard h)

theorem Store.wf_allocLine {st : Store} {blk : Nat} (h : st.wf = true) : (st.allocLine blk).wf = true := by
  have h' := Store.wf_settle (blk := blk) h
  simp only [Store.allocLine]
  split
  · exact h'
  · rw [Store.wf_iff] at *; exact ⟨h'.1, cells_wf h'.2⟩

theorem Store.wf_putBytes {st : Store} {cached checked clear : Bool} {blk : Nat} {ws : List (Nat × Byte)}
    (h : st.wf = true) : (st.putBytes cached checked blk ws clear).wf = true := by
  have h' := Store.wf_beforeWrite (blk := blk) (Store.wf_settle (blk := blk) h)
  simp only [Store.putBytes]
  split
  · have h2 := Store.wf_allocLine (blk := blk) h'
    rw [Store.wf_iff] at *; exact ⟨h2.1, cells_wf h2.2⟩
  · rw [Store.wf_iff] at *; exact ⟨cells_wf h'.1, h'.2⟩

theorem Store.wf_verify {st : Store} {cached : Bool} {blk : Nat} (h : st.wf = true) : (st.verify cached blk).2.wf = true := by
  have h' := Store.wf_settle (blk := blk) h
  have hmem : ∀ x : Store, x.wf = true → ∀ c, ((x.poisonBlock blk).memCount c 48 16).wf = true :=
    fun x hx c => Store.wf_memCount (Store.wf_poisonBlock hx)
  have hdrop : ∀ x : Store, x.wf = true →
      ({ x with lines := SMap.set {} x.lines blk {}, cacheMem := SMap.clearRange x.cacheMem (blk * 4096) 4096 } : Store).wf = true := by
    intro x hx; rw [Store.wf_iff] at *; exact ⟨hx.1, SMap.wf_clearRange hx.2⟩
  simp only [Store.verify]
  repeat' split
  all_goals first
    | exact h'
    | exact hmem _ h' _
    | exact hdrop _ h'

theorem Store.wf_writeChecked {st : Store} {cached : Bool} {blk : Nat} {ws : List (Nat × Byte)} (h : st.wf = true) :
    (st.writeChecked cached blk ws).2.wf = true := by
  have hv := Store.wf_verify (cached := cached) (blk := blk) h
  unfold Store.writeChecked
  split
  · exact Store.wf_putBytes h
  · split
    · rename_i heq; rw [heq] at hv; exact hv
    · rename_i heq; rw [heq] at hv; exact Store.wf_putBytes hv

theorem Store.wf_writeUnchecked {st : Store} {cached : Bool} {blk : Nat} {ws : List (Nat × Byte)} (h : st.wf = true) :
    (st.writeUnchecked cached blk ws).2.wf = true := by
  unfold Store.writeUnchecked
  split
  · exact h
  · exact Store.wf_putBytes h

theorem Store.settleRange_mem {st : Store} {blk n : Nat} :
    (st.settleRange blk n).mem = st.mem ∧ (st.settleRange blk n).cacheMem = st.cacheMem := by
  unfold Store.settleRange; split <;> exact ⟨rfl, rfl⟩

theorem Store.wf_zeroFill {st : Store} {base len : Nat} (h : st.wf = true) : (st.zeroFill base len).wf = true := by
  have key : ∀ x : Store, x.wf = true → ∀ a b, (x.settleRange a b).wf = true :=
    fun x hx a b => Store.wf_congr Store.settleRange_mem.1 Store.settleRange_mem.2 hx
  have hg : ∀ (x : Store) (b : Nat), x.wf = true → ((x.guard b).track b).wf = true := fun _ _ hx =>
    Store.wf_track (Store.wf_guard hx)
  simp only [Store.zeroFill]
  split
  · have := key _ h (base / 4096) (len / 4096)
    rw [Store.wf_iff] at *; exact ⟨SMap.wf_clearRange this.1, SMap.wf_clearRange this.2⟩
  · have := key _ (Store.wf_foldl (f := fun st b => (st.guard b).track b) (xs := (List.range ((len + 65535) / 65536)).map
      (fun i => base / 65536 + i)) hg h) (base / 4096) (len / 4096)
    rw [Store.wf_iff] at *; exact ⟨SMap.wf_clearRange this.1, SMap.wf_clearRange this.2⟩

theorem Store.wf_cleanLine {st : Store} {inv : Bool} {blk : Nat} (h : st.wf = true) : (st.cleanLine inv blk).wf = true := by
  rw [Store.wf_iff] at *
  simp only [Store.cleanLine]
  repeat' split
  all_goals first
    | exact h
    | exact ⟨h.1, SMap.wf_clearRange h.2⟩
    | exact ⟨cells_wf (SMap.wf_clearRange h.1), h.2⟩
    | exact ⟨cells_wf (SMap.wf_clearRange h.1), SMap.wf_clearRange h.2⟩

theorem Store.doubt_mem {st : Store} {n : Nat} {blks : List Nat} :
    (st.doubt n blks).mem = st.mem ∧ (st.doubt n blks).cacheMem = st.cacheMem := by
  unfold Store.doubt
  induction blks generalizing st with
  | nil => exact ⟨rfl, rfl⟩
  | cons b bs ih => rw [List.foldl_cons]; exact ⟨(ih).1.trans rfl, (ih).2.trans rfl⟩

theorem Store.wf_doubt {st : Store} {n : Nat} {blks : List Nat} (h : st.wf = true) : (st.doubt n blks).wf = true :=
  Store.wf_congr Store.doubt_mem.1 Store.doubt_mem.2 h

theorem Store.disagree_mem {st : Store} {n : Nat} {blks : List Nat} :
    (st.disagree n blks).mem = st.mem ∧ (st.disagree n blks).cacheMem = st.cacheMem := by
  unfold Store.disagree
  induction blks generalizing st with
  | nil => exact ⟨rfl, rfl⟩
  | cons b bs ih => rw [List.foldl_cons]; exact ⟨(ih).1.trans rfl, (ih).2.trans rfl⟩

theorem Store.wf_disagree {st : Store} {n : Nat} {blks : List Nat} (h : st.wf = true) : (st.disagree n blks).wf = true :=
  Store.wf_congr Store.disagree_mem.1 Store.disagree_mem.2 h

theorem Store.wf_spoil {st : Store} {n : Nat} {rs : List (Nat × Nat)} (h : st.wf = true) : (st.spoil n rs).wf = true := by
  refine Store.wf_foldl (fun st r hst => Store.wf_doubt (Store.wf_foldl (fun st i hs => ?_) hst)) h
  rw [Store.wf_iff] at *
  refine ⟨SMap.wf_set hs.1, ?_⟩
  show SMap.wf 0#8 (if _ then _ else _) = true
  split
  · exact SMap.wf_set hs.2
  · exact hs.2

theorem Store.wf_restore {st : Store} {x : BlockImage} (h : st.wf = true) : (st.restore x).wf = true := by
  rw [Store.wf_iff] at *
  exact ⟨cells_wf (SMap.wf_clearRange h.1), cells_wf (SMap.wf_clearRange h.2)⟩

theorem Store.wf_unwrite {st : Store} {n : Nat} {x : BlockImage} {pas : List Nat} (h : st.wf = true) :
    (st.unwrite n x pas).wf = true := by
  have hg : ((st.guard (x.blk / 16)).track (x.blk / 16)).wf = true := Store.wf_track (Store.wf_guard h)
  rw [Store.wf_iff] at hg
  have key : ∀ (f : Nat → Byte) (m : List Host.Cell), SMap.wf 0#8 m = true →
      SMap.wf 0#8 (pas.foldl (fun m pa => SMap.set 0#8 m pa (f pa)) m) = true :=
    fun f m hm => SMap.wf_foldl (f := fun m pa => SMap.set 0#8 m pa (f pa)) (fun _ _ h => SMap.wf_set h) hm
  unfold Store.unwrite
  extract_lets _ _ _ st1 st2
  have h2 : st2.wf = true := by
    rw [Store.wf_iff]
    refine ⟨key _ _ hg.1, ?_⟩
    show SMap.wf 0#8 (if _ then _ else _) = true
    split
    · exact key _ _ hg.2
    · exact hg.2
  split
  · exact Store.wf_restore h2
  · exact Store.wf_doubt h2

theorem Store.wf_wordLost {st : Store} {blk : Nat} {line : Bool} (h : st.wf = true) : (st.wordLost blk line).wf = true := by
  simp only [Store.wordLost]
  split
  · rw [Store.wf_iff] at *; exact ⟨h.1, SMap.wf_clearRange h.2⟩
  · exact Store.wf_poisonBlock h

theorem Store.wf_flushAll {st : Store} (h : st.wf = true) : st.flushAll.wf = true :=
  Store.wf_foldl (fun _ _ hs => Store.wf_cleanLine hs) h

theorem Store.wf_zeroAll {st : Store} : st.zeroAll.wf = true := rfl

/-! ## Accesses -/

theorem State.emit_foldl_store {α : Type} {xs : List α} {f : α → Out} {s : State} :
    (xs.foldl (fun s e => s.emit (f e)) s).store = s.store := by
  induction xs generalizing s with
  | nil => rfl
  | cons x xs ih => exact ih.trans rfl

@[simp] theorem State.takeStore_store {s : State} {st : Store} : (s.takeStore st).store = st :=
  State.emit_foldl_store (f := fun e : Nat × Bool => Out.telemetry 5 (e.1 * 4096) s.now) (s := { s with store := st })

@[simp] theorem State.sawRead_store {s : State} {pas : List Nat} : (s.sawRead pas).store = s.store := by
  unfold State.sawRead; split <;> rfl
@[simp] theorem State.sawWrite_store {s : State} {c : Bool} {b : Nat} {pas : List Nat} :
    (s.sawWrite c b pas).store = s.store := by
  unfold State.sawWrite; split <;> rfl

/-- The state an access leaves, whatever it comes to. -/
def Access.state {α : Type} : Access α → State
  | .ok _ s => s
  | .fault _ _ s => s
  | .fail _ _ s => s

/-- An access keeps the form where its first part does and its second part does from there. -/
theorem Access.wf_bind {α β : Type} {x : Access α} {f : α → State → Access β} (hx : x.state.store.wf = true)
    (hf : ∀ a s, s.store.wf = true → (f a s).state.store.wf = true) : (x.bind f).state.store.wf = true := by
  cases x with
  | ok a s => exact hf a s hx
  | fault va w s => exact hx
  | fail st a s => exact hx

theorem State.probe_state {s : State} {j : Nat} {w : Bool} {vas : List Nat} : (s.probe j w vas).state = s := by
  induction vas with
  | nil => rfl
  | cons va vas ih => unfold State.probe; split <;> first | exact ih | rfl

theorem State.wf_verifyBlocks {s : State} {checked : Bool} {bs : List (Nat × Bool)} (h : s.store.wf = true) :
    (s.verifyBlocks checked bs).state.store.wf = true := by
  induction bs generalizing s with
  | nil => exact h
  | cons b bs ih =>
    obtain ⟨blk, cached⟩ := b
    have hv := Store.wf_verify (cached := cached) (blk := blk) h
    unfold State.verifyBlocks
    split
    · split
      · rename_i heq; rw [heq] at hv; simpa [Access.state] using hv
      · rename_i heq; rw [heq] at hv; exact ih hv
    · split
      · exact h
      · exact ih (Store.wf_settle h)

theorem State.wf_writeBlocks {s : State} {checked : Bool} {ws : List (Nat × Byte)} {bs : List (Nat × Bool)}
    (h : s.store.wf = true) : (s.writeBlocks checked ws bs).state.store.wf = true := by
  induction bs generalizing s with
  | nil => exact h
  | cons b bs ih =>
    obtain ⟨blk, cached⟩ := b
    have hw : ∀ r, r = (if checked then s.store.writeChecked cached blk (ws.filter (fun w => decide (w.1 / 4096 = blk)))
        else s.store.writeUnchecked cached blk (ws.filter (fun w => decide (w.1 / 4096 = blk)))) → r.2.wf = true := by
      intro r hr; subst hr; split
      · exact Store.wf_writeChecked h
      · exact Store.wf_writeUnchecked h
    unfold State.writeBlocks
    simp only
    split
    · rename_i heq; have := hw _ heq.symm; simpa [Access.state] using this
    · rename_i heq; have := hw _ heq.symm
      exact ih (by rw [State.sawWrite_store]; exact this)

/-- A read keeps the form. -/
theorem State.wf_readVirt {s : State} {j : Nat} {checked : Bool} {vas : List Nat} (h : s.store.wf = true) :
    (s.readVirt j checked vas).state.store.wf = true :=
  Access.wf_bind (by rw [State.probe_state]; exact h) (fun _ _ hs =>
    Access.wf_bind (State.wf_verifyBlocks hs) (fun _ _ hs => by simpa [Access.state] using hs))

/-- A write keeps the form. -/
theorem State.wf_writeVirt {s : State} {j : Nat} {checked : Bool} {ws : List (Nat × Byte)} (h : s.store.wf = true) :
    (s.writeVirt j checked ws).state.store.wf = true :=
  Access.wf_bind (by rw [State.probe_state]; exact h) (fun _ _ hs => State.wf_writeBlocks hs)

theorem State.wf_readPhys {s : State} {pa n : Nat} (h : s.store.wf = true) : (s.readPhys pa n).2.2.store.wf = true := by
  have hv := State.wf_verifyBlocks (checked := true)
    (bs := blocksOf ((List.range n).map (fun i => (pa + i, false)))) h
  simp only [State.readPhys]
  split <;> (rename_i heq; rw [heq] at hv; exact hv)

theorem State.wf_writePhys {s : State} {pa : Nat} {bs : List Byte} (h : s.store.wf = true) :
    (s.writePhys pa bs).2.store.wf = true := by
  have hw := State.wf_writeBlocks (checked := true) (ws := ((List.range bs.length).zip bs).map (fun x => (pa + x.1, x.2)))
    (bs := blocksOf ((((List.range bs.length).zip bs).map (fun x => (pa + x.1, x.2))).map (fun w => (w.1, false)))) h
  simp only [State.writePhys]
  split <;> (rename_i heq; rw [heq] at hw; exact hw)

end Sys2Proof.Machine
end

