-- ==== Sys2Proof/Laws/State.lean ====
section
/-! SUPPORT. State.lean: what each update of the state leaves of each field, one lemma per field and update, and what a part
reads after an update of it or of another. -/

namespace Sys2Proof.Machine

open Sys2Proof

variable {s : State}

/-! ## setTile -/

@[simp] theorem State.setTile_pending {t : Nat} {x : Tile} : (s.setTile t x).pending = s.pending := rfl
@[simp] theorem State.setTile_fresh {t : Nat} {x : Tile} : (s.setTile t x).fresh = s.fresh := rfl
@[simp] theorem State.setTile_out {t : Nat} {x : Tile} : (s.setTile t x).out = s.out := rfl
@[simp] theorem State.setTile_board {t : Nat} {x : Tile} : (s.setTile t x).board = s.board := rfl
@[simp] theorem State.setTile_sec {t : Nat} {x : Tile} : (s.setTile t x).sec = s.sec := rfl
@[simp] theorem State.setTile_portA {t : Nat} {x : Tile} : (s.setTile t x).portA = s.portA := rfl
@[simp] theorem State.setTile_portB {t : Nat} {x : Tile} : (s.setTile t x).portB = s.portB := rfl
@[simp] theorem State.setTile_sealCount {t : Nat} {x : Tile} : (s.setTile t x).sealCount = s.sealCount := rfl
@[simp] theorem State.setTile_jobs {t : Nat} {x : Tile} : (s.setTile t x).jobs = s.jobs := rfl
@[simp] theorem State.setTile_tiles {t : Nat} {x : Tile} : (s.setTile t x).tiles = SMap.set {} s.tiles t x := rfl
@[simp] theorem State.setTile_store {t : Nat} {x : Tile} : (s.setTile t x).store = s.store := rfl
@[simp] theorem State.setTile_fab {t : Nat} {x : Tile} : (s.setTile t x).fab = s.fab := rfl
@[simp] theorem State.setTile_pair {t : Nat} {x : Tile} : (s.setTile t x).pair = s.pair := rfl
@[simp] theorem State.setTile_clk {t : Nat} {x : Tile} : (s.setTile t x).clk = s.clk := rfl
@[simp] theorem State.setTile_bar2 {t : Nat} {x : Tile} : (s.setTile t x).bar2 = s.bar2 := rfl
@[simp] theorem State.setTile_published {t : Nat} {x : Tile} : (s.setTile t x).published = s.published := rfl
@[simp] theorem State.setTile_races {t : Nat} {x : Tile} : (s.setTile t x).races = s.races := rfl
@[simp] theorem State.setTile_journal {t : Nat} {x : Tile} : (s.setTile t x).journal = s.journal := rfl

/-! ## modTile -/

@[simp] theorem State.modTile_pending {t : Nat} {f : Tile → Tile} : (s.modTile t f).pending = s.pending := rfl
@[simp] theorem State.modTile_fresh {t : Nat} {f : Tile → Tile} : (s.modTile t f).fresh = s.fresh := rfl
@[simp] theorem State.modTile_out {t : Nat} {f : Tile → Tile} : (s.modTile t f).out = s.out := rfl
@[simp] theorem State.modTile_board {t : Nat} {f : Tile → Tile} : (s.modTile t f).board = s.board := rfl
@[simp] theorem State.modTile_sec {t : Nat} {f : Tile → Tile} : (s.modTile t f).sec = s.sec := rfl
@[simp] theorem State.modTile_portA {t : Nat} {f : Tile → Tile} : (s.modTile t f).portA = s.portA := rfl
@[simp] theorem State.modTile_portB {t : Nat} {f : Tile → Tile} : (s.modTile t f).portB = s.portB := rfl
@[simp] theorem State.modTile_sealCount {t : Nat} {f : Tile → Tile} : (s.modTile t f).sealCount = s.sealCount := rfl
@[simp] theorem State.modTile_jobs {t : Nat} {f : Tile → Tile} : (s.modTile t f).jobs = s.jobs := rfl
@[simp] theorem State.modTile_tiles {t : Nat} {f : Tile → Tile} : (s.modTile t f).tiles = SMap.set {} s.tiles t (f (s.tile t)) := rfl
@[simp] theorem State.modTile_store {t : Nat} {f : Tile → Tile} : (s.modTile t f).store = s.store := rfl
@[simp] theorem State.modTile_fab {t : Nat} {f : Tile → Tile} : (s.modTile t f).fab = s.fab := rfl
@[simp] theorem State.modTile_pair {t : Nat} {f : Tile → Tile} : (s.modTile t f).pair = s.pair := rfl
@[simp] theorem State.modTile_clk {t : Nat} {f : Tile → Tile} : (s.modTile t f).clk = s.clk := rfl
@[simp] theorem State.modTile_bar2 {t : Nat} {f : Tile → Tile} : (s.modTile t f).bar2 = s.bar2 := rfl
@[simp] theorem State.modTile_published {t : Nat} {f : Tile → Tile} : (s.modTile t f).published = s.published := rfl
@[simp] theorem State.modTile_races {t : Nat} {f : Tile → Tile} : (s.modTile t f).races = s.races := rfl
@[simp] theorem State.modTile_journal {t : Nat} {f : Tile → Tile} : (s.modTile t f).journal = s.journal := rfl

/-! ## setJob -/

@[simp] theorem State.setJob_pending {j : Nat} {x : Job} : (s.setJob j x).pending = s.pending := rfl
@[simp] theorem State.setJob_fresh {j : Nat} {x : Job} : (s.setJob j x).fresh = s.fresh := rfl
@[simp] theorem State.setJob_out {j : Nat} {x : Job} : (s.setJob j x).out = s.out := rfl
@[simp] theorem State.setJob_board {j : Nat} {x : Job} : (s.setJob j x).board = s.board := rfl
@[simp] theorem State.setJob_sec {j : Nat} {x : Job} : (s.setJob j x).sec = s.sec := rfl
@[simp] theorem State.setJob_portA {j : Nat} {x : Job} : (s.setJob j x).portA = s.portA := rfl
@[simp] theorem State.setJob_portB {j : Nat} {x : Job} : (s.setJob j x).portB = s.portB := rfl
@[simp] theorem State.setJob_sealCount {j : Nat} {x : Job} : (s.setJob j x).sealCount = s.sealCount := rfl
@[simp] theorem State.setJob_jobs {j : Nat} {x : Job} : (s.setJob j x).jobs = SMap.set {} s.jobs j x := rfl
@[simp] theorem State.setJob_tiles {j : Nat} {x : Job} : (s.setJob j x).tiles = s.tiles := rfl
@[simp] theorem State.setJob_store {j : Nat} {x : Job} : (s.setJob j x).store = s.store := rfl
@[simp] theorem State.setJob_fab {j : Nat} {x : Job} : (s.setJob j x).fab = s.fab := rfl
@[simp] theorem State.setJob_pair {j : Nat} {x : Job} : (s.setJob j x).pair = s.pair := rfl
@[simp] theorem State.setJob_clk {j : Nat} {x : Job} : (s.setJob j x).clk = s.clk := rfl
@[simp] theorem State.setJob_bar2 {j : Nat} {x : Job} : (s.setJob j x).bar2 = s.bar2 := rfl
@[simp] theorem State.setJob_published {j : Nat} {x : Job} : (s.setJob j x).published = s.published := rfl
@[simp] theorem State.setJob_races {j : Nat} {x : Job} : (s.setJob j x).races = s.races := rfl
@[simp] theorem State.setJob_journal {j : Nat} {x : Job} : (s.setJob j x).journal = s.journal := rfl

/-! ## modJob -/

@[simp] theorem State.modJob_pending {j : Nat} {f : Job → Job} : (s.modJob j f).pending = s.pending := rfl
@[simp] theorem State.modJob_fresh {j : Nat} {f : Job → Job} : (s.modJob j f).fresh = s.fresh := rfl
@[simp] theorem State.modJob_out {j : Nat} {f : Job → Job} : (s.modJob j f).out = s.out := rfl
@[simp] theorem State.modJob_board {j : Nat} {f : Job → Job} : (s.modJob j f).board = s.board := rfl
@[simp] theorem State.modJob_sec {j : Nat} {f : Job → Job} : (s.modJob j f).sec = s.sec := rfl
@[simp] theorem State.modJob_portA {j : Nat} {f : Job → Job} : (s.modJob j f).portA = s.portA := rfl
@[simp] theorem State.modJob_portB {j : Nat} {f : Job → Job} : (s.modJob j f).portB = s.portB := rfl
@[simp] theorem State.modJob_sealCount {j : Nat} {f : Job → Job} : (s.modJob j f).sealCount = s.sealCount := rfl
@[simp] theorem State.modJob_jobs {j : Nat} {f : Job → Job} : (s.modJob j f).jobs = SMap.set {} s.jobs j (f (s.job j)) := rfl
@[simp] theorem State.modJob_tiles {j : Nat} {f : Job → Job} : (s.modJob j f).tiles = s.tiles := rfl
@[simp] theorem State.modJob_store {j : Nat} {f : Job → Job} : (s.modJob j f).store = s.store := rfl
@[simp] theorem State.modJob_fab {j : Nat} {f : Job → Job} : (s.modJob j f).fab = s.fab := rfl
@[simp] theorem State.modJob_pair {j : Nat} {f : Job → Job} : (s.modJob j f).pair = s.pair := rfl
@[simp] theorem State.modJob_clk {j : Nat} {f : Job → Job} : (s.modJob j f).clk = s.clk := rfl
@[simp] theorem State.modJob_bar2 {j : Nat} {f : Job → Job} : (s.modJob j f).bar2 = s.bar2 := rfl
@[simp] theorem State.modJob_published {j : Nat} {f : Job → Job} : (s.modJob j f).published = s.published := rfl
@[simp] theorem State.modJob_races {j : Nat} {f : Job → Job} : (s.modJob j f).races = s.races := rfl
@[simp] theorem State.modJob_journal {j : Nat} {f : Job → Job} : (s.modJob j f).journal = s.journal := rfl

/-! ## emit -/

@[simp] theorem State.emit_pending {o : Out} : (s.emit o).pending = s.pending := rfl
@[simp] theorem State.emit_fresh {o : Out} : (s.emit o).fresh = s.fresh := rfl
@[simp] theorem State.emit_out {o : Out} : (s.emit o).out = s.out ++ [o] := rfl
@[simp] theorem State.emit_board {o : Out} : (s.emit o).board = s.board := rfl
@[simp] theorem State.emit_sec {o : Out} : (s.emit o).sec = s.sec := rfl
@[simp] theorem State.emit_portA {o : Out} : (s.emit o).portA = s.portA := rfl
@[simp] theorem State.emit_portB {o : Out} : (s.emit o).portB = s.portB := rfl
@[simp] theorem State.emit_sealCount {o : Out} : (s.emit o).sealCount = s.sealCount := rfl
@[simp] theorem State.emit_jobs {o : Out} : (s.emit o).jobs = s.jobs := rfl
@[simp] theorem State.emit_tiles {o : Out} : (s.emit o).tiles = s.tiles := rfl
@[simp] theorem State.emit_store {o : Out} : (s.emit o).store = s.store := rfl
@[simp] theorem State.emit_fab {o : Out} : (s.emit o).fab = s.fab := rfl
@[simp] theorem State.emit_pair {o : Out} : (s.emit o).pair = s.pair := rfl
@[simp] theorem State.emit_clk {o : Out} : (s.emit o).clk = s.clk := rfl
@[simp] theorem State.emit_bar2 {o : Out} : (s.emit o).bar2 = s.bar2 := rfl
@[simp] theorem State.emit_published {o : Out} : (s.emit o).published = s.published := rfl
@[simp] theorem State.emit_races {o : Out} : (s.emit o).races = s.races := rfl
@[simp] theorem State.emit_journal {o : Out} : (s.emit o).journal = s.journal := rfl

/-! ## drawn -/

@[simp] theorem State.drawn_pending : (s.drawn).pending = s.pending := rfl
@[simp] theorem State.drawn_fresh : (s.drawn).fresh = s.fresh + 1 := rfl
@[simp] theorem State.drawn_out : (s.drawn).out = s.out := rfl
@[simp] theorem State.drawn_board : (s.drawn).board = s.board := rfl
@[simp] theorem State.drawn_sec : (s.drawn).sec = s.sec := rfl
@[simp] theorem State.drawn_portA : (s.drawn).portA = s.portA := rfl
@[simp] theorem State.drawn_portB : (s.drawn).portB = s.portB := rfl
@[simp] theorem State.drawn_sealCount : (s.drawn).sealCount = s.sealCount := rfl
@[simp] theorem State.drawn_jobs : (s.drawn).jobs = s.jobs := rfl
@[simp] theorem State.drawn_tiles : (s.drawn).tiles = s.tiles := rfl
@[simp] theorem State.drawn_store : (s.drawn).store = s.store := rfl
@[simp] theorem State.drawn_fab : (s.drawn).fab = s.fab := rfl
@[simp] theorem State.drawn_pair : (s.drawn).pair = s.pair := rfl
@[simp] theorem State.drawn_clk : (s.drawn).clk = s.clk := rfl
@[simp] theorem State.drawn_bar2 : (s.drawn).bar2 = s.bar2 := rfl
@[simp] theorem State.drawn_published : (s.drawn).published = s.published := rfl
@[simp] theorem State.drawn_races : (s.drawn).races = s.races := rfl
@[simp] theorem State.drawn_journal : (s.drawn).journal = s.journal := rfl

/-! ## withStore -/

@[simp] theorem State.withStore_pending {st : Store} : (s.withStore st).pending = s.pending := rfl
@[simp] theorem State.withStore_fresh {st : Store} : (s.withStore st).fresh = s.fresh := rfl
@[simp] theorem State.withStore_out {st : Store} : (s.withStore st).out = s.out := rfl
@[simp] theorem State.withStore_board {st : Store} : (s.withStore st).board = s.board := rfl
@[simp] theorem State.withStore_sec {st : Store} : (s.withStore st).sec = s.sec := rfl
@[simp] theorem State.withStore_portA {st : Store} : (s.withStore st).portA = s.portA := rfl
@[simp] theorem State.withStore_portB {st : Store} : (s.withStore st).portB = s.portB := rfl
@[simp] theorem State.withStore_sealCount {st : Store} : (s.withStore st).sealCount = s.sealCount := rfl
@[simp] theorem State.withStore_jobs {st : Store} : (s.withStore st).jobs = s.jobs := rfl
@[simp] theorem State.withStore_tiles {st : Store} : (s.withStore st).tiles = s.tiles := rfl
@[simp] theorem State.withStore_store {st : Store} : (s.withStore st).store = st := rfl
@[simp] theorem State.withStore_fab {st : Store} : (s.withStore st).fab = s.fab := rfl
@[simp] theorem State.withStore_pair {st : Store} : (s.withStore st).pair = s.pair := rfl
@[simp] theorem State.withStore_clk {st : Store} : (s.withStore st).clk = s.clk := rfl
@[simp] theorem State.withStore_bar2 {st : Store} : (s.withStore st).bar2 = s.bar2 := rfl
@[simp] theorem State.withStore_published {st : Store} : (s.withStore st).published = s.published := rfl
@[simp] theorem State.withStore_races {st : Store} : (s.withStore st).races = s.races := rfl
@[simp] theorem State.withStore_journal {st : Store} : (s.withStore st).journal = s.journal := rfl

/-! ## setBar2 -/

@[simp] theorem State.setBar2_pending {off : Nat} {v : BitVec 64} : (s.setBar2 off v).pending = s.pending := rfl
@[simp] theorem State.setBar2_fresh {off : Nat} {v : BitVec 64} : (s.setBar2 off v).fresh = s.fresh := rfl
@[simp] theorem State.setBar2_out {off : Nat} {v : BitVec 64} : (s.setBar2 off v).out = s.out := rfl
@[simp] theorem State.setBar2_board {off : Nat} {v : BitVec 64} : (s.setBar2 off v).board = s.board := rfl
@[simp] theorem State.setBar2_sec {off : Nat} {v : BitVec 64} : (s.setBar2 off v).sec = s.sec := rfl
@[simp] theorem State.setBar2_portA {off : Nat} {v : BitVec 64} : (s.setBar2 off v).portA = s.portA := rfl
@[simp] theorem State.setBar2_portB {off : Nat} {v : BitVec 64} : (s.setBar2 off v).portB = s.portB := rfl
@[simp] theorem State.setBar2_sealCount {off : Nat} {v : BitVec 64} : (s.setBar2 off v).sealCount = s.sealCount := rfl
@[simp] theorem State.setBar2_jobs {off : Nat} {v : BitVec 64} : (s.setBar2 off v).jobs = s.jobs := rfl
@[simp] theorem State.setBar2_tiles {off : Nat} {v : BitVec 64} : (s.setBar2 off v).tiles = s.tiles := rfl
@[simp] theorem State.setBar2_store {off : Nat} {v : BitVec 64} : (s.setBar2 off v).store = s.store := rfl
@[simp] theorem State.setBar2_fab {off : Nat} {v : BitVec 64} : (s.setBar2 off v).fab = s.fab := rfl
@[simp] theorem State.setBar2_pair {off : Nat} {v : BitVec 64} : (s.setBar2 off v).pair = s.pair := rfl
@[simp] theorem State.setBar2_clk {off : Nat} {v : BitVec 64} : (s.setBar2 off v).clk = s.clk := rfl
@[simp] theorem State.setBar2_bar2 {off : Nat} {v : BitVec 64} : (s.setBar2 off v).bar2 = SMap.set 0#64 s.bar2 off v := rfl
@[simp] theorem State.setBar2_published {off : Nat} {v : BitVec 64} : (s.setBar2 off v).published = s.published := rfl
@[simp] theorem State.setBar2_races {off : Nat} {v : BitVec 64} : (s.setBar2 off v).races = s.races := rfl
@[simp] theorem State.setBar2_journal {off : Nat} {v : BitVec 64} : (s.setBar2 off v).journal = s.journal := rfl

/-! ## count -/

@[simp] theorem State.count_pending {off lo len n : Nat} : (s.count off lo len n).pending = s.pending := rfl
@[simp] theorem State.count_fresh {off lo len n : Nat} : (s.count off lo len n).fresh = s.fresh := rfl
@[simp] theorem State.count_out {off lo len n : Nat} : (s.count off lo len n).out = s.out := rfl
@[simp] theorem State.count_board {off lo len n : Nat} : (s.count off lo len n).board = s.board := rfl
@[simp] theorem State.count_sec {off lo len n : Nat} : (s.count off lo len n).sec = s.sec := rfl
@[simp] theorem State.count_portA {off lo len n : Nat} : (s.count off lo len n).portA = s.portA := rfl
@[simp] theorem State.count_portB {off lo len n : Nat} : (s.count off lo len n).portB = s.portB := rfl
@[simp] theorem State.count_sealCount {off lo len n : Nat} : (s.count off lo len n).sealCount = s.sealCount := rfl
@[simp] theorem State.count_jobs {off lo len n : Nat} : (s.count off lo len n).jobs = s.jobs := rfl
@[simp] theorem State.count_tiles {off lo len n : Nat} : (s.count off lo len n).tiles = s.tiles := rfl
@[simp] theorem State.count_store {off lo len n : Nat} : (s.count off lo len n).store = s.store := rfl
@[simp] theorem State.count_fab {off lo len n : Nat} : (s.count off lo len n).fab = s.fab := rfl
@[simp] theorem State.count_pair {off lo len n : Nat} : (s.count off lo len n).pair = s.pair := rfl
@[simp] theorem State.count_clk {off lo len n : Nat} : (s.count off lo len n).clk = s.clk := rfl
@[simp] theorem State.count_bar2 {off lo len n : Nat} : (s.count off lo len n).bar2 = SMap.set 0#64 s.bar2 off (addField (s.bar2Word off) lo len n) := rfl
@[simp] theorem State.count_published {off lo len n : Nat} : (s.count off lo len n).published = s.published := rfl
@[simp] theorem State.count_races {off lo len n : Nat} : (s.count off lo len n).races = s.races := rfl
@[simp] theorem State.count_journal {off lo len n : Nat} : (s.count off lo len n).journal = s.journal := rfl

/-! ## putField -/

@[simp] theorem State.putField_pending {off lo len v : Nat} : (s.putField off lo len v).pending = s.pending := rfl
@[simp] theorem State.putField_fresh {off lo len v : Nat} : (s.putField off lo len v).fresh = s.fresh := rfl
@[simp] theorem State.putField_out {off lo len v : Nat} : (s.putField off lo len v).out = s.out := rfl
@[simp] theorem State.putField_board {off lo len v : Nat} : (s.putField off lo len v).board = s.board := rfl
@[simp] theorem State.putField_sec {off lo len v : Nat} : (s.putField off lo len v).sec = s.sec := rfl
@[simp] theorem State.putField_portA {off lo len v : Nat} : (s.putField off lo len v).portA = s.portA := rfl
@[simp] theorem State.putField_portB {off lo len v : Nat} : (s.putField off lo len v).portB = s.portB := rfl
@[simp] theorem State.putField_sealCount {off lo len v : Nat} : (s.putField off lo len v).sealCount = s.sealCount := rfl
@[simp] theorem State.putField_jobs {off lo len v : Nat} : (s.putField off lo len v).jobs = s.jobs := rfl
@[simp] theorem State.putField_tiles {off lo len v : Nat} : (s.putField off lo len v).tiles = s.tiles := rfl
@[simp] theorem State.putField_store {off lo len v : Nat} : (s.putField off lo len v).store = s.store := rfl
@[simp] theorem State.putField_fab {off lo len v : Nat} : (s.putField off lo len v).fab = s.fab := rfl
@[simp] theorem State.putField_pair {off lo len v : Nat} : (s.putField off lo len v).pair = s.pair := rfl
@[simp] theorem State.putField_clk {off lo len v : Nat} : (s.putField off lo len v).clk = s.clk := rfl
@[simp] theorem State.putField_bar2 {off lo len v : Nat} : (s.putField off lo len v).bar2 = SMap.set 0#64 s.bar2 off (setField (s.bar2Word off) lo len v) := rfl
@[simp] theorem State.putField_published {off lo len v : Nat} : (s.putField off lo len v).published = s.published := rfl
@[simp] theorem State.putField_races {off lo len v : Nat} : (s.putField off lo len v).races = s.races := rfl
@[simp] theorem State.putField_journal {off lo len v : Nat} : (s.putField off lo len v).journal = s.journal := rfl

/-! ## setPort and setHearth -/

@[simp] theorem State.setPort_pending {p : Port} {x : PortState} : (s.setPort p x).pending = s.pending := by cases p <;> rfl
@[simp] theorem State.setPort_fresh {p : Port} {x : PortState} : (s.setPort p x).fresh = s.fresh := by cases p <;> rfl
@[simp] theorem State.setPort_out {p : Port} {x : PortState} : (s.setPort p x).out = s.out := by cases p <;> rfl
@[simp] theorem State.setPort_board {p : Port} {x : PortState} : (s.setPort p x).board = s.board := by cases p <;> rfl
@[simp] theorem State.setPort_sec {p : Port} {x : PortState} : (s.setPort p x).sec = s.sec := by cases p <;> rfl
@[simp] theorem State.setPort_sealCount {p : Port} {x : PortState} : (s.setPort p x).sealCount = s.sealCount := by cases p <;> rfl
@[simp] theorem State.setPort_jobs {p : Port} {x : PortState} : (s.setPort p x).jobs = s.jobs := by cases p <;> rfl
@[simp] theorem State.setPort_tiles {p : Port} {x : PortState} : (s.setPort p x).tiles = s.tiles := by cases p <;> rfl
@[simp] theorem State.setPort_store {p : Port} {x : PortState} : (s.setPort p x).store = s.store := by cases p <;> rfl
@[simp] theorem State.setPort_fab {p : Port} {x : PortState} : (s.setPort p x).fab = s.fab := by cases p <;> rfl
@[simp] theorem State.setPort_pair {p : Port} {x : PortState} : (s.setPort p x).pair = s.pair := by cases p <;> rfl
@[simp] theorem State.setPort_clk {p : Port} {x : PortState} : (s.setPort p x).clk = s.clk := by cases p <;> rfl
@[simp] theorem State.setPort_bar2 {p : Port} {x : PortState} : (s.setPort p x).bar2 = s.bar2 := by cases p <;> rfl
@[simp] theorem State.setPort_published {p : Port} {x : PortState} : (s.setPort p x).published = s.published := by cases p <;> rfl
@[simp] theorem State.setPort_races {p : Port} {x : PortState} : (s.setPort p x).races = s.races := by cases p <;> rfl
@[simp] theorem State.setPort_journal {p : Port} {x : PortState} : (s.setPort p x).journal = s.journal := by cases p <;> rfl
@[simp] theorem State.setHearth_pending {h : Nat} {x : Hearth} : (s.setHearth h x).pending = s.pending := by
  unfold State.setHearth; split <;> rfl
@[simp] theorem State.setHearth_fresh {h : Nat} {x : Hearth} : (s.setHearth h x).fresh = s.fresh := by
  unfold State.setHearth; split <;> rfl
@[simp] theorem State.setHearth_out {h : Nat} {x : Hearth} : (s.setHearth h x).out = s.out := by
  unfold State.setHearth; split <;> rfl
@[simp] theorem State.setHearth_board {h : Nat} {x : Hearth} : (s.setHearth h x).board = s.board := by
  unfold State.setHearth; split <;> rfl
@[simp] theorem State.setHearth_portA {h : Nat} {x : Hearth} : (s.setHearth h x).portA = s.portA := by
  unfold State.setHearth; split <;> rfl
@[simp] theorem State.setHearth_portB {h : Nat} {x : Hearth} : (s.setHearth h x).portB = s.portB := by
  unfold State.setHearth; split <;> rfl
@[simp] theorem State.setHearth_sealCount {h : Nat} {x : Hearth} : (s.setHearth h x).sealCount = s.sealCount := by
  unfold State.setHearth; split <;> rfl
@[simp] theorem State.setHearth_jobs {h : Nat} {x : Hearth} : (s.setHearth h x).jobs = s.jobs := by
  unfold State.setHearth; split <;> rfl
@[simp] theorem State.setHearth_tiles {h : Nat} {x : Hearth} : (s.setHearth h x).tiles = s.tiles := by
  unfold State.setHearth; split <;> rfl
@[simp] theorem State.setHearth_store {h : Nat} {x : Hearth} : (s.setHearth h x).store = s.store := by
  unfold State.setHearth; split <;> rfl
@[simp] theorem State.setHearth_fab {h : Nat} {x : Hearth} : (s.setHearth h x).fab = s.fab := by
  unfold State.setHearth; split <;> rfl
@[simp] theorem State.setHearth_pair {h : Nat} {x : Hearth} : (s.setHearth h x).pair = s.pair := by
  unfold State.setHearth; split <;> rfl
@[simp] theorem State.setHearth_clk {h : Nat} {x : Hearth} : (s.setHearth h x).clk = s.clk := by
  unfold State.setHearth; split <;> rfl
@[simp] theorem State.setHearth_bar2 {h : Nat} {x : Hearth} : (s.setHearth h x).bar2 = s.bar2 := by
  unfold State.setHearth; split <;> rfl
@[simp] theorem State.setHearth_published {h : Nat} {x : Hearth} : (s.setHearth h x).published = s.published := by
  unfold State.setHearth; split <;> rfl
@[simp] theorem State.setHearth_races {h : Nat} {x : Hearth} : (s.setHearth h x).races = s.races := by
  unfold State.setHearth; split <;> rfl
@[simp] theorem State.setHearth_journal {h : Nat} {x : Hearth} : (s.setHearth h x).journal = s.journal := by
  unfold State.setHearth; split <;> rfl

/-! ## Parts after updates -/

@[simp] theorem State.tile_setTile_same {t : Nat} {x : Tile} : (s.setTile t x).tile t = x := SMap.get_set_same
@[simp] theorem State.tile_setTile_other {t u : Nat} {x : Tile} (h : u ≠ t) : (s.setTile t x).tile u = s.tile u :=
  SMap.get_set_other h
@[simp] theorem State.tile_modTile_same {t : Nat} {f : Tile → Tile} : (s.modTile t f).tile t = f (s.tile t) := SMap.get_set_same
@[simp] theorem State.tile_modTile_other {t u : Nat} {f : Tile → Tile} (h : u ≠ t) : (s.modTile t f).tile u = s.tile u :=
  SMap.get_set_other h
@[simp] theorem State.job_setJob_same {j : Nat} {x : Job} : (s.setJob j x).job j = x := SMap.get_set_same
@[simp] theorem State.job_setJob_other {j i : Nat} {x : Job} (h : i ≠ j) : (s.setJob j x).job i = s.job i :=
  SMap.get_set_other h
@[simp] theorem State.job_modJob_same {j : Nat} {f : Job → Job} : (s.modJob j f).job j = f (s.job j) := SMap.get_set_same
@[simp] theorem State.job_modJob_other {j i : Nat} {f : Job → Job} (h : i ≠ j) : (s.modJob j f).job i = s.job i :=
  SMap.get_set_other h
@[simp] theorem State.portOf_setPort_same {p : Port} {x : PortState} : (s.setPort p x).portOf p = x := by cases p <;> rfl
@[simp] theorem State.portOf_setPort_other {p q : Port} {x : PortState} (h : q ≠ p) : (s.setPort p x).portOf q = s.portOf q := by
  cases p <;> cases q <;> first | rfl | exact absurd rfl h
@[simp] theorem State.slot_setSlot_same {p : Port} {n : Nat} {x : Slot} : (s.setSlot p n x).slot p n = x := by
  unfold State.setSlot State.modPort State.slot; rw [State.portOf_setPort_same]; exact SMap.get_set_same
@[simp] theorem State.slot_setSlot_otherPort {p q : Port} {n m : Nat} {x : Slot} (h : q ≠ p) :
    (s.setSlot p n x).slot q m = s.slot q m := by
  unfold State.setSlot State.modPort State.slot; rw [State.portOf_setPort_other h]
@[simp] theorem State.slot_setSlot_other {p : Port} {n m : Nat} {x : Slot} (h : m ≠ n) :
    (s.setSlot p n x).slot p m = s.slot p m := by
  unfold State.setSlot State.modPort State.slot; rw [State.portOf_setPort_same]; exact SMap.get_set_other h
@[simp] theorem State.bar2Word_setBar2_same {off : Nat} {v : BitVec 64} : (s.setBar2 off v).bar2Word off = v := SMap.get_set_same
@[simp] theorem State.bar2Word_setBar2_other {off o : Nat} {v : BitVec 64} (h : o ≠ off) :
    (s.setBar2 off v).bar2Word o = s.bar2Word o := SMap.get_set_other h

/-- Parts read through tables that an update leaves alone. -/
theorem State.tile_congr {s' : State} (h : s'.tiles = s.tiles) (t : Nat) : s'.tile t = s.tile t := by
  unfold State.tile; rw [h]
theorem State.job_congr {s' : State} (h : s'.jobs = s.jobs) (j : Nat) : s'.job j = s.job j := by
  unfold State.job; rw [h]

/-! ## A tile's parts -/

variable {x : Tile}

@[simp] theorem Tile.eng_setEng_same {e : Engine} {v : EngineState} : (x.setEng e v).eng e = v := SMap.get_set_same
theorem engId_inj {e f : Engine} (h : engId e = engId f) : e = f := by cases e <;> cases f <;> first | rfl | cases h
@[simp] theorem Tile.eng_setEng_other {e f : Engine} {v : EngineState} (h : f ≠ e) : (x.setEng e v).eng f = x.eng f :=
  SMap.get_set_other (fun he => h (engId_inj he))

end Sys2Proof.Machine
end

