-- ==== Sys2Proof/Laws/Shared.lean ====
section
/-! SUPPORT. Shared.lean: what the operations that many commands go through come to, one lemma for each way through: an
instance of a stream (`State.issue`), a hamper (`State.serve`), a packet of a peer (`State.receive`). -/

namespace Sys2Proof.Machine

open Sys2Proof Sys2Proof.Safety

variable {s : State}

/-! ## An instance of a stream (R210, R227, R228, R236) -/

/-- A tile that cannot take an instance is left as it is. -/
theorem State.issue_busy {t : Nat} {op : Op} {w : CmdWord} (h : (s.tile t).ready = false) : s.issue t op w = s := by
  simp [State.issue, h]

/-- An instance that passes every test is taken in. -/
theorem State.issue_goes_takeIn {t : Nat} {op : Op} {w : CmdWord} (h : Goes s t op w) :
    s.issue t op w = (due s t).takeIn t op w := by
  have hb : (((due s t).tile t).breaks w && !((due s t).tile t).skipBreak) = false := by
    cases ha : ((due s t).tile t).breaks w
    · rfl
    · simp [h.noBreak ha]
  simp only [State.issue, h.ready, Bool.not_true, Bool.false_eq_true, if_false]
  change (if (((due s t).tile t).breaks w && !((due s t).tile t).skipBreak) = true then _ else
    (match (due s t).wordCheck t op w with
      | some st => (due s t).haltAt t w st
      | none => (due s t).takeIn t op w)) = _
  rw [hb, h.checks]
  rfl

/-- What is taken in with its tag free and its predicate holding runs on the sequencer, or is dispatched to its engine. -/
theorem State.takeIn_goes {t : Nat} {op : Op} {w : CmdWord}
    (htag : w.tag ≠ 0#16 → ((s.tile t).tagAt w.tag).pending = false) (hp : (s.tile t).predicate w = true) :
    s.takeIn t op w = if op.engine = .sq then s.seqExec t op w else s.dispatch t op w := by
  have hf : (decide (w.tag ≠ 0#16) && ((s.tile t).tagAt w.tag).pending) = false := by
    by_cases h0 : w.tag = 0#16
    · simp [h0]
    · simp [htag h0]
  simp only [State.takeIn, hf, hp, Bool.not_true, Bool.false_eq_true, if_false]

/-- A command of the sequencer that goes is run at once. -/
theorem State.issue_goes_seq {t : Nat} {op : Op} {w : CmdWord} (h : Goes s t op w) (hq : op.engine = .sq) :
    s.issue t op w = (due s t).seqExec t op w := by
  rw [State.issue_goes_takeIn h, State.takeIn_goes h.tagFree h.predicate, if_pos hq]

/-- A command of an engine that goes is dispatched. -/
theorem State.issue_goes_engine {t : Nat} {op : Op} {w : CmdWord} (h : Goes s t op w) (hq : op.engine ≠ .sq) :
    s.issue t op w = (due s t).dispatch t op w := by
  rw [State.issue_goes_takeIn h, State.takeIn_goes h.tagFree h.predicate, if_neg hq]

/-- A word that fails a check halts its sequencer with the check's status. -/
theorem State.issue_checked {t : Nat} {op : Op} {w : CmdWord} {st : Status} (hr : (s.tile t).ready = true)
    (hb : ((due s t).tile t).breaks w = true → ((due s t).tile t).skipBreak = true)
    (hc : (due s t).wordCheck t op w = some st) : s.issue t op w = (due s t).haltAt t w st := by
  have hb' : (((due s t).tile t).breaks w && !((due s t).tile t).skipBreak) = false := by
    cases ha : ((due s t).tile t).breaks w
    · rfl
    · simp [hb ha]
  simp only [State.issue, hr, Bool.not_true, Bool.false_eq_true, if_false]
  change (if (((due s t).tile t).breaks w && !((due s t).tile t).skipBreak) = true then _ else
    (match (due s t).wordCheck t op w with
      | some st => (due s t).haltAt t w st
      | none => (due s t).takeIn t op w)) = _
  rw [hb', hc]
  rfl

/-! ## A hamper (R288, R292, R294, R295) -/

/-- A hamper that is not the next of its kind to be served, or that nobody serves, changes nothing. -/
theorem State.serve_idle {kind n : Nat} {p : Port} {act : Hamper → State → State}
    (h : s.sec.ready = false ∨ 2 ≤ s.clk.powerState ∨ s.nextSealed ≠ some (p, n) ∨ (s.hamperAt p n).kind ≠ kind) :
    s.serve kind p n act = s := by
  simp only [State.serve]
  rw [if_pos]
  rcases h with h | h | h | h <;> simp [h]

/-- The next hamper, refused: it is taken, and its refusal answered. -/
theorem State.serve_refused {kind n : Nat} {p : Port} {act : Hamper → State → State} (hr : s.sec.ready = true)
    (hp : s.clk.powerState < 2) (hn : s.nextSealed = some (p, n)) (hk : (s.hamperAt p n).kind = kind)
    {r : _} (hf : s.refusal (s.hamperAt p n) = some r) :
    s.serve kind p n act = (s.take (s.hamperAt p n)).refuse (s.hamperAt p n) r := by
  have : ¬ 2 ≤ s.clk.powerState := by omega
  simp [State.serve, hr, this, hn, hk, hf]

/-- The next hamper, accepted: it is taken, its sequence number and counter recorded, and its act done. -/
theorem State.serve_accepted {kind n : Nat} {p : Port} {act : Hamper → State → State} (hr : s.sec.ready = true)
    (hp : s.clk.powerState < 2) (hn : s.nextSealed = some (p, n)) (hk : (s.hamperAt p n).kind = kind)
    (hf : s.refusal (s.hamperAt p n) = none) :
    s.serve kind p n act =
      act (s.hamperAt p n) (((s.take (s.hamperAt p n)).advanceSeq (s.hamperAt p n)).recordCounter (s.hamperAt p n)) := by
  have : ¬ 2 ≤ s.clk.powerState := by omega
  simp [State.serve, hr, this, hn, hk, hf]

/-! ## A packet of a peer (R316, R334) -/

/-- A damaged packet, or one for another endpoint, is dropped. -/
theorem State.receive_bad {typ : Nat} {p : Packet} {f : Nat → State → State}
    (h : packetOk p = false ∨ s.fab.endpoint ≠ some p.dst.toNat) : s.receive typ p f = s.dropBad := by
  simp only [State.receive]
  rw [if_pos]
  rcases h with h | h <;> simp [h]

/-- A packet of no bound job is a stranger's. -/
theorem State.receive_stranger {p : Packet} {f : Nat → State → State} (hok : packetOk p = true)
    (he : s.fab.endpoint = some p.dst.toNat) (hj : s.jobOfTag p.jtag = none) :
    s.receive p.typ.toNat p f = s.stranger p := by
  simp [State.receive, hok, he, hj]

/-- A packet of a bound job is that job's. -/
theorem State.receive_job {p : Packet} {f : Nat → State → State} {j : Nat} (hok : packetOk p = true)
    (he : s.fab.endpoint = some p.dst.toNat) (hj : s.jobOfTag p.jtag = some j) :
    s.receive p.typ.toNat p f = f j s := by
  simp [State.receive, hok, he, hj]

/-! ## The journal, the measurement registers and a rotation -/

/-- Journaling changes the journal alone (R302). -/
theorem State.record_frame {x : JournalItem} : s.record x = { s with journal := (s.record x).journal } := rfl

/-- An extension changes one measurement register and the journal (R451). -/
theorem State.extendMr_frame {k : Nat} {d : List Byte} :
    s.extendMr k d = { s with
      sec := { s.sec with mr := s.sec.mr.set k (sha384 (s.sec.mr.getD k [] ++ d)) }
      journal := (s.extendMr k d).journal } := rfl

/-- A rotation changes no logical state of a tile: only the sites and spares, its count, and a draw (R398). -/
theorem State.rotateTile_frame {t : Nat} :
    s.rotateTile t = { s with
      clk := (s.rotateTile t).clk, bar2 := (s.rotateTile t).bar2, fresh := s.fresh + 1 } := by
  unfold State.rotateTile
  cases s.choice 0
  · simp only [Bool.false_eq_true, if_false, State.moveSite]
    split <;> rfl
  · rfl

end Sys2Proof.Machine
end

