-- ==== Sys2Proof/Tests/Slice0.lean ====
section
/-! SUPPORT. Slice0.lean: tests of the model and a witness for the hypotheses of each statement. -/
namespace Sys2Proof.Tests

open Sys2Proof Sys2Proof.Machine Sys2Proof.Safety

set_option Elab.async false

/-! ## Words of a stream, written out from Tables 8.1 to 8.3 -/

/-- A slot of zeros. -/
def zslot : OpSlot := ⟨0#4, 0#12, 0#32⟩
/-- A word of zeros, tag 1. -/
def zword : CmdWord := ⟨false, false, 0#3, 0#5, 0#8, zslot, zslot, zslot, zslot, 0#16, 1#16⟩
/-- A slot with an immediate. -/
def immSlot (v : Nat) : OpSlot := { zslot with off := BitVec.ofNat 32 v }
/-- A slot that names S register n (R180). -/
def scal (n : Nat) : OpSlot := ⟨0#4, 0xFFF#12, BitVec.ofNat 32 n⟩
/-- A slot that names descriptor n. -/
def dsc (n : Nat) : OpSlot := { zslot with didx := BitVec.ofNat 12 n }

/-- Opcode [255:246] 0x003, engine [245:242] 0, `IMM16` [31:16] 0x0074 (P0), slot 0 `OFF` [207:176] register 0x20, tag 9. -/
theorem test_word_mov :
    decodeWord (((0x003#10 ++ 0#4 ++ 0#10 ++ 0#8) ++ (0#16 ++ 0x20#32) ++ 0#144 ++ (0x0074#16 ++ 9#16) : BitVec 256)) =
      some (.mov, { zword with slot0 := immSlot 0x20, imm16 := 0x74#16, tag := 9#16 }) := by decide +kernel
/-- Opcode 0x040, engine 1, `FLAGS` [236:232] SAT and RDN, descriptors 1, 2 and 3 with A registers 4, 5 and 6. -/
theorem test_word_mm :
    decodeWord ((0x040#10 ++ 1#4 ++ 0#2 ++ 0#3 ++ 0x0B#5 ++ 0#8) ++ (4#4 ++ 1#12 ++ 0#32) ++ (5#4 ++ 2#12 ++ 0#32) ++
        (6#4 ++ 3#12 ++ 0x10#32) ++ 0#48 ++ (0#16 ++ 1#16) : BitVec 256) =
      some (.mm, ⟨false, false, 0#3, 0x0B#5, 0#8, ⟨4#4, 1#12, 0#32⟩, ⟨5#4, 2#12, 0#32⟩, ⟨6#4, 3#12, 16#32⟩, zslot, 0#16, 1#16⟩) := by
  decide +kernel
/-- Opcode 0x060, engine 2. -/
theorem test_word_dmm : decodeWord ((0x060#10 ++ 2#4 ++ 0#18) ++ 0#192 ++ (1#16 ++ 1#16) : BitVec 256) =
    some (.dmm, { zword with imm16 := 1#16 }) := by decide +kernel
/-- Opcode 0x080, engine 5, forwarding. -/
theorem test_word_ds : decodeWord ((0x080#10 ++ 5#4 ++ 0#2 ++ 0#3 ++ 0x10#5 ++ 0#8) ++ 0#192 ++ (0#16 ++ 1#16) : BitVec 256) =
    some (.dsDiv, { zword with flags := 0x10#5 }) := by decide +kernel
/-- Opcode 0x0A1, engine 6, deadline register 3. -/
theorem test_word_se : decodeWord ((0x0A1#10 ++ 6#4 ++ 0#2 ++ 0#3 ++ 0#5 ++ 3#8) ++ 0#192 ++ (0#16 ++ 1#16) : BitVec 256) =
    some (.seSolve, { zword with dsel := 3#8 }) := by decide +kernel
/-- Opcode 0x145, engine 4. -/
theorem test_word_ru : decodeWord ((0x145#10 ++ 4#4 ++ 0#18) ++ 0#192 ++ (4#16 ++ 1#16) : BitVec 256) =
    some (.ruAmax, { zword with imm16 := 4#16 }) := by decide +kernel
/-- Opcode 0x180, engine 7. -/
theorem test_word_ue : decodeWord ((0x180#10 ++ 7#4 ++ 0#18) ++ 0#192 ++ (0#16 ++ 1#16) : BitVec 256) =
    some (.ueRun, zword) := by decide +kernel
/-- Opcode 0x1E1, engine 8, slot 3 immediate. -/
theorem test_word_coll : decodeWord ((0x1E1#10 ++ 8#4 ++ 0#18) ++ 0#144 ++ (0#16 ++ 5#32) ++ (0x20#16 ++ 1#16) : BitVec 256) =
    some (.sumAll, { zword with slot3 := immSlot 5, imm16 := 0x20#16 }) := by decide +kernel

/-! ## Literal words of Tables 8.1 to 8.3 -/

theorem test_literal_seti : decodeWord 0x008000000000000000010000FFFFFFFF00000000000000000000000000050007#256 =
    some (.seti, ⟨false, false, 0#3, 0#5, 0#8, ⟨0#4, 0#12, 1#32⟩, ⟨0#4, 0#12, 0xFFFFFFFF#32⟩, zslot, zslot, 5#16, 7#16⟩) := by
  decide +kernel
theorem test_literal_add : decodeWord 0x400E2B002123000000400FFF0000000300000000000004560000000030018001#256 =
    some (.veAdd, ⟨true, false, 1#3, 0x0B#5, 0#8, ⟨2#4, 0x123#12, 0x40#32⟩, scal 3, zslot, dsc 0x456, 0x3001#16, 0x8001#16⟩) := by
  decide +kernel
theorem test_literal_cas : decodeWord 0x70A01000000000000E091000000000080FFF000000040FFF0000000500060002#256 =
    some (.fbAtomicCas, ⟨false, false, 0#3, 0x10#5, 0#8, immSlot 0xE09, ⟨1#4, 0#12, 8#32⟩, scal 4, scal 5, 6#16, 2#16⟩) := by
  decide +kernel
/-- A reserved bit of the opcode's field, an unassigned opcode, and an engine that is not the opcode's. -/
theorem test_literal_refused : decodeWord 0x4010000000000000000000000000000000000000000000000000000000000000#256 = none ∧
    decodeWord 0x0480000000000000000000000000000000000000000000000000000000000000#256 = none ∧
    decodeWord 0x1024000000000000000000000000000000000000000000000000000000000000#256 = none := by decide +kernel

/-! ## Ill-formed commands: one for each check -/

theorem test_wf_tile : Instr.wf (.nop 256 zword) = false := by decide +kernel
theorem test_wf_word : Instr.wf (.nop 0 { zword with imm16 := 1#16 }) = false ∧ Instr.wf (.nop 0 zword) = true := by
  decide +kernel
theorem test_wf_slot_reserved : wordLegal .nop { zword with slot2 := immSlot 1 } = false := by decide +kernel
theorem test_wf_slot_address : wordLegal .lds { zword with slot0 := dsc 1 } = false := by decide +kernel
theorem test_wf_slot_imm : wordLegal .mov { zword with slot0 := immSlot 0x100 } = false := by decide +kernel
theorem test_wf_slot_scalar : wordLegal .veAdd { zword with slot0 := scal 32 } = false ∧
    wordLegal .veAdd { zword with slot0 := scal 31 } = true := by decide +kernel
theorem test_wf_mode : wordLegal .mm { zword with flags := 5#5 } = false := by decide +kernel
theorem test_wf_flags : wordLegal .nop { zword with flags := 1#5 } = false := by decide +kernel
theorem test_wf_pen : wordLegal .loop { zword with pen := true } = false := by decide +kernel
theorem test_wf_dsel : wordLegal .mm { zword with dsel := 1#8 } = false ∧ wordLegal .seSolve { zword with dsel := 15#8 } = true ∧
    wordLegal .seSolve { zword with dsel := 16#8 } = false := by decide +kernel
theorem test_wf_register : wordLegal .seti { zword with imm16 := 0x90#16 } = false ∧
    wordLegal .mov { zword with slot0 := immSlot 0xA5 } = false ∧ wordLegal .mov { zword with slot0 := immSlot 0xA4 } = true := by
  decide +kernel
theorem test_wf_alu_code : wordLegal .aluAdd { zword with imm16 := 0x100#16 } = false := by decide +kernel
theorem test_wf_relation : wordLegal .cmp { zword with imm16 := 0x30#16 } = false := by decide +kernel
theorem test_wf_pstat : wordLegal .pstat zword = false := by decide +kernel
theorem test_wf_wait : wordLegal .wait zword = false := by decide +kernel
theorem test_wf_cascade : wordLegal .mmCasc { zword with imm16 := 6#16 } = false := by decide +kernel
theorem test_wf_named : wordLegal .veCmp { zword with slot3 := ⟨0#4, 0xFFF#12, 0#32⟩ } = false := by decide +kernel
theorem test_wf_atomic : wordLegal .fbAtomicAdd { zword with slot0 := immSlot 1 } = false := by decide +kernel
theorem test_wf_slot : Instr.wf (.echo .a 64) = false := by decide +kernel
theorem test_wf_job : Instr.wf (.stepBoundary 16) = false := by decide +kernel
theorem test_wf_seal : Instr.wf (.sealWrite .a 0 [] [] ⟨0#64, none⟩) = false ∧
    Instr.wf (.sealWrite .a 0 (zeros 64) (zeros 1985) ⟨0#64, none⟩) = false := by decide +kernel
theorem test_wf_window : Instr.wf (.bar4Read .a 4095 2 none) = false ∧ Instr.wf (.bar4Read .a 4095 1 none) = true := by
  decide +kernel
theorem test_wf_lane : Instr.wf (.laneDown true 32) = false ∧ Instr.wf (.laneDown false 127) = true := by decide +kernel
theorem test_wf_island : Instr.wf (.landingTimeout (.pantry 16)) = false := by decide +kernel
theorem test_wf_key : Instr.wf (.ideKm .a (.keyProg 0 [])) = false := by decide +kernel
theorem test_wf_temps : Instr.wf (.tempSample []) = false := by decide +kernel
theorem test_wf_boot : Instr.wf (.bootReady [0] []) = false := by decide +kernel
theorem test_wf_packet : Instr.wf (.load ⟨0x10#8, 1#8, 0#16, 0#16, 0#8, 0#8, 0#32, 0#32, 0#32, 0#16, 1#16, 0#48, 0#8, 1#8, [], 0#32⟩) = false := by
  decide +kernel

/-! ## A small state -/

/-- A tile that runs a stream. -/
def tile0 : Tile :=
  { avail := true, owner := some 0, loaded := true, started := true, mode := .running, pc := 0x100, ordinal := 7
    seqRegs := [(1, 10#64), (2, 0xFFFFFFFFFFFFFFFD#64), (0x21, 0x200000#64), (0x30, 8#64), (0x70, 2#64)]
    streamItem := some ⟨.a, 9, 0⟩ }
/-- A job with that tile; page 1 is a frame of the cellar, page 2 the first half of the tile's store. -/
def job0 : Job :=
  { phase := 1, tiles := [0], step := 3#64
    pages := [(1, ⟨true, 5, true, true, false, false⟩), (2, ⟨true, 0x60000, true, true, false, false⟩), (3, ⟨false, 0, true, true, false, true⟩)]
    pool := [6] }
/-- A package in service with that job on that tile. -/
def base : State :=
  { State.reset with
    sec := { State.reset.sec with ready := true, settled := true, standbyOk := true }
    jobs := [(0, job0)], tiles := [(0, tile0)], clk := { timebase := 100#64 }, fab := { endpoint := some 5, paths := 1, flowSlots := 4 } }
/-- That package with another tile 0. -/
def withT (x : Tile) : State := { base with tiles := [(0, x)] }
/-- That package with another job 0. -/
def withJ (x : Job) : State := { base with jobs := [(0, x)] }
/-- That package with the running command of an engine of tile 0. -/
def withRun (e : Engine) (r : Running) : State := withT { tile0 with engines := [(engId e, { running := some r })] }

/-- The conditions of an instance that goes ahead, as a test. -/
def goesB (s : State) (t : Nat) (op : Op) (w : CmdWord) : Bool :=
  (s.tile t).ready && (!((due s t).tile t).breaks w || ((due s t).tile t).skipBreak) && (due s t).wordCheck t op w == none &&
    (w.tag == 0#16 || !(((due s t).tile t).tagAt w.tag).pending) && ((due s t).tile t).predicate w

theorem goes_of {s : State} {t : Nat} {op : Op} {w : CmdWord} (h : goesB s t op w = true) : Goes s t op w := by
  simp only [goesB, Bool.and_eq_true, Bool.or_eq_true, Bool.not_eq_true', beq_iff_eq] at h
  obtain ⟨⟨⟨⟨h1, h2⟩, h3⟩, h4⟩, h5⟩ := h
  exact ⟨h1, fun hb => h2.resolve_left (by simp [hb]), h3, fun ht => h4.resolve_left ht, h5⟩

/-- A property of every tile, by those listed and the empty one. -/
theorem tiles_of {s : State} {P : Tile → Prop} (h0 : P {}) (h1 : ∀ x ∈ s.tiles, P x.2) (t : Nat) : P (s.tile t) := by
  unfold State.tile
  generalize s.tiles = m at h1
  induction m with
  | nil => exact h0
  | cons a m ih =>
    unfold SMap.get
    split
    · exact h1 _ (by simp)
    · exact ih (fun x hx => h1 x (by simp [hx]))

/-- A property of every job context, by those listed and the empty one. -/
theorem jobs_of {s : State} {P : Job → Prop} (h0 : P {}) (h1 : ∀ x ∈ s.jobs, P x.2) (j : Nat) : P (s.job j) := by
  unfold State.job
  generalize s.jobs = m at h1
  induction m with
  | nil => exact h0
  | cons a m ih =>
    unfold SMap.get
    split
    · exact h1 _ (by simp)
    · exact ih (fun x hx => h1 x (by simp [hx]))

/-! ## Commands of the sequencer -/

/-- A legal word of every command of the sequencer. -/
def wordOf (op : Op) : CmdWord :=
  match op with
  | .seti => { zword with imm16 := 5#16, slot0 := immSlot 1 }
  | .mov => { zword with imm16 := 3#16, slot0 := immSlot 1 }
  | .cmp => { zword with slot0 := immSlot 1, slot1 := immSlot 2 }
  | .pstat => { zword with slot0 := immSlot 2 }
  | .wait => { zword with imm16 := 2#16 }
  | .lds | .sts => { zword with imm16 := 4#16, slot0 := ⟨1#4, 0#12, 16#32⟩ }
  | .xct => { zword with slot0 := immSlot 0x40 }
  | .cfgr => { zword with slot0 := immSlot 0x120 }
  | .cfgw => { zword with slot0 := immSlot 0x0B0 }
  | .stepEnd => { zword with imm16 := 0x25#16 }
  | .stepGet => { zword with imm16 := 6#16 }
  | op =>
    match op.aluCode with
    | some c => { zword with imm16 := BitVec.ofNat 16 (256 * c + 3), slot0 := immSlot 1, slot1 := immSlot 2 }
    | none => zword

theorem wit_sequencer_goes : ∀ op ∈ [Op.nop, .endStream, .seti, .mov, .aluAdd, .aluSub, .aluMul, .aluAnd, .aluOr, .aluXor, .aluShl,
    .aluShr, .aluSar, .aluMin, .aluMax, .aluMinu, .aluMaxu, .cmp, .wait, .lds, .sts, .cfgr, .cfgw, .xct, .loop, .stepEnd, .stepGet],
    goesB base 0 op (wordOf op) = true := by decide +kernel

theorem wit_StepRunsFront : { base with pending := [.echo .a 0, .thermtrip] }.pending = .echo .a 0 :: [.thermtrip] := rfl
theorem wit_IdleStep_fetch : base.pending = [] ∧ base.fetchTile = some 0 ∧
    decodeWord (base.fetchWord 0 (base.tile 0).nextAddr) = some (.nop, { zword with tag := 0#16 }) := by decide +kernel
theorem wit_IdleStep_tick : (withT {}).pending = [] ∧ (∀ x ∈ (withT {}).tiles, x.2.ready = false) ∧ (withT {}).clk.slew = 0 := by
  decide +kernel
theorem wit_SequencerWrites_cmp : goesB base 0 .cmp (wordOf .cmp) = true ∧ (wordOf .cmp).imm 8 1 = 0 := by decide +kernel
/-- Signed: 10 is not below -3; unsigned: it is. -/
theorem test_cmp : (base.issue 0 .cmp { wordOf .cmp with imm16 := 0x10#16 } |>.readSeq 0 0x74) = 0#64 ∧
    (base.issue 0 .cmp { wordOf .cmp with imm16 := 0x50#16 } |>.readSeq 0 0x74) = 1#64 := by decide +kernel
/-- 10 + (-3) into S3; 10 times 10 into S3. -/
theorem test_alu : (base.issue 0 .aluAdd (wordOf .aluAdd) |>.readSeq 0 3) = 7#64 ∧
    (base.issue 0 .aluMul { wordOf .aluMul with slot1 := immSlot 1 } |>.readSeq 0 3) = 100#64 := by decide +kernel
/-- An arithmetic shift of -3 by 10; by 74 it is the same. -/
theorem test_sar : (base.issue 0 .aluSar { wordOf .aluSar with slot0 := immSlot 2, imm16 := 0x1803#16, slot1 := immSlot 74 }
    |>.readSeq 0 3) = 0xFFFFFFFFFFFFFFFF#64 := by decide +kernel
theorem wit_SequencerFlow_wait_busy :
    let s := withRun .me ⟨⟨.mm, zword, .none, .none, .none, .none, none, [], 0#64, 0, 0, 0#64, 0#64, 0, 0#64, (0, 0), [], []⟩, .ready okResult, 0, 0, 0, false, []⟩
    goesB s 0 .wait (wordOf .wait) = true ∧ (∃ e, (wordOf .wait).imm (engId e) 1 = 1 ∧ e ≠ .sq ∧ ((due s 0).tile 0).busy e = true) := by
  refine ⟨by decide +kernel, .me, by decide +kernel⟩
theorem wit_SequencerFlow_wait_idle : ∀ e : Engine, (wordOf .wait).imm (engId e) 1 = 1 → e ≠ .sq → ((due base 0).tile 0).busy e = false := by
  intro e; cases e <;> decide +kernel
theorem wit_SequencerFlow_xct : (due base 0).seqAddr 0 (wordOf .xct) % 32 = 0 ∧ (due base 0).seqAddr 0 (wordOf .xct) < 0x400000 := by
  decide +kernel
theorem wit_SequencerFlow_loop : (((due base 0).tile 0).sreg (0x70 + ((due base 0).tile 0).loops.length)).toNat ≠ 0 := by decide +kernel
/-- A loop of no pass, with its `ENDLOOP` (opcode 0x011, at bit 246 of a word) two words on, at 0x140. -/
def skipped : State := { withT { tile0 with seqRegs := [] } with
  store := { mem := [(0xC000000140 + 30, 0x40#8), (0xC000000140 + 31, 0x04#8)] } }
theorem wit_SequencerFlow_skip : goesB skipped 0 .loop zword = true ∧
    (((due skipped 0).tile 0).sreg 0x70).toNat = 0 ∧ (due skipped 0).loopEnd 0 131072 0 (0x100 + 32) = some 0x160 := by decide +kernel
def looping (iter : Nat) : State := withT { tile0 with loops := [⟨2, iter, [], 0x80⟩] }
theorem wit_SequencerFlow_endloop : goesB (looping 0) 0 .endloop zword = true ∧ 0 + 1 < 2 ∧
    ((due (looping 0) 0).tile 0).loops = [⟨2, 0, [], 0x80⟩] := by decide +kernel
theorem wit_SequencerFlow_leave : goesB (looping 1) 0 .endloop zword = true ∧ 2 ≤ 1 + 1 ∧
    ((due (looping 1) 0).tile 0).loops = [⟨2, 1, [], 0x80⟩] := by decide +kernel
/-- The second pass adds the stride of A0 at level 0 (8). -/
theorem test_endloop : ((looping 0).issue 0 .endloop zword |>.readSeq 0 0x20) = 8#64 ∧
    ((looping 0).issue 0 .endloop zword |>.tile 0).pc = 0x80 := by decide +kernel
def tagState (p : Bool) : State := withT { tile0 with tags := [(2, ⟨2#16, p, .done, 0#16⟩)] }
theorem wit_SequencerFlow_pstat : goesB (tagState false) 0 .pstat (wordOf .pstat) = true ∧
    (((due (tagState false) 0).tile 0).tagAt 2#16).pending = false ∧ zword.tag.toNat % 64 ≠ 2 % 64 := by decide +kernel
theorem wit_SequencerFlow_pstat_pending : goesB (tagState true) 0 .pstat (wordOf .pstat) = true ∧
    (((due (tagState true) 0).tile 0).tagAt 2#16).pending = true := by decide +kernel

theorem wit_alone : Alone base := ⟨rfl, rfl⟩
theorem wit_TileMemory_lds : (due base 0).seqAddr 0 (wordOf .lds) % 8 = 0 ∧
    base.translate (base.tile 0).jobOf ((due base 0).seqAddr 0 (wordOf .lds)) false = .ok 0xA00010 false ∧ base.store.lost = none ∧
    base.store.poisonedAt false (0xA00010 / 4096) = false := by decide +kernel
theorem wit_TileMemory_sts : (due base 0).seqAddr 0 (wordOf .sts) % 8 = 0 ∧
    base.translate (base.tile 0).jobOf ((due base 0).seqAddr 0 (wordOf .sts)) true = .ok 0xA00010 false ∧ base.store.lost = none ∧
    base.store.poisonedAt false (0xA00010 / 4096) = false ∧ base.store.captures = [] ∧ base.store.guardFull = false := by decide +kernel
/-- S4 to the address that A1 and `OFF` give, the lowest byte lowest. -/
theorem test_sts :
    let s := (withT { tile0 with seqRegs := [(4, 0x0102030405060708#64), (0x21, 0x200000#64)] }).issue 0 .sts (wordOf .sts)
    s.store.rawByte 0xA00010 = 8#8 ∧ s.store.rawByte 0xA00017 = 1#8 ∧ s.store.rawByte 0xA00018 = 0#8 := by decide +kernel

theorem wit_StreamEnds_end : Safety.Drained base 0 := ⟨by decide +kernel, by decide +kernel, by decide +kernel⟩
/-- A running command that stands ready. -/
def ready (op : Op) (r : CmdResult) : Running :=
  ⟨⟨op, zword, .none, .none, .none, .none, none, [], 0#64, 7, 0x100, 3#64, 100#64, 0, 0#64, (0, 0), [], []⟩, .ready r, 0, 0, 0, false, []⟩
theorem wit_StreamEnds_busy : goesB (withRun .ve (ready .veAdd okResult)) 0 .endStream zword = true ∧
    ((withRun .ve (ready .veAdd okResult)).tile 0).enginesIdle = false := by decide +kernel
theorem wit_StreamEnds_step : (base.job (base.tile 0).jobOf).step ≠ BitVec.allOnes 64 := by decide +kernel
def lastStep : State := withJ { job0 with step := BitVec.allOnes 64 }
theorem wit_StreamEnds_overflow : goesB lastStep 0 .stepEnd (wordOf .stepEnd) = true ∧
    (lastStep.job (lastStep.tile 0).jobOf).step = BitVec.allOnes 64 ∧ (lastStep.tile 0).enginesIdle = true := by decide +kernel
/-- A tile whose `STEP_END` drains, or has arrived. -/
def stepping (k : SeqWait) : State := withT { tile0 with wait := k, held := some (.stepEnd 0 (wordOf .stepEnd)) }
theorem wit_StreamEnds_arrive : ((stepping .stepDrain).tile 0).wait = .stepDrain ∧
    ((stepping .stepDrain).tile 0).held = some (.stepEnd 0 (wordOf .stepEnd)) ∧ Safety.Drained (stepping .stepDrain) 0 ∧
    (∀ q ∈ ((stepping .stepDrain).job 0).tiles, q = 0 ∨ ((stepping .stepDrain).tile q).wait = .arrived) :=
  ⟨rfl, rfl, ⟨by decide +kernel, by decide +kernel, by decide +kernel⟩, by decide +kernel⟩

/-- All tiles of the job have arrived, with a stop for the boundary or none. -/
def arrived (stop : BitVec 64) : State :=
  { stepping .arrived with jobs := [(0, { job0 with phase := 2, stopAt := stop, stopItem := some ⟨.a, 8, 0⟩ })] }
theorem wit_StepAdvances : (arrived 9#64).allArrived 0 = true ∧ ((arrived 9#64).job 0).phase = 2 ∧
    ((arrived 9#64).job 0).stopAt ≠ ((arrived 9#64).job 0).step + 1#64 ∧ ((arrived 9#64).job 0).mirror.sending = false := by
  decide +kernel
/-- The delta of boundary 3 is still on its way. -/
def behind : State :=
  { arrived 9#64 with jobs := [(0, { job0 with phase := 2, mirror := { state := 1, delta := some ⟨3#64, [0x20], [0x20], false⟩ } })] }
theorem wit_StepAdvances_waits : behind.allArrived 0 = true ∧ (behind.job 0).phase = 2 ∧ (behind.job 0).mirror.sending = true ∧
    (behind.job 0).mirror.delta.isSome = true := by decide +kernel
/-- The last boundary of a job with no stop armed: `STOP_AT` of all ones arms none (R46). -/
theorem wit_StepAdvances_last :
    let s : State := { arrived 9#64 with jobs := [(0, { job0 with phase := 2, step := 0xFFFFFFFFFFFFFFFE#64 })] }
    s.allArrived 0 = true ∧ (s.job 0).step + 1#64 = BitVec.allOnes 64 ∧ (s.job 0).stopAt = BitVec.allOnes 64 := by decide +kernel
theorem wit_StepAdvances_plain : Safety.PlainBoundary (arrived 9#64) 0 := ⟨rfl, rfl, rfl, rfl⟩
theorem wit_StepAdvances_stop : (arrived 4#64).allArrived 0 = true ∧ Safety.PlainBoundary (arrived 4#64) 0 ∧
    ((arrived 4#64).job 0).stopAt = ((arrived 4#64).job 0).step + 1#64 ∧
    ((arrived 4#64).job 0).step + 1#64 ≠ BitVec.allOnes 64 := ⟨by decide +kernel, ⟨rfl, rfl, rfl, rfl⟩, by decide +kernel⟩
/-- The boundary takes step 3 to 4 and releases the tile. -/
theorem test_boundary : (match execStepBoundary 0 (arrived 9#64) with
    | .next u => decide ((u.job 0).step = 4#64) && decide ((u.tile 0).wait = .none) && decide ((u.tile 0).sreg 5 = 4#64)
    | _ => false) = true := by decide +kernel

/-! ## Engine commands -/

/-- The tile with a table of 16 descriptors at 0x1000. -/
def tileD : Tile := (tile0.setReg .sq 0x98 0x1000#64).setReg .sq 0xA0 16#64
/-- Descriptor 1: one FP64 element at 0x200040; descriptor 2: 16 of them there (Table 8.4). -/
def descMem : List Host.Cell :=
  [(0xC000001040, 0x40#8), (0xC000001042, 0x20#8), (0xC000001048, 1#8),
   (0xC000001080, 0x40#8), (0xC000001082, 0x20#8), (0xC000001088, 16#8)]
def withD (x : Tile) : State := { withT x with store := { mem := descMem } }
def desc1 : Desc := ⟨0x200040, 0, 0, 0, 0, 0, [1], [], 0, 0, 0, 0⟩
theorem test_descriptor : (withD tileD).descAt 0 1 = some desc1 ∧ (withD tileD).descAt 0 16 = none := by decide +kernel

/-- Dispatch goes as far as a command. -/
def dispatchesB (s : State) (t : Nat) (op : Op) (w : CmdWord) : Bool :=
  match (due s t).mkCmd t ((due s t).tile t).jobOf op w with
  | some c => (due s t).cmdCheck t ((due s t).tile t).jobOf c == none
  | none => false
theorem dispatches_of {s : State} {t : Nat} {op : Op} {w : CmdWord} (h : dispatchesB s t op w = true) : ∃ c, Dispatches s t op w c := by
  unfold dispatchesB at h
  split at h
  · exact ⟨_, by assumption, by simpa using h⟩
  · cases h

/-- Words of engine commands whose operands are registers, addresses and the descriptors of the table. -/
def engWord (op : Op) : CmdWord :=
  match op with
  | .veAdd | .veSub | .veMul | .veMax | .veMin => { zword with slot0 := scal 1, slot1 := scal 2, slot3 := dsc 1 }
  | .veFma => { zword with slot0 := scal 1, slot1 := scal 2, slot2 := scal 1, slot3 := dsc 1 }
  | .veAbs | .veCvt => { zword with slot0 := scal 1, slot3 := dsc 1 }
  | .dsSqrt => { zword with slot0 := dsc 2, slot2 := dsc 2 }
  | .ruSum => { zword with slot0 := dsc 2, slot3 := dsc 1 }
  | .tmFill => { zword with slot0 := scal 1, slot2 := dsc 2 }
  | .tmPrefetch => { zword with slot0 := dsc 2 }
  | .fbWait | .fbCtrset => { zword with imm16 := 1#16, slot3 := immSlot 3 }
  | .fbAtomicAdd => { zword with slot0 := immSlot 0x0D00, slot1 := ⟨1#4, 0#12, 8#32⟩, slot2 := immSlot 9 }
  | _ => zword
theorem wit_EngineDispatch : ∀ op ∈ [Op.mmJoin, .dmmJoin, .dsSqrt, .seJoin, .veAdd, .veSub, .veMul, .veFma, .veMax, .veMin, .veAbs, .veCvt,
    .ruSum, .ueRun, .tmFill, .tmPrefetch, .fbWait, .fbCtrset, .fbAtomicAdd, .fbFence, .collWait],
    op.engine ≠ .sq ∧ goesB (withD tileD) 0 op (engWord op) = true ∧ dispatchesB (withD tileD) 0 op (engWord op) = true ∧
      ((withD tileD).tile 0).unitFree op.engine = true ∧ (((withD tileD).tile 0).eng op.engine).pending = none := by
  decide +kernel
/-- Tile 0 with a running and a pending command of the vector engine. -/
def busyVe (p : Bool) : State := withD { tileD with
  engines := [(3, { running := some (ready .veAdd okResult), pending := if p then some (ready .veAdd okResult).cmd else none })] }
theorem wit_EngineDispatch_pending : goesB (busyVe false) 0 .veAdd (engWord .veAdd) = true ∧
    dispatchesB (busyVe false) 0 .veAdd (engWord .veAdd) = true ∧ ((due (busyVe false) 0).tile 0).unitFree .ve = false ∧
    (((due (busyVe false) 0).tile 0).eng .ve).pending = none := by decide +kernel
theorem wit_EngineDispatch_held : goesB (busyVe true) 0 .veAdd (engWord .veAdd) = true ∧
    (((due (busyVe true) 0).tile 0).eng .ve).pending.isSome = true := by decide +kernel

theorem wit_CommandRetires :
    let s := withRun .ve (ready .veAdd okResult)
    s.runningOf 0 .ve = some (ready .veAdd okResult) ∧ (ready .veAdd okResult).cmd.op.engine = .ve ∧ okResult.regs = [] ∧
      okResult.sres = [] ∧ okResult.outcome ≠ .failed ∧ (s.tile 0).wait = .none ∧ (s.tile 0).haltPending = none ∧
      (s.tile 0).shadow = [] ∧ (s.job (s.tile 0).jobOf).unmapItems = [] ∧ s.cascadeOf 0 .ve = none := by decide +kernel
/-- A failure of class 6 halts. -/
def failing : State := withRun .ve (ready .veAdd (failResult stTranslation 0))
theorem wit_FailureHalts : failing.runningOf 0 .ve = some (ready .veAdd (failResult stTranslation 0)) ∧
    ((failing.tile 0).eng .ve).pending = none ∧ (failResult stTranslation 0).outcome = .failed ∧
    haltsOn (failResult stTranslation 0).status = true ∧ (failResult stTranslation 0).status ≠ stBreakHit ∧
    (failing.tile 0).engines = SMap.set {} [] (engId .ve) ((failing.tile 0).eng .ve) ∧ (failing.tile 0).mode = .running ∧
    (failing.tile 0).haltPending = none ∧ (failing.tile 0).seqBusy = false ∧ failing.cascadeOf 0 .ve = none := by decide +kernel
theorem wit_FailureHalts_others : ∀ f : Engine, f ≠ .ve → (failing.tile 0).eng f = {} := by intro f; cases f <;> decide +kernel

theorem wit_ConfigCommands : cfgTarget (wordOf .cfgr) = (some .me, 0x20) ∧ cfgTarget (wordOf .cfgw) = (some .sq, 0xB0) ∧
    ((base.tile 0).eng .sq).pending = none ∧
    ((due base 0).writeReg 0 .sq 0xB0 (((due base 0).tile 0).sreg ((wordOf .cfgw).imm 0 5))).1 = stOK := by decide +kernel
theorem wit_ConfigCommands_held : goesB (busyVe true) 0 .cfgw { zword with slot0 := immSlot 0x300 } = true ∧
    (((busyVe true).tile 0).eng .ve).pending.isSome = true ∧ cfgTarget { zword with slot0 := immSlot 0x300 } = (some .ve, 0) := by
  decide +kernel

theorem wit_RegisterWrites : base.pageHere 0 .sq = true ∧ base.pageHere 0 .tm = true ∧ (base.tile 0).staged = [] ∧
    (base.tile 0).mode = .running ∧ (base.tile 0).shadow = [] ∧ (base.tile 0).started = true ∧ (base.tile 0).ended = false ∧
    ((withT { tile0 with mode := .idle }).tile 0).mode ≠ .running ∧ regNamed .me 0xE8 = false := by decide +kernel
/-- Region 0 of a pantry is the job's. -/
def pantryOwned : State := { base with store := { panRegs := [(0, 0xD0000#24)] } }
theorem wit_RegisterWrites_pantry : base.pantryBusy 0 = false ∧ base.store.panStaged = [] ∧ pantryOwned.pantryBusy 0 = true := by
  decide +kernel
theorem wit_RegisterWrites_bar : 10 ≤ (0x1200#64).toNat / 256 % 64 ∧ (0x1200#64).toNat / 256 % 64 ≤ 18 ∧
    10 ≤ (0x0A00#64).toNat / 256 % 64 ∧ (0x0900#64).toNat / 256 % 64 < 10 ∧ 18 < (0x1300#64).toNat / 256 % 64 := by decide
/-- `OF` and `NX` of `ENG_FLAGS` cleared by ones, `UF` and `LAST` kept. -/
theorem test_engFlags :
    (match execEngFlagsWrite 0 .ve 5#64 false (withT (tile0.setReg .ve 0 0x307#64)) with
     | .next u => decide (u.readReg 0 .ve 0 = 0x302#64)
     | _ => false) = true := by decide +kernel

theorem wit_EngineEvents_start :
    let s := withT { tile0 with engines := [(3, { pending := some (ready .veAdd okResult).cmd })] }
    (s.tile 0).unitFree .ve = true ∧ ((s.tile 0).eng .ve).pending = some (ready .veAdd okResult).cmd ∧
      (∀ x ∈ (s.tile 0).regWrites, x.eng ≠ .ve) ∧ (s.tile 0).wait ≠ .dispatch := by decide +kernel
theorem wit_EngineEvents_resume : ((withT { tile0 with wait := .dispatch, held := some (.nop 0 zword) }).tile 0).wait = .dispatch ∧
    ((withT { tile0 with wait := .dispatch, held := some (.nop 0 zword) }).tile 0).held = some (streamInstr .nop 0 zword) := ⟨rfl, rfl⟩
theorem wit_EngineEvents_running : failing.runningOf 0 .ve = some (ready .veAdd (failResult stTranslation 0)) := by decide +kernel

/-- A descriptor that is bad, and an atomic whose address is misaligned. -/
theorem wit_WordsHalt_operands : goesB base 0 .veAdd (engWord .veAdd) = true ∧ ((base.tile 0).eng .ve).pending = none ∧
    (base.tile 0).enginesIdle = true ∧ (due base 0).mkCmd 0 ((due base 0).tile 0).jobOf .veAdd (engWord .veAdd) = none := by
  decide +kernel
def misaligned : CmdWord := { engWord .fbAtomicAdd with slot1 := ⟨1#4, 0#12, 2#32⟩ }
theorem wit_WordsHalt_check : goesB base 0 .fbAtomicAdd misaligned = true ∧
    ((due base 0).mkCmd 0 ((due base 0).tile 0).jobOf .fbAtomicAdd misaligned).bind
      (fun c => (due base 0).cmdCheck 0 ((due base 0).tile 0).jobOf c) = some stAlignment := by decide +kernel
/-- An unassigned opcode, 0x012, at the next address. -/
def badWord : State := { base with store := { mem := [(0xC00000011E, 0x80#8), (0xC00000011F, 0x04#8)] } }
theorem wit_WordsHalt_illegal : badWord.pending = [] ∧ badWord.fetchTile = some 0 ∧ (badWord.tile 0).ready = true ∧
    (badWord.tile 0).enginesIdle = true ∧ decodeWord (badWord.fetchWord 0 (badWord.tile 0).nextAddr) = none := by decide +kernel
/-- A tile held at a breakpoint on its ordinal, 7. -/
def breaking : State := withT ({ tile0 with wait := .dispatch, held := some (.nop 0 zword) }.setReg .sq 0x80 7#64)
theorem wit_WordsHalt_break : (breaking.tile 0).wait = .dispatch ∧ (breaking.tile 0).held = some (streamInstr .nop 0 zword) ∧
    (breaking.tile 0).haltPending = none ∧ (breaking.tile 0).mode = .running ∧ (breaking.tile 0).breaks zword = true ∧
    (breaking.tile 0).skipBreak = false ∧ (breaking.tile 0).enginesIdle = true := by decide +kernel

/-- A command of the vector engine at a page fault, at page 3, which is deferred, or page 9, which is not mapped. -/
def faulting (st : Stage) : Running := { ready .veAdd okResult with stage := st }
theorem wit_PageFaults_defer : (withRun .ve (faulting (.fault 0x600000 true))).runningOf 0 .ve = some (faulting (.fault 0x600000 true)) ∧
    (SMap.get {} job0.pages 3).mapped = false ∧ (SMap.get {} job0.pages 3).defer = true ∧ job0.pool = 6 :: [] ∧
    (faulting (.fault 0x600000 true)).restarts < 4 := by decide +kernel
theorem wit_PageFaults_fail : (withRun .ve (faulting (.fault 0x1200000 true))).runningOf 0 .ve = some (faulting (.fault 0x1200000 true)) ∧
    (SMap.get {} job0.pages 9).defer = false := by decide +kernel
theorem wit_PageFaults_restart : (withRun .ve (faulting .resolved)).runningOf 0 .ve = some (faulting .resolved) := by decide +kernel

/-- A cascade of tiles 0 and 1 of die 0, id 2: the master's `MM_CASC`, and the member's `MM_JOIN` or nothing. -/
def casc (op : Op) : Running :=
  { ready op okResult with
    stage := .cascade
    cmd := { (ready op okResult).cmd with w := { zword with imm16 := 0x1200#16 }, sreg := [0#64, 3#64] } }
def cascState (e : Engine) (m j : Op) (joined there : Bool) : State :=
  { base with tiles := [(0, { tile0 with engines := [(engId e, { running := some (casc m) })] }),
    (1, { tile0 with avail := there, engines := if joined then [(engId e, { running := some (casc j) })] else [] })] }
theorem wit_CascadeStarts_waits : ((cascState .me .mmCasc .mmJoin false true).cascadeMasters .me 0 2).map (fun m => m.1) = [0] ∧
    ((cascState .me .mmCasc .mmJoin false true).cascadeMasters .me 0 2).find? (fun m => m.2.2.2) = none := by decide +kernel
theorem wit_CascadeStarts_ready :
    ((cascState .me .mmCasc .mmJoin true true).cascadeMasters .me 0 2).find? (fun m => m.2.2.2) = some (0, casc .mmCasc, [0, 1], true) ∧
    (cascState .me .mmCasc .mmJoin true true).cascadeActive .me 0 2 = false ∧
    ((cascState .me .mmCasc .mmJoin true true).startMatCascade 0 .me (casc .mmCasc) [0, 1]).store.guardFull = false := by decide +kernel
theorem wit_CascadeStarts_lost :
    ((cascState .de .dmmCasc .dmmJoin false false).cascadeMasters .de 0 2).find? (fun m => m.2.2.2) =
      some (0, casc .dmmCasc, [0, 1], true) ∧
    (cascState .de .dmmCasc .dmmJoin false false).cascadeActive .de 0 2 = false ∧
    [0, 1].filter (fun q => ((cascState .de .dmmCasc .dmmJoin false false).tile q).avail) = [0] := by decide +kernel

/-- A queued matrix command with one output tile to push, on a finished-tile queue of n entries. -/
def queued : Running := faulting (.queue [(1, 2, 3)] [] okResult)
theorem wit_EngineContinues_queue : (withRun .me queued).runningOf 0 .me = some queued ∧ okResult.outcome ≠ .failed ∧
    ((withRun .me queued).tile 0).ftq.length + 1 ≤ 16 := by decide +kernel
def fullQueue : State := withT { tile0 with engines := [(1, { running := some queued })], ftq := List.replicate 16 0#128 }
theorem wit_EngineContinues_full : fullQueue.runningOf 0 .me = some queued ∧ 16 ≤ (fullQueue.tile 0).ftq.length := by decide +kernel
def epilogue : Running :=
  { faulting (.epilogue 0 okResult) with cmd := { (ready .veEpi okResult).cmd with s0 := .tensor desc1, s3 := .tensor desc1 } }
def epiState (st : Nat) : State :=
  withT { tile0 with engines := [(3, { running := some epilogue })], ftq := [BitVec.ofNat 128 (2 ^ 97 + st * 2 ^ 64)] }
theorem wit_EngineContinues_epi : ∀ st ∈ [0, 5], (epiState st).runningOf 0 .ve = some epilogue ∧
    ((epiState st).tile 0).ftq.map (fun e => ftField e 97 1) = [1] ∧ ((epiState st).tile 0).epi = none ∧
    (epiState st).store.guardFull = false := by decide +kernel
def forwarding : Running :=
  { faulting (.forward 0 okResult) with
    cmd := { (ready .dsSqrt okResult).cmd with s0 := .tensor desc1, w := { zword with flags := 16#5 } } }
theorem wit_EngineContinues_forward : (withRun .dsu forwarding).runningOf 0 .dsu = some forwarding ∧
    (withRun .dsu forwarding).runningOf 0 .ve = none ∧
    (match (withRun .dsu forwarding).dsuResults 0 forwarding.cmd with
     | .ok (_, none) s' => decide (s'.tile 0 = (withRun .dsu forwarding).tile 0)
     | _ => false) = true := by decide +kernel
def waitingFb : Running :=
  { faulting .fabric with cmd := { (ready .fbWait okResult).cmd with w := { zword with dsel := 1#8 }, deadline := 500#64 } }
theorem wit_EngineContinues_deadline : (withRun .tm waitingFb).runningOf 0 .tm = some waitingFb ∧ waitingFb.cmd.w.dsel ≠ 0#8 ∧
    base.runningOf 0 .tm = none := by decide +kernel

/-! ## Numbers -/

theorem wit_ExactStorage : Fmt.fp16 ≠ .fx192 ∧ (0x7BFF < 2 ^ Fmt.fp16.bits) ∧ (decodeElem .fp16 0x7BFF).isFinite = true ∧
    (decodeElem .fp64 1).isFinite = true ∧ (decodeElem .int8 0x80).isFinite = true := by decide +kernel
/-- 2049 lies between two FP16 values, 2048 (0x6800) and 2050 (0x6801); its tie goes to the even one (R75). -/
theorem test_tie : (narrow .fp16 (.fin (Q.ofInt 2049)) ⟨0, false, 0⟩).bits = 0x6800 ∧
    (narrow .fp16 (.fin (Q.ofInt 2049)) ⟨2, false, 0⟩).bits = 0x6801 ∧
    (narrow .fp16 (.fin (Q.ofInt 2049)) ⟨1, false, 0⟩).bits = 0x6800 ∧
    (narrow .fp16 (.fin (Q.ofInt (-2049))) ⟨3, false, 0⟩).bits = 0xE801 := by decide +kernel
/-- Above the largest finite value: infinity under RNE, the largest finite value with `SAT` (R77). -/
theorem test_overflow : (narrow .fp16 (.fin (Q.ofInt 70000)) ⟨0, false, 0⟩).bits = 0x7C00 ∧
    (narrow .fp16 (.fin (Q.ofInt 70000)) ⟨0, true, 0⟩).bits = 0x7BFF := by decide +kernel
theorem wit_RoundingDirection : ∀ mode ∈ [0, 1, 2, 3], Fmt.fp16 ≠ .fx192 ∧ (Q.ofInt 2049).num ≠ 0 ∧ 0 < (Q.ofInt 2049).den ∧
    (narrow .fp16 (.fin (Q.ofInt 2049)) ⟨mode, false, 0⟩).kind ≠ .saturated := by decide +kernel
theorem wit_SumOrder : List.Perm [(Val.fin (Q.ofInt 1), (0#4 : Flags)), (.fin (Q.ofInt 2), 0#4)] [(.fin (Q.ofInt 2), 0#4), (.fin (Q.ofInt 1), 0#4)] ∧
    (∀ v ∈ [(Val.fin (Q.ofInt 1), (0#4 : Flags)), (.fin (Q.ofInt 2), 0#4)], 0 < v.1.q.den) := ⟨List.Perm.swap _ _ _, by decide +kernel⟩
theorem wit_ZeroSums : (∀ v ∈ [Val.fin (Q.ofInt 1), .fin (Q.ofInt (-1))], v.isFinite = true ∧ 0 < v.q.den) ∧
    (∃ x ∈ [Val.fin (Q.ofInt 1), .fin (Q.ofInt (-1))], x ≠ .zero true) ∧
    ([Val.fin (Q.ofInt 1), .fin (Q.ofInt (-1))].foldl (fun q v => Q.add q v.q) Q.zero).isZero = true ∧
    (∀ x ∈ [Val.zero true], x = .zero true ∧ x.isFinite = true ∧ 0 < x.q.den) :=
  ⟨by decide +kernel, ⟨_, List.mem_cons_self, by decide⟩, by decide +kernel, by decide +kernel⟩
theorem wit_IntegerConversion : Fmt.int8.intRange = some (-128, 127) ∧ Fmt.uint8.intRange = some (0, 255) ∧ Fmt.uint8.isSignedInt = false ∧
    (Q.ofInt 200).num ≠ 0 ∧ 0 < (Q.ofInt 200).den := by decide +kernel
/-- 200 to INT8: the bound with NV (R78). -/
theorem test_int8 : (narrow .int8 (.fin (Q.ofInt 200)) ⟨0, false, 0⟩).bits = 127 ∧
    (narrow .int8 (.nan false) ⟨0, false, 0⟩).bits = 0 ∧ (narrow .uint8 (.fin (Q.ofInt (-3))) ⟨0, false, 0⟩).bits = 0 := by decide +kernel

theorem wit_VectorOnScalars : ∀ op ∈ [Op.veAdd, .veSub, .veMul, .veFma, .veMax, .veMin, .veAbs, .veCvt],
    goesB (withD tileD) 0 op (engWord op) = true ∧
    (match (due (withD tileD) 0).mkCmd 0 0 op (engWord op) with
     | some c => decide (c.s0 = .scalar 10#64 ∧ (op ≠ .veAbs → op ≠ .veCvt → c.s1 = .scalar 0xFFFFFFFFFFFFFFFD#64) ∧
        (op = .veFma → c.s2 = .scalar 10#64) ∧ c.s3 = .tensor desc1 ∧ c.mask = none ∧ (due (withD tileD) 0).cmdCheck 0 0 c = none)
     | none => false) = true ∧
    (engWord op).flag 4 = false ∧ (engWord op).mode < 4 := by decide +kernel
theorem wit_VectorOnScalars_memory : (withD tileD).translate 0 (desc1.addr 0) true = .ok 0xA00040 false ∧
    (withD tileD).store.lost = none ∧ SMap.get false (withD tileD).store.poison (0xA00040 / 4096) = false ∧
    SMap.get none (withD tileD).store.stale (0xA00040 / 4096) = none ∧ (withD tileD).store.captures = [] ∧
    (withD tileD).store.guardFull = false ∧ desc1.ext = [1] ∧ ((withD tileD).tile 0).jobOf = 0 := by decide +kernel
/-- 1.5 + 2.25 = 3.75 in FP64: 0x3FF8…, 0x4002…, 0x400E…. -/
theorem test_veAdd :
    let x := { tileD with seqRegs := [(1, 0x3FF8000000000000#64), (2, 0x4002000000000000#64)] }
    let s := (withD x).issue 0 .veAdd (engWord .veAdd)
    s.store.rawByte 0xA00046 = 0x0E#8 ∧ s.store.rawByte 0xA00047 = 0x40#8 ∧ s.store.rawByte 0xA00045 = 0#8 := by decide +kernel
/-- The square root of 4 to 2, forwarded by nothing, over 16 elements of 0 and one of 4. -/
theorem test_dsSqrt :
    let s := { withD tileD with store := { mem := (0xA00046, 0x10#8) :: (0xA00047, 0x40#8) :: descMem } }
    ((s.issue 0 .dsSqrt (engWord .dsSqrt)).store.rawByte 0xA00047) = 0x40#8 ∧
    ((s.issue 0 .dsSqrt (engWord .dsSqrt)).store.rawByte 0xA00046) = 0#8 := by decide +kernel

/-! ## Words and memory -/

theorem wit_WordRoundTrip : wordLegal .seti (wordOf .seti) = true ∧ decodeWord (encodeWord .seti (wordOf .seti)) = some (.seti, wordOf .seti) := by
  decide +kernel
theorem wit_MemoryCanonical : Inv base ∧ Op.sts.engine = .sq ∧ ∃ u, exec (streamInstr .sts 0 (wordOf .sts)) base = .next u :=
  ⟨show base.store.wf = true by decide +kernel, rfl, base.issue 0 .sts (wordOf .sts), rfl⟩

theorem wit_HostWindow : (base.portOf .a).posted = [] ∧ base.windowSize .a = windowEnd ∧ base.tlpPasses .a none = true ∧ base.recovering .a = false ∧ base.sec.ready = true ∧
    0x3DFFFFFFF0 + 16 ≤ windowEnd ∧ 0x3DFFFFFFF0 % 4096 + 16 ≤ 4096 ∧ base.store.captures = [] ∧ base.store.guardFull = false := by
  decide +kernel
theorem wit_HostWindow_whole : (∀ b, Safety.Whole base b) ∧
    (∀ b ∈ blockRun 0x3DFFFFFFF0 16, base.cacheBreach false b = false ∧ base.cacheBreach true b = false) :=
  ⟨fun _ => ⟨rfl, rfl, rfl⟩, by decide +kernel⟩
/-- 64 KiB block 1 of the cellar is pending for a cut, and the guard area holds n others. -/
def guardOf (n : Nat) : Store := { captures := [⟨0, 3#64, [1], [], List.replicate n ⟨0, [], [], []⟩⟩] }
theorem guardOf_full (n : Nat) (h : 65536 ≤ n) : ((guardOf n).guard 1).guardFull = true := by
  have hs : (List.replicate n (⟨0, [], [], []⟩ : SavedBlock)).any (fun x => x.block = 1) = false := by
    rw [List.any_eq_false]
    intro x hx
    rw [List.eq_of_mem_replicate hx]
    decide
  have hu : (guardOf n).guardUsed = n := by simp [guardOf, Store.guardUsed]
  have hk : 65536 < (guardOf n).guardUsed + 1 := by omega
  simp only [Store.guard]
  simp [guardOf, hs] at hk ⊢
  simp [hk]
def guardArea : State := { base with store := guardOf 65536 }
theorem guardArea_full : (guardArea.store.guard (0x10000 / 65536)).guardFull = true := guardOf_full _ (Nat.le_refl _)
theorem wit_HostWindow_guard : guardArea.store.guardFull = false ∧ (guardArea.store.guard (0x10000 / 65536)).guardFull = true ∧
    Safety.Whole guardArea (0x10000 / 4096) ∧ 0x10000 + 1 ≤ guardArea.windowSize .a ∧ 0x10000 % 4096 + 1 ≤ 4096 :=
  ⟨rfl, guardArea_full, ⟨rfl, rfl, rfl⟩, by decide +kernel, by decide⟩
theorem wit_HostWindow_posted :
    (({ base with portA := { posted := [.read 0 1 none] } } : State).portOf .a).posted ≠ [] := by decide
def recovery : State := { State.reset with sec := { State.reset.sec with h0 := { bootState := 1 } } }
theorem wit_HostWindow_other : State.reset.sec.ready = false ∧ recovery.recovering .a = true ∧ recovery.tlpPasses .a none = true ∧
    0 + 1 ≤ bufferEnd ∧ windowEnd < 0x3E00000000 + 1 := by decide +kernel
def locked : State := { base with sec := { base.sec with h0 := { attic := { ideLock := true } } } }
theorem wit_HostWindow_locked : locked.tlpPasses .a none = false := by decide +kernel
/-- A byte written through BAR4 of port A is read there. -/
theorem test_bar4 : (match execBar4Write .a 0x1000 [7#8] none base with
    | .next u => decide (u.store.rawByte 0x1000 = 7#8) && decide (u.store.rawByte 0x1001 = 0#8)
    | _ => false) = true := by decide +kernel

theorem wit_MemoryBackground : base.store.mapped = none ∧ base.store.later = [] ∧
    ({ base with store := { mapped := some 3 } } : State).store.mapped = some 3 ∧ 5 ∉ ({ mapped := some 3 } : Store).later ∧
    (∀ d ∈ [true, false], (SMap.get {} ({ lines := [(7, { present := true, dirty := d })] } : Store).lines 7).present = true ∧
      (SMap.get {} ({ lines := [(7, { present := true, dirty := d })] } : Store).lines 7).dirty = d) ∧
    0x001234567800 < 2 ^ 38 := by decide +kernel
/-- The worked example of R255: 0x001234567800 lies at 0x12345600 of pseudo-channel 0x08. -/
theorem test_cellarPlace : cellarPlace 0x001234567800 = (0x08, 0x12345600) ∧ cellarAddress 0x08 0x12345600 = 0x001234567800 := by
  decide +kernel

/-! ## Power and time -/

theorem wit_Housekeeping : base.inReset = false ∧ base.clk.powerState ≠ 4 ∧ 0xA18 ∈ bar2Offsets ∧ base.sec.asleep = false ∧
    (List.replicate 20 (0#16 : BitVec 16)).length = 20 ∧ base.clk.limit < 3601 ∧ 3599 < base.clk.limit ∧ base.clk.hot = false ∧
    (1 : Nat) ≠ base.sec.active ∧ 600 ≤ base.board.vtile ∧ base.board.vtile ≤ 850 ∧ base.board.vtile % 5 = 0 := by decide +kernel
theorem wit_Housekeeping_rise : let s : State := { base with clk := { base.clk with ceil := 675 } }
    1000 < s.clk.limit ∧ s.clk.hot = false ∧ s.clk.warm = false ∧ s.clk.ceil < 700 ∧ 900 * 25 < (s.clk.limit - 1000) * s.clk.ceil ∧
      s.inReset = false := by decide +kernel
def idle : State := withT { tile0 with mode := .idle }
theorem wit_PowerStates : idle.inReset = false ∧ idle.clk.powerState = 0 ∧ (∀ x ∈ idle.tiles, idle.quietTile x.1 = true) ∧
    (∃ x ∈ base.tiles, base.quietTile x.1 = false) := by decide +kernel
def asleep (k : Nat) : State :=
  { base with
    clk := { base.clk with powerState := k }, sec := { base.sec with asleep := true }, portA := { slots := [(4, { mode := .sealed })] } }
theorem wit_PowerStates_wake : (asleep 1).wakes .work = true ∧ (asleep 2).wakes .signal = true ∧ (asleep 3).wakes (.sealWrite .a) = true ∧
    (asleep 4).wakes (.sealWrite .a) = true ∧ (asleep 4).wakes (.sealWrite .b) = false ∧ 3 ≤ (asleep 3).clk.powerState ∧
    (asleep 0).sec.asleep = true ∧ (asleep 0).clk.powerState ≠ 4 := by decide +kernel

/-- The keyed checks of the three packets below under a key of zeros, by HMAC-SHA-384 (R431). -/
def timeMac : Nat → Nat
  | 0 => 0x62b66915c550fd53f8b26601b3af8ffaaab10bdb27d8e66edf8331672b201e39
  | 1 => 0x49c7dd620500f410d76a6cb2b0abd69d0e646d92edd28d067e3f47ffb8578096
  | _ => 0x7985ab52a3504b3f8c2271107dfa0a67fad73781b9a8341ac43920e670ad3acf
/-- A `TIME` packet of a kind with its keyed check. -/
def timeP (kind : Nat) : Packet :=
  sealPacket ⟨0x30#8, 0#8, 5#16, 1#16, 0#8, BitVec.ofNat 8 kind, 0#32, 4#32, 0#32, 48#16, 0#16, 0#48, 0#8, 0#8,
    leBytes 8 1110 ++ zeros 8 ++ beBytes 32 (timeMac kind), 0#32⟩
def timed : State :=
  { State.reset with
    fab := { endpoint := some 5, paths := 1 }, sec := { State.reset.sec with fmk := some (zeros 48) }
    clk := { timebase := 100#64, exchange := some 4, followed := true, t1 := 1000#64, t2 := 1010#64, t3 := 1100#64 } }
theorem wit_TimeExchange : ∀ kind ∈ [0, 1, 3], packetOk (timeP kind) = true ∧ timed.fab.endpoint = some (timeP kind).dst.toNat ∧
    (timeP kind).typ.toNat = 0x30 ∧ (timeP kind).jtag = 0#32 ∧ (timeP kind).length.toNat = 48 ∧
    slice (timeP kind).payload 8 8 = zeros 8 ∧ slice (timeP kind).payload 16 32 = timeCheck (zeros 48) (timeP kind) ∧
    (timeP kind).subop.toNat = kind ∧ timed.clk.exchange = some (timeP kind).seq.toNat ∧
    fieldAt (timeP kind).payload 0 8 = 1110 := by decide +kernel
/-- t1 = 1000, t2 = 1010, t3 = 1100, t4 = 1110: the offset is 0 and the delay 10 (R431). -/
theorem wit_TimeExchange_delay : timed.sec.fmk = some (zeros 48) ∧ timed.clk.followed = true ∧ timed.clk.source ≠ 1 ∧
    2 * (0 : Int) = ((timed.clk.t2.toNat : Int) - timed.clk.t1.toNat) - ((1110 : Int) - timed.clk.t3.toNat) ∧
    2 * (10 : Int) = ((timed.clk.t2.toNat : Int) - timed.clk.t1.toNat) + ((1110 : Int) - timed.clk.t3.toNat) ∧
    timed.clk.locked = false ∧ timed.clk.lossStepped = false := ⟨rfl, by decide +kernel⟩
/-- An offset of 2,000: t1 = 1000, t2 = 3010, t3 = 3100, t4 = 1110; with no job it is stepped off. -/
theorem wit_TimeExchange_step :
    let s : State := { timed with clk := { timed.clk with t2 := 3010#64, t3 := 3100#64 } }
    2 * (2000 : Int) = ((s.clk.t2.toNat : Int) - s.clk.t1.toNat) - ((1110 : Int) - s.clk.t3.toNat) ∧
    2 * (10 : Int) = ((s.clk.t2.toNat : Int) - s.clk.t1.toNat) + ((1110 : Int) - s.clk.t3.toNat) ∧ s.liveJobs = [] := by decide +kernel
theorem wit_TimeExchange_edge : (base.now.toNat : Int) = 1000000000 * 0 + 100 := by decide +kernel
theorem wit_TimeExchange_lanes : timed.liveLanes = [] ∧
    ({ timed with fab := { timed.fab with lanesUp := 1#128 } } : State).liveLanes = [0] := by decide +kernel
def badTime : Packet := sealPacket { timeP 0 with payload := zeros 48 }
theorem wit_TimeExchange_stranger : packetOk badTime = true ∧ timed.fab.endpoint = some badTime.dst.toNat ∧ badTime.typ.toNat = 0x30 ∧
    slice badTime.payload 16 32 ≠ timeCheck (zeros 48) badTime := by decide +kernel

/-! ## Lanes, tiles, hearths and the twin -/

theorem wit_LaneEvents : SMap.get 0 base.fab.retries 3 ≠ 16 ∧
    (let s : State := { base with
       fab := { base.fab with retries := [(127, 16)], lanesUp := BitVec.allOnes 128 }, pair := { galleryUp := BitVec.allOnes 32 } }
     SMap.get 0 s.fab.retries 127 = 16 ∧ s.fab.lanesUp.getLsbD 127 = true ∧ s.pair.galleryUp.getLsbD 31 = true ∧
       s.clk.planesUp.getLsbD 1 = true ∧ s.clk.planesUp.getLsbD 0 = true ∧ s.fab.porchUp.getLsbD 3 = true ∧ s.fab.porchUp.getLsbD ((3 + 1) % 4) = true) ∧
    base.fab.lanesUp.getLsbD 0 = false ∧ base.pair.galleryUp.getLsbD 0 = false ∧
    (let s : State := { base with fab := { base.fab with porchUp := 7#4, mirrored := 7#4 }, clk := { base.clk with planesUp := 0#2 } }
     s.fab.porchUp.getLsbD 3 = false ∧ s.fab.mirrored.getLsbD 3 = false ∧ s.fab.porchUp.getLsbD 2 = true ∧ (2 + 1) % 4 = 3 ∧
       s.clk.planesUp.getLsbD 1 = false) := by decide +kernel
/-- A tile in service that no job has, with one spare on its die. -/
def spareState : State :=
  { withT { tile0 with owner := none } with clk := { base.clk with spares := [(0, 1)] } }
theorem wit_TileAndPackageLoss : (spareState.tile 0).avail = true ∧ (spareState.tile 0).owner = none ∧ (spareState.tile 0).started = true ∧
    (spareState.tile 0).ended = false ∧ (spareState.tile 0).streamItem = some ⟨.a, 9, 0⟩ ∧ (spareState.tile 9).avail = false ∧
    (base.tile 0).owner = some 0 := by decide +kernel
theorem wit_TileAndPackageLoss_cascades : (∀ e, spareState.cascadesWith e 0 = []) ∧ (∀ q, (spareState.tile q).solver = []) :=
  ⟨fun e => by cases e <;> decide +kernel, tiles_of (P := fun x => x.solver = []) rfl (by decide +kernel)⟩
theorem wit_TileAndPackageLoss_package : State.reset.sec.failed = false ∧ (∀ j, (State.reset.job j).phase = 0) ∧
    ({ State.reset with pair := { state := 2 } } : State).pair.state = 2 ∧
    ({ base with sec := { base.sec with failed := true } } : State).sec.failed = true := ⟨rfl, fun _ => rfl, rfl, rfl⟩
def missing (n : Nat) : State :=
  { withJ { job0 with unmapItems := [(⟨.a, 5, 0⟩, 1, 1)] } with
    sec := { base.sec with missedHearth := n }, pair := { item := some ⟨.b, 6, 0⟩, itemTwin := zeros 48 } }
theorem wit_HearthPair : 25 ≤ (missing 25).sec.missedHearth ∧ (missing 25).sec.standbyOk = true ∧ (missing 25).sec.active < 2 ∧
    (missing 24).sec.missedHearth < 25 ∧ ((missing 25).job 0).unmapItems ≠ [] ∧ (missing 25).pair.item = some ⟨.b, 6, 0⟩ ∧
    State.reset.sec.standbyOk = false := by decide +kernel
/-- What a twin sends. -/
def beat : TwinHeartbeat := ⟨1, some 6, false, false, [(2, 3#64)], [], [], [2], [], [], []⟩
def paired (k missed : Nat) : State := { base with pair := { state := k, missed := missed } }
theorem wit_TwinHeartbeats : (paired 1 20).pair.state = 1 ∧ (paired 2 0).pair.state = 2 ∧ (paired 1 0).sec.failed = false ∧
    (paired 1 0).clk.powerState < 2 ∧ (paired 1 0).pair.twin = none ∧ (paired 0 0).pair.state ≠ 1 ∧ beat.failed = false ∧
    beat.pairState ≠ 4 ∧ beat.taken = [] := by decide +kernel
def pairing (key : List Byte) : State := { base with pair := { item := some ⟨.b, 6, 0⟩, itemTwin := key } }
theorem wit_TwinHeartbeats_pairing : (pairing (sha384 [1#8])).pair.item = some ⟨.b, 6, 0⟩ ∧
    sha384 [1#8] = (pairing (sha384 [1#8])).pair.itemTwin ∧ (pairing (sha384 [1#8])).pair.itemTwin ≠ [] ∧
    sha384 [1#8] ≠ (pairing (zeros 48)).pair.itemTwin ∧ sha384 [1#8] ≠ [] := by
  refine ⟨rfl, rfl, ?_, ?_, ?_⟩ <;> decide +kernel
theorem wit_TwinHeartbeats_sources : (∀ j, j < 16 → ((pairing []).job j).mirror.isSource = false) ∧ (pairing []).pair.told = false ∧
    base.pair.item = none := by decide +kernel
theorem wit_TwinHeartbeats_setup :
    ((withJ { job0 with mirror := { item := some ⟨.b, 7, 0⟩ } }).job 0).mirror.item = some ⟨.b, 7, 0⟩ ∧
    ((withJ { job0 with mirror := { item := some ⟨.b, 7, 0⟩ } }).job 0).mirror.confirmed = false := ⟨rfl, rfl⟩

/-! ## Reset, boot, ports and board management -/

def down : State := { State.reset with board := { sysRstN := false } }
theorem wit_DeviceResets : base.inReset = false ∧ down.inReset = true ∧ base.board.vaux = true ∧ base.board.thermtrip = false ∧
    State.reset.skekaRuns = false := by decide +kernel

/-- Bytes at rising addresses. -/
def listed : Nat → List Byte → SMap Byte
  | _, [] => []
  | k, b :: bs => (k, b) :: listed (k + 1) bs
theorem getList_skip {k q n : Nat} {b : Byte} {m : SMap Byte} (h : k < q) :
    SMap.getList 0#8 ((k, b) :: m) q n = SMap.getList 0#8 m q n := by
  induction n generalizing q with
  | zero => rfl
  | succ n ih => simp only [SMap.getList, SMap.get, if_neg (Nat.ne_of_gt h), ih (Nat.lt_succ_of_lt h)]
theorem getList_listed (bs : List Byte) (k : Nat) : SMap.getList 0#8 (listed k bs) k bs.length = bs := by
  induction bs generalizing k with
  | nil => rfl
  | cons b bs ih => simp [SMap.getList, listed, SMap.get, getList_skip, ih]
/-- An image with an empty body, under the key whose private key is 1, signed with the nonce 2 (Table 16.3). -/
def image : List Byte :=
  ascii "KNSKEKA1" ++ leBytes 8 1 ++ zeros 16 ++ sha384 [] ++ bytes96 (p384Gx, p384Gy) ++
  bytes96 (0x8d999057ba3d2d969260045c55b97f089025959a6f434d651d207d19fb96e9e4fe0e86ebe0e64f85b96a9c75295df61,
    0xffc6ce6fbe9573ca0058bcf21c441059c3d6391ae8a64a49b5750078a2b8548037d347e1bdae7de222ead8e4357510ed) ++ zeros 240
/-- The hash of that key. -/
def keyHash : List Byte := sha384 (bytes96 (p384Gx, p384Gy))
/-- An attic that holds it in firmware slot 0. -/
def attic0 : Attic := { fwHash := [keyHash] }
theorem test_image_signature : imageFail attic0 image (some 512) = 0 := by decide +kernel
/-- Another length, an empty attic. -/
theorem test_image_fails : imageFail attic0 image (some 513) = 1 ∧ imageFail {} image none = 2 := by decide +kernel
def booting (img : List Byte) (state tried : Nat) : State :=
  { State.reset with sec := { State.reset.sec with
      h0 := { attic := attic0, flash := { copyA := img }, bootState := state, tried := tried, buffer := listed 0 img }
      h1 := { attic := attic0, bootState := state } } }
theorem wit_Boots_accept : (booting image 0 0).inReset = false ∧ ((booting image 0 0).hearth 0).bootState = 0 ∧
    ((booting image 0 0).reconcile.hearth 0).tried = 0 ∧ ((booting image 0 0).reconcile.hearth 0).flash.activeB = false ∧
    ((booting image 0 0).reconcile.hearth 0).attic.fwHash = [keyHash] := ⟨rfl, rfl, rfl, rfl, rfl⟩
theorem wit_Boots_image : imageFail ((booting image 0 0).reconcile.hearth 0).attic
    (((booting image 0 0).reconcile.hearth 0).flash.copy false) none = 0 := by decide +kernel
theorem wit_Boots_refuse : ∀ tried ∈ [0, 1], ((booting [] 0 tried).hearth 0).bootState = 0 ∧
    imageFail ((booting [] 0 tried).reconcile.hearth 0).attic [] none ≠ 0 := by decide +kernel
theorem wit_Boots_buffer : SMap.getList 0#8 ((booting image 1 2).hearth 0).buffer 0 512 = image := by
  have h : image.length = 512 := by decide +kernel
  have g := getList_listed image 0
  rw [h] at g
  exact g
theorem wit_Boots_recovery : 512 ≤ bufferEnd ∧ (booting image 1 2).tlpPasses (portOfHearth 0) none = true ∧
    ((booting image 1 2).hearth 0).bootState = 1 ∧
    imageFail ((booting image 1 2).hearth 0).attic (SMap.getList 0#8 ((booting image 1 2).hearth 0).buffer 0 512) (some 512) = 0 ∧
    imageFail ((booting [] 1 2).hearth 0).attic (SMap.getList 0#8 ((booting [] 1 2).hearth 0).buffer 0 512) (some 512) ≠ 0 := by
  rw [wit_Boots_buffer]
  exact ⟨by decide, rfl, rfl, test_image_signature, by decide +kernel⟩
theorem wit_Boots_roles : (booting [] 2 0).inReset = false ∧ (booting [] 2 0).sec.settled = false ∧ (booting [] 2 0).sec.h0.running = true ∧
    (booting [] 2 0).sec.h1.running = true ∧ (booting [] 2 0).sameImage = true := by decide +kernel
def settled : State := { State.reset with sec := { State.reset.sec with settled := true } }
theorem wit_Boots_ready : settled.inReset = false ∧ settled.sec.settled = true ∧ settled.sec.ready = false := ⟨rfl, rfl, rfl⟩
theorem wit_PortsAndBoard : base.inReset = false ∧ (base.portOf .b).linkUp = false ∧ (base.portOf .b).lost = false ∧ (base.hearth (hearthOf .b)).alive = true ∧
    base.sec.asleep = false ∧ base.board.vaux = true ∧ base.fewServed = false := by decide +kernel

/-! ## Hampers -/

/-- Little-endian fields of a body, each with its number of bytes. -/
def fields (fs : List (Nat × Nat)) : List Byte := fs.flatMap (fun f => leBytes f.1 f.2)
/-- A header of `SEQ` 1; with a check it is keyed and its counter is 1 (Table 10.6). -/
def hdrOf (op job : Nat) (body : List Byte) (mac : Nat) : List Byte :=
  leBytes 2 op ++ [if mac = 0 then 0#8 else 1#8, 1#8] ++ leBytes 4 1 ++ leBytes 4 body.length ++ leBytes 4 job ++
    leBytes 8 (if mac = 0 then 0 else 1) ++ zeros 8 ++ beBytes 32 mac
/-- A hamper sealed in slot 4 of port A, whose session has a key of zeros; the checks below are HMAC-SHA-384 values under that key. -/
def withH (s : State) (op job : Nat) (body : List Byte) (mac : Nat) : State :=
  { s with portA := { slots := [(4, { mode := .sealed, hdr := hdrOf op job body mac, body := body })], session := some ⟨zeros 48, 0, 0xFF⟩
                      chal := zeros 32 } }
def takesB (s : State) (kind : Nat) : Bool :=
  s.sec.ready && decide (s.clk.powerState < 2) && s.nextSealed == some (.a, 4) && (s.hamperAt .a 4).kind == kind
def servesB (s : State) (kind : Nat) : Bool := takesB s kind && s.refusal (s.hamperAt .a 4) == none
theorem takes_of {s : State} {kind : Nat} (h : takesB s kind = true) : Safety.Takes s kind .a 4 := by
  simp only [takesB, Bool.and_eq_true, decide_eq_true_eq, beq_iff_eq] at h
  exact ⟨h.1.1.1, h.1.1.2, h.1.2, h.2⟩
theorem serves_of {s : State} {kind : Nat} (h : servesB s kind = true) : Safety.Serves s kind .a 4 := by
  simp only [servesB, Bool.and_eq_true, beq_iff_eq] at h
  exact ⟨takes_of h.1, h.2⟩

/-- A reserved byte (test 1), an opcode that no row assigns (2), a critical hamper without a key (5), a context with no job (7). -/
theorem wit_HampersRefused : ∀ x ∈ [(0x0008, 0xFF, fields [(96, 0), (2, 0x1FF), (102, 0)], 0x0008, 1), (0x7777, 0xFF, [], 0, 2),
    (0x0022, 0, [], 0x0022, 5), (0x0021, 0, [], 0x0021, 7)],
    takesB (withH base x.1 x.2.1 x.2.2.1 0) x.2.2.2.1 = true ∧
      ((withH base x.1 x.2.1 x.2.2.1 0).refusal ((withH base x.1 x.2.1 x.2.2.1 0).hamperAt .a 4)).map (fun r => r.test) = some x.2.2.2.2 := by
  decide +kernel
theorem wit_HampersRefused_kinds : Safety.HamperOf .a 4 ⟨[]⟩ 0x0022 (.teardown .a 4) ∧ Safety.HamperOf .a 4 ⟨[]⟩ 0 (.unassignedOpcode .a 4) := by
  simp [Safety.HamperOf]

theorem wit_Seals : (State.reset.portOf .a).posted = [] ∧ State.reset.tlpPasses .a none = true ∧ (base.slot .a 9).mode = .free ∧ base.sec.ready = true ∧
    (0x5EA1ED0100000001#64).toNat / 2 ^ 32 = 0x5EA1ED01 ∧
    (0x5EA1ED0100000001#64).toNat % 2 ^ 32 = fieldAt ((hdrOf 1 0xFF [] 0 ++ zeros 64).take 64) 4 4 := by decide +kernel
theorem wit_Seals_bad : ¬((0x5EA1ED0200000001#64).toNat / 2 ^ 32 = 0x5EA1ED01) ∧ ((withH base 1 0xFF [] 0).slot .a 4).mode = .sealed ∧
    (({ base with portA := { slots := [(4, { mode := .opened })] } } : State).slot .a 4).mode = .opened := by
  decide +kernel
theorem wit_Seals_echo : servesB (withH base 1 0xFF (zeros 5) 0) 1 = true ∧ (withH base 1 0xFF (zeros 5) 0).nextSealed = some (.a, 4) ∧
    State.reset.nextSealed ≠ some (.a, 4) := by decide +kernel
/-- An urgent slot sealed later goes first (R288). -/
theorem test_urgent :
    ({ base with portA := { slots := [(2, { mode := .sealed, sealNo := 9 }), (5, { mode := .sealed, sealNo := 1 })] } } : State).nextSealed =
      some (.a, 2) := by decide +kernel

/-- A job whose tile runs no stream yet. -/
def idleJob : State := withT { tile0 with started := false, mode := .idle }
def loads : State := withH idleJob 0x0011 0 (fields [(8, 0), (8, 0)]) 0x5bc9f73729b7f19a27d78396324a29fe3c39f0cdd83d1018e593e406c5ba24d3
/-- An image for tile 0 of the one word `END` (opcode 0x001, at bit 246). -/
def img0 : LoaderImage := ⟨[⟨0, 0, 0x1000, [BitVec.ofNat 256 (2 ^ 246)], [], [], 0#64, 0#64⟩]⟩
theorem wit_JobSetups_load : servesB loads 0x0011 = true ∧
    (let r := (Safety.accepted loads .a 4).imageBytes 0 0
     r.1 = none ∧ r.2.2.loadCheck 0 img0 = none ∧ (loads.job 0).mirror.state ≠ 4 ∧ (r.2.2.install (orderedTiles img0)).1 = none ∧
     r.2.2.loadCheck 0 ⟨[]⟩ = some ⟨stRefused, 0xFFFF, 0xFFFFFFFF⟩) := by decide +kernel
def sinkJob : Job := { phase := 1, mirror := { state := 4, side := some true, twinCtx := 2, committed := 3#64, confirmed := true } }

/-- A sink's image is checked against the tiles of its mirror. -/
def sinkTiles : Job := { sinkJob with mirror := { sinkJob.mirror with tiles := [0] } }
def loadsSink : State := withH ({ withT { avail := true } with jobs := [(0, sinkTiles)] }) 0x0011 0 (fields [(8, 0), (8, 0)]) 0x5bc9f73729b7f19a27d78396324a29fe3c39f0cdd83d1018e593e406c5ba24d3
theorem wit_JobSetups_sink : servesB loadsSink 0x0011 = true ∧ (loadsSink.job 0).mirror.state = 4 ∧
    (let r := (Safety.accepted loadsSink .a 4).imageBytes 0 0
     r.1 = none ∧ r.2.2.loadCheck 0 img0 = none) := by decide +kernel
def twoTiles : State := { base with tiles := [(0, tile0), (1, { avail := true })] }
def setups : State := withH twoTiles 0x0010 1 (fields [(8, 3), (8, 0), (4, 0), (4, 2), (32, 2), (64, 0)]) 0xf922103fa39a4deaaefdaa2711f46ae786ccd9c51be866b68c6473d20e088ae3
def setupsBusy : State := withH twoTiles 0x0010 0 (fields [(8, 3), (8, 0), (4, 0), (4, 2), (32, 2), (64, 0)]) 0xba164d9e0164589994d2ee9a41ea5897c74084bfebf2a4f89515bf0df4f0739e
def setupsOwned : State := withH twoTiles 0x0010 1 (fields [(8, 3), (8, 0), (4, 0), (4, 2), (32, 1), (64, 0)]) 0x898a055c35c3ab9f7032844323d159b348d0b64621d66f3b90c39ffa7d68e726
theorem wit_JobSetups_setup : servesB setups 0x0010 = true ∧ (setups.job 1).phase = 0 ∧ setups.attic.lifecycle ≠ 3 ∧
    tilesOfBitmap ((setups.hamperAt .a 4).at_ 0x18 32) = [1] ∧ 1 < setups.activeTiles ∧ (setups.tile 1).avail = true ∧
    (setups.tile 1).owner = none ∧ setups.store.regionsFit [] (setups.hamperAt .a 4).regionEntries = true ∧
    (takeFrames (fun f => !setups.frameTaken f) cellarFrames 2).length = 2 := by decide +kernel
theorem wit_JobSetups_busy : servesB setupsBusy 0x0010 = true ∧ (setupsBusy.job 0).phase ≠ 0 := by decide +kernel
theorem wit_JobSetups_owned : servesB setupsOwned 0x0010 = true ∧ (setupsOwned.job 1).phase = 0 ∧
    0 ∈ tilesOfBitmap ((setupsOwned.hamperAt .a 4).at_ 0x18 32) ∧ (setupsOwned.tile 0).owner ≠ none := by decide +kernel
def starts : State := withH idleJob 0x0012 0 (fields [(8, 2), (32, 0x100)]) 0
/-- Entries 0 and 1: tile 0 may start, tile 1 is not of the job. -/
theorem wit_JobSetups_start : servesB starts 0x0012 = true ∧ (starts.hamperAt .a 4).at_ 0 1 = 2 ∧ (starts.hamperAt .a 4).at_ 8 1 = 0 ∧
    (starts.hamperAt .a 4).at_ 9 1 = 1 ∧ 0 ∈ (starts.job 0).tiles ∧ (starts.tile 0).loaded = true ∧ (starts.tile 0).started = false ∧
    (starts.tile 0).avail = true ∧ 1 ∉ (starts.job 0).tiles := by decide +kernel
def lostTile : State :=
  { withT { tile0 with started := false, loaded := false, avail := false } with jobs := [(0, { job0 with loadImage := some img0 })] }
def startsLost : State := withH lostTile 0x0012 0 (fields [(8, 1), (32, 0)]) 0
theorem wit_JobSetups_missing : servesB startsLost 0x0012 = true ∧ 0 ∈ (startsLost.job 0).tiles ∧ (startsLost.tile 0).started = false ∧
    (startsLost.tile 0).loaded = false ∧ (startsLost.job 0).loadImage = some img0 ∧ (∃ y ∈ img0.tiles, y.tile = 0) := by
  refine ⟨?_, ?_, ?_, ?_, rfl, _, List.mem_cons_self, rfl⟩ <;> decide +kernel
def maps : State := withH base 0x0013 0 (fields [(8, 0x800000), (8, 0x1000000), (4, 2), (4, 3)]) 0
def mapsBad : State := withH base 0x0013 0 (fields [(8, 0x400000), (8, 0x1000000), (4, 1), (4, 3)]) 0
theorem wit_PagesAndRegisters_map : servesB maps 0x0013 = true ∧ (∀ i, i < (maps.hamperAt .a 4).at_ 0x10 4 →
    maps.mapPageOk 0 (0x800000 + i * 0x200000) (0x1000000 + i * 0x200000) false false = true) := by decide +kernel
/-- Page 2 is mapped already. -/
theorem wit_PagesAndRegisters_map_bad : servesB mapsBad 0x0013 = true ∧ mapsBad.mapPageOk 0 0x400000 0x1000000 false false = false := by
  decide +kernel
def unmaps : State := withH base 0x0014 0 (fields [(8, 0x200000), (8, 2)]) 0
theorem wit_PagesAndRegisters_unmap : servesB unmaps 0x0014 = true ∧ (unmaps.job 0).unmapItems = [] ∧
    (unmaps.hamperAt .a 4).at_ 8 4 = 2 ∧ (unmaps.job 0).pageKept 1 = false ∧ (unmaps.job 0).pageKept 2 = false ∧
    unmaps.pageHeld 0 1 = false ∧ unmaps.pageHeld 0 2 = false := by decide +kernel
def sourceJob : Job := { job0 with mirror := { state := 1, side := some false, twinCtx := 2, regions := [(0x200000, 0x200000)] } }
def unmapsKept : State := withH (withJ sourceJob) 0x0014 0 (fields [(8, 0x200000), (8, 2)]) 0
def unmapsHeld : State := withH (withRun .ve { ready .veAdd okResult with cmd := { (ready .veAdd okResult).cmd with s3 := .tensor desc1 } }) 0x0014 0 (fields [(8, 0x200000), (8, 1)]) 0
theorem wit_PagesAndRegisters_kept : servesB unmapsKept 0x0014 = true ∧ (unmapsKept.job 0).unmapItems = [] ∧
    (unmapsKept.job 0).pageKept 1 = true := by decide +kernel
theorem wit_PagesAndRegisters_held : servesB unmapsHeld 0x0014 = true ∧ (unmapsHeld.job 0).pageKept 1 = false ∧
    unmapsHeld.pageHeld 0 1 = true := by decide +kernel
def reads : State := withH base 0x0018 255 (fields [(2, 0), (1, 0), (1, 0x10), (12, 0)]) 0
def readsBad : State := withH base 0x0018 255 (fields [(2, 9), (1, 0), (1, 0x10), (12, 0)]) 0
/-- A register of tile 0; tile 9 is not there. -/
theorem wit_PagesAndRegisters_read : servesB reads 0x0018 = true ∧
    (match reads.regTest (reads.hamperAt .a 4) with | .ok e => e == .sq | .error _ => false) = true ∧ servesB readsBad 0x0018 = true ∧
    (match readsBad.regTest (readsBad.hamperAt .a 4) with | .ok _ => false | .error st => st == stTileLost) = true := by decide +kernel
def writes : State := withH base 0x0019 255 (fields [(2, 0), (1, 3), (1, 0), (4, 0), (8, 1)]) 0
def writesHeld : State := withH (busyVe true) 0x0019 255 (fields [(2, 0), (1, 3), (1, 0), (4, 0), (8, 1)]) 0
theorem wit_PagesAndRegisters_write : servesB writes 0x0019 = true ∧
    (match writes.regTest (writes.hamperAt .a 4) with | .ok e => e == .ve | .error _ => false) = true ∧ (writes.tile 0).regWrites = [] ∧ (writes.tile 0).cfgwHeld .ve = false ∧
    ((writes.tile 0).eng .ve).pending = none ∧ servesB writesHeld 0x0019 = true ∧ ((writesHeld.tile 0).eng .ve).pending.isSome = true := by
  decide +kernel
/-- A `CFGW` to the vector engine waits at the dispatch point. -/
def writesBehind : State :=
  withH (withT { tile0 with wait := .dispatch, held := some (.cfgw 0 { zword with slot0 := immSlot 0x300 }) }) 0x0019 255
    (fields [(2, 0), (1, 3), (1, 0), (4, 0), (8, 1)]) 0
theorem wit_PagesAndRegisters_write_behind : servesB writesBehind 0x0019 = true ∧ (writesBehind.tile 0).regWrites = [] ∧
    (writesBehind.tile 0).cfgwHeld .ve = true := by decide +kernel
/-- A stream that stands at a breakpoint. -/
def atBreak : State := withT ({ tile0 with mode := .halted }.setReg .sq 0x20 (BitVec.ofNat 64 stBreakHit.toNat))
def resumes : State := withH atBreak 0x001a 255 (fields [(8, 0)]) 0
def resumesNot : State := withH base 0x001a 255 (fields [(8, 0)]) 0
theorem wit_PagesAndRegisters_resume : servesB resumes 0x001A = true ∧ (resumes.tile 0).atBreak = true ∧ servesB resumesNot 0x001A = true ∧
    (resumesNot.tile 0).atBreak = false := by decide +kernel
def tears : State := withH base 0x0022 0 (fields []) 0xa7b219b79d4d4236539a4f82a664c4391c5c90e8da573331edcddb366090c31
theorem noGuardWait_of {s : State} (h : ∀ x ∈ s.tiles, (∀ e r, (x.2.eng e).running = some r → r.stage ≠ .guardFull) ∧ x.2.wait ≠ .access)
    (hc : ∀ x ∈ s.jobs, x.2.colls = []) (hw : s.fab.waiting = [])
    (hp : ∀ p, (s.portOf p).posted = []) : Safety.NoGuardWait s := by
  refine ⟨fun t => ?_, fun j c hx => (by
    rw [jobs_of (P := fun x => x.colls = []) rfl hc j] at hx
    cases hx), hw, hp⟩
  have h0 : (∀ e r, ((({} : Tile).eng e).running = some r → r.stage ≠ .guardFull)) ∧ ({} : Tile).wait ≠ .access :=
    ⟨fun e r hr => (by cases hr), (by decide)⟩
  exact tiles_of (s := s) (P := fun x => (∀ e r, (x.eng e).running = some r → r.stage ≠ .guardFull) ∧ x.wait ≠ .access) h0 h t
theorem base_noGuardWait : Safety.NoGuardWait base := noGuardWait_of (by
  intro x hx
  simp only [base, List.mem_singleton] at hx
  subst hx
  exact ⟨fun e r hr => (by cases e <;> cases hr), (by decide)⟩) (by decide +kernel) rfl (fun p => by cases p <;> rfl)
theorem wit_Teardowns : servesB tears 0x0022 = true ∧ tears.cachedLines 0 = [] ∧ (tears.job 0).unmapItems = [] ∧ (tears.job 0).tiles = [0] ∧
    (tears.tile 0).streamItem = some ⟨.a, 9, 0⟩ ∧ (tears.tile 0).regWrites = [] ∧ (tears.job 0).stopItem = none ∧ (tears.job 0).cut.item = none ∧
    (tears.job 0).mirror.item = none ∧ (9 : Nat) ≠ 4 := by decide +kernel
theorem tile0_noGuardWait {s : State} (h : s.tiles = base.tiles) (hc : ∀ x ∈ s.jobs, x.2.colls = []) (hw : s.fab.waiting = []) (hp : ∀ p, (s.portOf p).posted = []) : Safety.NoGuardWait s :=
  ⟨fun t => by unfold State.runningOf State.tile; rw [h]; exact base_noGuardWait.1 t,
    (noGuardWait_of (s := { s with tiles := [] }) (by simp) hc hw hp).2⟩
theorem wit_Teardowns_guard : Safety.NoGuardWait tears := tile0_noGuardWait rfl (by decide +kernel) rfl (fun p => by cases p <;> rfl)
def stops : State := withH (withJ { job0 with stopItem := some ⟨.a, 8, 0⟩, stopAt := 7#64 }) 0x0020 0 (fields [(8, 9)]) 0
def stopsHere : State := withH (withJ { job0 with phase := 3 }) 0x0020 0 (fields [(8, 3)]) 0
def stopsNot : State := withH base 0x0020 0 (fields [(8, 3)]) 0
theorem wit_StepStops_stop : servesB stops 0x0020 = true ∧ BitVec.ofNat 64 ((stops.hamperAt .a 4).at_ 0 8) = 9#64 ∧
    (stops.job 0).step.toNat < 9 ∧ (stops.job 0).stopItem = some ⟨.a, 8, 0⟩ ∧ (8 : Nat) ≠ 4 := by decide +kernel
theorem wit_StepStops_here : servesB stopsHere 0x0020 = true ∧ (stopsHere.job 0).step = 3#64 ∧ (stopsHere.job 0).phase = 3 ∧
    servesB stopsNot 0x0020 = true ∧ (stopsNot.job 0).step = 3#64 ∧ (stopsNot.job 0).phase ≠ 3 := by decide +kernel
def standing : State := { stepping .arrived with jobs := [(0, { job0 with phase := 3 })] }
def goesOn : State := withH standing 0x0021 0 (fields []) 0
theorem wit_StepStops_resume : servesB goesOn 0x0021 = true ∧ 0 ∈ (goesOn.job 0).tiles ∧ (goesOn.tile 0).wait = .arrived ∧
    (goesOn.tile 0).held = some (.stepEnd 0 (wordOf .stepEnd)) := by decide +kernel
/-- A binding of tag 1, gateways 0x100 to 0x10F, one sending window with every right. -/
def bound0 : Binding := ⟨1, 100000, 2000, [(0, 0xFF)], (0x100, 0x10F), [⟨0x200000, 0x200000, true, true, true, true⟩], 0x3000, 0x200000⟩
def boundJob : Job := { job0 with binding := some bound0, tagState := 1 }
def cuts : State := withH (withJ boundJob) 0x0030 0 (fields [(8, 9), (2, 0x100), (2, 1), (2, 2), (2, 0), (4, 1), (4, 0), (4, 0), (4, 0), (192, 0)]) 0
def cutsHere : State := withH (withJ { boundJob with phase := 3 }) 0x0030 0 (fields [(8, 3), (2, 0x100), (2, 1), (2, 2), (2, 0), (4, 1), (4, 0), (4, 0), (4, 0), (192, 0)]) 0
def cutsNot : State := withH (withJ boundJob) 0x0030 0 (fields [(8, 9), (2, 0x10), (2, 1), (2, 2), (2, 0), (4, 1), (4, 0), (4, 0), (4, 0), (192, 0)]) 0
theorem wit_StepStops_cut : servesB cuts 0x0030 = true ∧ cuts.cutRefused (cuts.hamperAt .a 4) = none ∧ (cuts.job 0).step ≠ 9#64 ∧
    servesB cutsHere 0x0030 = true ∧ cutsHere.cutRefused (cutsHere.hamperAt .a 4) = none ∧ (cutsHere.job 0).step = 3#64 ∧
    servesB cutsNot 0x0030 = true ∧ cutsNot.cutRefused (cutsNot.hamperAt .a 4) = some stNotPermitted := by decide +kernel
def assigns : State := withH base 0x0050 0 (fields [(4, 1), (4, 0), (4, 0), (4, 0), (32, 0), (4, 0), (4, 0), (128, 0), (8, 0x1000), (8, 0x10000)]) 0xddb8fd47868501b7199f90152e127a28478b1b03e4be4f4134995fd51689fcc9
def assignsBad : State := withH base 0x0050 0 (fields [(4, 0), (4, 0), (4, 0), (4, 0), (32, 0), (4, 0), (4, 0), (128, 0), (8, 0x1000), (8, 0x10000)]) 0x6b45a418cf282575fd0ce94553cc3b14f9252f6428422236b063142f3e6e041d
def assignsTwice : State := withH (withJ boundJob) 0x0050 0 (fields [(4, 2), (4, 0), (4, 0), (4, 0), (32, 0), (4, 0), (4, 0), (128, 0), (8, 0x1000), (8, 0x10000)]) 0x66f29be75d6d8fcc54cfbccd8c6b16103e6cea6e09493719e588547936bc74a4
theorem wit_FabricTags_assign : servesB assigns 0x0050 = true ∧ (assigns.hamperAt .a 4).newBinding.ok = true ∧
    (assigns.job 0).binding = none ∧ assigns.tagBound ((assigns.hamperAt .a 4).newBinding.jtag % 2 ^ 20) = false ∧
    assigns.fab.endpoint.isSome = true ∧ assigns.quarantined (assigns.hamperAt .a 4).newBinding.jtag = false := by decide +kernel
theorem wit_FabricTags_refused : servesB assignsBad 0x0050 = true ∧ (assignsBad.hamperAt .a 4).newBinding.ok = false ∧
    servesB assignsTwice 0x0050 = true ∧ (assignsTwice.hamperAt .a 4).newBinding.ok = true ∧ (assignsTwice.job 0).binding.isSome = true := by
  decide +kernel
def unbinds : State := withH (withJ boundJob) 0x0051 0 (fields []) 0xaeb15d25c677b4e4ad702e896a91c7e95185c5611485f204bc472b6ab76baf53
def unbindsNot : State := withH base 0x0051 0 (fields []) 0xaeb15d25c677b4e4ad702e896a91c7e95185c5611485f204bc472b6ab76baf53
theorem wit_FabricTags_teardown : servesB unbinds 0x0051 = true ∧ (unbinds.job 0).binding = some bound0 ∧ (unbinds.job 0).colls = [] ∧
    (unbinds.job 0).ops = [] ∧ (unbinds.job 0).cut.active = false ∧ (unbinds.job 0).unmapItems = [] ∧
    (∀ t ∈ (unbinds.job 0).tiles, unbinds.runningOf t .tm = none ∧ (unbinds.tile t).wait ≠ .condition ∧ (unbinds.tile t).wait ≠ .endDrain ∧
      (unbinds.tile t).haltPending = none) ∧ servesB unbindsNot 0x0051 = true ∧ (unbindsNot.job 0).binding = none := by decide +kernel
theorem wit_FabricTags_quarantine :
    ({ base with fab := { quarantine := [(1, 500#64)] } } : State).fab.quarantine.find? (fun q => q.1 = 1) = some (1, 500#64) := by decide
/-- A management packet (type 0x3F). -/
def mgmtP (tag : BitVec 32) : Packet := sealPacket ⟨0x3F#8, 0#8, 5#16, 1#16, 0#8, 0#8, tag, 4#32, 0#32, 0#16, 0#16, 0#48, 0#8, 0#8, [], 0#32⟩
theorem wit_FabricTags_mgmt : packetOk (mgmtP 0#32) = true ∧ packetOk (mgmtP 1#32) = true ∧ (mgmtP 0#32).typ = 0x3F#8 ∧
    (mgmtP 0#32).jtag = 0#32 ∧ (mgmtP 1#32).jtag ≠ 0#32 ∧ timed.sec.fmk.isSome = true := by decide +kernel
/-- A package ready to pair, whose twin has shown a key or none. -/
def pairs (state : Nat) (sense : Bool) (id : List Byte) : State :=
  { base with board := { pairSense := sense }, pair := { state := state, galleryUp := 1#32, twinId := id } }
def pairsNew : State := withH (pairs 0 true []) 0x0040 255 (fields [(48, 0), (8, 0)]) 0xa672286f0771b672ad76e23194b0b8730b43af71dec126bfa32f2269f1d2d2f7
def pairsSame : State := withH (pairs 0 true (zeros 48)) 0x0040 255 (fields [(48, 0), (8, 0)]) 0xa672286f0771b672ad76e23194b0b8730b43af71dec126bfa32f2269f1d2d2f7
def pairsOther : State := withH (pairs 0 true [1#8]) 0x0040 255 (fields [(48, 0), (8, 0)]) 0xa672286f0771b672ad76e23194b0b8730b43af71dec126bfa32f2269f1d2d2f7
def pairsNo : State := withH (pairs 0 false []) 0x0040 255 (fields [(48, 0), (8, 0)]) 0xa672286f0771b672ad76e23194b0b8730b43af71dec126bfa32f2269f1d2d2f7
def pairsTwice : State := withH (pairs 1 true []) 0x0040 255 (fields [(48, 0), (8, 0)]) 0xa672286f0771b672ad76e23194b0b8730b43af71dec126bfa32f2269f1d2d2f7
theorem wit_TwinHampers_pair : ∀ s ∈ [pairsNew, pairsSame, pairsOther], servesB s 0x0040 = true ∧ s.board.pairSense = true ∧ s.pair.state ≠ 1 ∧
    s.pair.state ≠ 2 ∧ s.pair.item = none ∧ s.pair.galleryUp ≠ 0#32 ∧ slice (s.hamperAt .a 4).body 0 48 = zeros 48 := by decide +kernel
/-- The twin that showed the key has checked this package's too, or not. -/
def pairsChecked : State := { pairsSame with pair := { pairsSame.pair with twinChecked := true } }
theorem wit_TwinHampers_pair_checked : servesB pairsChecked 0x0040 = true ∧ pairsChecked.pair.twinId = zeros 48 ∧
    pairsChecked.pair.twinId ≠ [] ∧ pairsChecked.pair.twinChecked = true ∧ pairsSame.pair.twinChecked = false ∧
    pairsSame.pair.told = false ∧ (∀ j, j < 16 → (pairsChecked.job j).mirror.isSource = false) := by decide +kernel
theorem wit_TwinHampers_pair_not : servesB pairsNo 0x0040 = true ∧ pairsNo.board.pairSense = false ∧ servesB pairsTwice 0x0040 = true ∧
    pairsTwice.board.pairSense = true ∧ pairsTwice.pair.state = 1 := by decide +kernel
def detaches : State := withH ({ base with jobs := [] }) 0x0042 255 (fields []) 0x5084433b76cfd59862a08d6bd67de1832e6249b09ccdc36beb79e069e3db9dcf
def detachesNot : State := withH base 0x0042 255 (fields []) 0x5084433b76cfd59862a08d6bd67de1832e6249b09ccdc36beb79e069e3db9dcf
theorem wit_TwinHampers_detach : servesB detaches 0x0042 = true ∧ (∀ j, j < 16 → (detaches.job j).phase = 0) ∧
    servesB detachesNot 0x0042 = true ∧ (detachesNot.job 0).phase ≠ 0 := by decide +kernel
def mirrors : State := withH (withJ { job0 with pages := [(1, ⟨true, 5, true, true, false, false⟩)] }) 0x0043 0 (fields [(4, 0), (4, 2), (8, 0x200000), (8, 0x200000), (112, 0)]) 0xbafb1bdefa1562e3c0b68ca793f0f1103ffd42ef085041f4f058de8286e597f8
def mirrorsNot : State := withH base 0x0043 0 (fields [(4, 0), (4, 2), (8, 0x1200000), (8, 0x200000), (112, 0)]) 0x56ce54f66dee288a834cd185ed56e2d9f17e2ccebfd7a67951fd1b97cac2ddbf
theorem wit_TwinHampers_setup : servesB mirrors 0x0043 = true ∧
    mirrors.mirrorRefused 0 (mirrors.hamperAt .a 4).newMirror = none ∧ servesB mirrorsNot 0x0043 = true ∧
    mirrorsNot.mirrorRefused 0 (mirrorsNot.hamperAt .a 4).newMirror = some stRefused := by decide +kernel
def releaseSource : State := withH (withJ sourceJob) 0x0041 0 (fields [(8, 2)]) 0x5b21878164b4017da73254165f0a44c36852c11d006e29e39f2b0766d2be51bc
def releaseNot : State := withH base 0x0041 0 (fields [(8, 2)]) 0x5b21878164b4017da73254165f0a44c36852c11d006e29e39f2b0766d2be51bc
def resyncSource : State := withH (withJ sourceJob) 0x0041 0 (fields [(8, 3)]) 0x1a1b7d70b691cbaa0be4083f709419f29e20a38c46562783445549cb99765c95
def resyncNot : State := withH base 0x0041 0 (fields [(8, 3)]) 0x1a1b7d70b691cbaa0be4083f709419f29e20a38c46562783445549cb99765c95
def releaseSink : State := withH (withJ sinkJob) 0x0041 0 (fields [(8, 2)]) 0x5b21878164b4017da73254165f0a44c36852c11d006e29e39f2b0766d2be51bc
theorem wit_TwinHampers_release : servesB releaseSource 0x4102 = true ∧ (releaseSource.job 0).mirror.isSource = true ∧
    servesB releaseSink 0x4102 = true ∧ (releaseSink.job 0).mirror.state = 4 ∧ servesB releaseNot 0x4102 = true ∧
    (releaseNot.job 0).mirror.isSource = false ∧ (releaseNot.job 0).mirror.state ≠ 4 := by decide +kernel
theorem wit_TwinHampers_release_guard : Safety.NoGuardWait releaseSource := tile0_noGuardWait rfl (by decide +kernel) rfl (fun p => by cases p <;> rfl)
theorem wit_TwinHampers_resync : servesB resyncSource 0x4103 = true ∧ (resyncSource.job 0).mirror.isSource = true ∧
    servesB resyncNot 0x4103 = true ∧ (resyncNot.job 0).mirror.isSource = false := by decide +kernel
/-- A sink of context 2 of the twin, which is SUSPECT or paired and stands as its last heartbeat says. -/
def sink (state : Nat) (h : TwinHeartbeat) : State := { withJ sinkJob with pair := { state := state, twin := some h } }
def stopped : TwinHeartbeat := ⟨1, some 6, false, false, [(2, 3#64)], [(2, 3#64)], [], [2], [], [], []⟩
def halted : TwinHeartbeat := ⟨1, some 6, false, false, [(2, 4#64)], [(2, 3#64)], [], [], [2], [], []⟩
def takes : State := withH (sink 2 stopped) 0x0041 0 (fields [(8, 0)]) 0xd873cef9ef68f65d8a9556072e156ea1f40ff0b4062e8b66f1b747676a2c846e
def takesNot : State := withH (sink 1 stopped) 0x0041 0 (fields [(8, 0)]) 0xd873cef9ef68f65d8a9556072e156ea1f40ff0b4062e8b66f1b747676a2c846e
/-- The twin is LOST through the takeover of another sink. -/
def takesAgain : State :=
  withH { sink 3 stopped with pair := { state := 3, taken := true, twin := some stopped } } 0x0041 0 (fields [(8, 0)]) 0xd873cef9ef68f65d8a9556072e156ea1f40ff0b4062e8b66f1b747676a2c846e
def hands : State := withH (sink 1 stopped) 0x0041 0 (fields [(8, 1)]) 0xc68f39ebdbb60ec1e2c8788be4c83059fd531be831237ecf93285311345220f2
def handsHalted : State := withH (sink 2 halted) 0x0041 0 (fields [(8, 1)]) 0xc68f39ebdbb60ec1e2c8788be4c83059fd531be831237ecf93285311345220f2
def handsNot : State := withH (sink 1 beat) 0x0041 0 (fields [(8, 1)]) 0xc68f39ebdbb60ec1e2c8788be4c83059fd531be831237ecf93285311345220f2
theorem wit_Takeovers_takeover : servesB takes 0x4100 = true ∧ takes.pair.state = 2 ∧ (takes.job 0).mirror.state = 4 ∧
    servesB takesNot 0x4100 = true ∧ takesNot.pair.state ≠ 2 ∧ takesNot.pair.state ≠ 3 ∧
    servesB takesAgain 0x4100 = true ∧ takesAgain.pair.state = 3 ∧ takesAgain.pair.taken = true ∧ (takesAgain.job 0).mirror.state = 4 := by
  decide +kernel
theorem wit_Takeovers_handover : servesB hands 0x4101 = true ∧ hands.sourceStands (hands.job 0).mirror = some true ∧
    servesB handsHalted 0x4101 = true ∧ handsHalted.sourceStands (handsHalted.job 0).mirror = some false ∧
    servesB handsNot 0x4101 = true ∧ handsNot.sourceStands (handsNot.job 0).mirror = none := by decide +kernel
theorem wit_Takeovers_owed : Safety.NoGuardWait takes ∧ (takes.job 0).tiles = [] ∧ (takes.job 0).mirror.victims = [] ∧
    (takes.job 0).mirror.item = none ∧ (takes.job 0).stopItem = none ∧ (takes.job 0).cut.item = none ∧ (takes.job 0).unmapItems = [] :=
  ⟨tile0_noGuardWait rfl (by decide +kernel) rfl (fun p => by cases p <;> rfl), rfl, rfl, rfl, rfl, rfl, rfl⟩

/-! ## Security -/

/-- Hearth 0 is active with an attic; both hearths hold it. -/
def withA (a : Attic) (hd : List Byte) (svn : Nat) (debug : Bool) : State :=
  { base with
    jobs := [], sec := { base.sec with h0 := { attic := a, imageHeader := hd, imageSvn := svn }, h1 := { attic := a }, debug := debug } }
/-- Owner slot 1 programmed with zeros, in OWNED. -/
def owned : Attic := { lifecycle := 1, ownHash := List.replicate 4 (zeros 48), ownProg := 2#4, fwRevoked := 1#4 }
def own1 : State := withH (withA owned [] 0 false) 0x0071 255 (fields [(1, 0), (1, 1), (6, 0), (48, 0)]) 0x130f92d72298004d2278e08dd6e630501a603523a528ea870bdd25e31fdcb70f
def own2 : State := withH (withA owned [] 0 false) 0x0071 255 (fields [(1, 0), (1, 2), (6, 0), (48, 0)]) 0xaa944c800adbac575ca0b71dec02b4bca5de84414fd60a48e82cb1314f3bebbe
def own0 : State := withH (withA {} [] 0 false) 0x0071 255 (fields [(1, 0), (1, 2), (6, 0), (48, 0)]) 0xaa944c800adbac575ca0b71dec02b4bca5de84414fd60a48e82cb1314f3bebbe
def ownTwice : State := withH (withA owned [] 0 false) 0x0071 255 (fields [(1, 0), (1, 1), (6, 0), (48, 5)]) 0x8594459368eefcd3731e0933c70f5809145bd208195f1c188f0264e592657045
theorem wit_KeyOperations_owner : (∀ s ∈ [own1, own2, own0, ownTwice], servesB s 0x7100 = true ∧ (s.hamperAt .a 4).keyIndex < 4) ∧
    own1.attic.ownProg.getLsbD 1 = true ∧ own1.attic.ownHash.getD 1 [] = (own1.hamperAt .a 4).keyValue ∧
    own2.attic.ownProg.getLsbD 2 = false ∧ own2.attic.lifecycle = 1 ∧ own0.attic.ownProg.getLsbD 2 = false ∧ own0.attic.lifecycle ≠ 1 ∧
    ownTwice.attic.ownHash.getD 1 [] ≠ (ownTwice.hamperAt .a 4).keyValue := by decide +kernel
def rev0 : State := withH (withA owned [] 0 false) 0x0071 255 (fields [(1, 1), (1, 0), (6, 0), (48, 0)]) 0xb2bd91cb819dfff7efee02701c23201fb6fd2cc9b0be67146a6003ee812ff96d
def rev1 : State := withH (withA ({ owned with fwRevoked := 13#4 }) [] 0 false) 0x0071 255 (fields [(1, 1), (1, 1), (6, 0), (48, 0)]) 0xb5a8488c7a73cfcae8e5f84ae164c1076edb81952522070a01afabd7b09dc64d
def rev2 : State := withH (withA owned [] 0 false) 0x0071 255 (fields [(1, 1), (1, 2), (6, 0), (48, 0)]) 0x8d314beddc4967322f8bc9396b3de914de8b667db678d2eff15b6342f16d272c
def rev3 : State := withH (withA owned (ascii "KNSKEKA1" ++ zeros 12 ++ leBytes 4 1) 0 false) 0x0071 255 (fields [(1, 1), (1, 1), (6, 0), (48, 0)]) 0xb5a8488c7a73cfcae8e5f84ae164c1076edb81952522070a01afabd7b09dc64d
theorem wit_KeyOperations_revoke : (∀ s ∈ [rev0, rev1, rev2, rev3], servesB s 0x7101 = true ∧ (s.hamperAt .a 4).keyIndex < 4) ∧
    rev0.attic.fwRevoked.getLsbD 0 = true ∧ rev1.attic.fwRevoked.getLsbD 1 = false ∧ (rev1.attic.fwRevoked ||| fuseBit 1) = 15#4 ∧
    rev2.attic.fwRevoked.getLsbD 2 = false ∧ (rev2.attic.fwRevoked ||| fuseBit 2) ≠ 15#4 ∧ rev2.sec.h0.signedBy 2 = false ∧
    rev2.sec.h1.signedBy 2 = false ∧ rev3.attic.fwRevoked.getLsbD 1 = false ∧ (rev3.attic.fwRevoked ||| fuseBit 1) ≠ 15#4 ∧
    rev3.sec.h0.signedBy 1 = true := by decide +kernel
def orev0 : State := withH (withA ({ owned with ownRevoked := 1#4 }) [] 0 false) 0x0071 255 (fields [(1, 2), (1, 0), (6, 0), (48, 0)]) 0x74e08406f758731ae26e952b8cfe039d745c54ad6be07d226ee507013c2b8137
def orev1 : State := withH (withA owned [] 0 false) 0x0071 255 (fields [(1, 2), (1, 1), (6, 0), (48, 0)]) 0xa91098a59f8241e5d2928d70173b267070ffd62b69a0f47f14084e784dda333c
def orev2 : State := withH (withA ({ owned with ownProg := 6#4 }) [] 0 false) 0x0071 255 (fields [(1, 2), (1, 2), (6, 0), (48, 0)]) 0xe523cde6269ae977fe7fbaf08c2c9665ee0f244aa579cdfb0cafdc734dacae03
theorem wit_KeyOperations_ownerRevoke : (∀ s ∈ [orev0, orev1, orev2], servesB s 0x7102 = true ∧ (s.hamperAt .a 4).keyIndex < 4) ∧
    orev0.attic.ownRevoked.getLsbD 0 = true ∧ orev1.attic.owners = [1] ∧ orev2.attic.ownRevoked.getLsbD 2 = false ∧
    orev2.attic.owners ≠ [2] := by decide +kernel
def svn0 : State := withH (withA owned [] 0 false) 0x0071 255 (fields [(1, 3), (1, 0), (6, 0), (48, 0)]) 0x152bd0ce0f8bf62c18b3153be4a2cac3e3b7dcb5c5de2faec08be2e1c116c480
def svn5 : State := withH (withA owned [] 3 false) 0x0071 255 (fields [(1, 3), (1, 0), (6, 0), (48, 5)]) 0xcde4c8327c5d93c7db9bd4ccdaac000a00fb58e017e46eec9e1103a1ef04fc4
def svn3 : State := withH (withA owned [] 3 false) 0x0071 255 (fields [(1, 3), (1, 0), (6, 0), (48, 3)]) 0x59af240c0fc68f4e4fa37d906c8466da7cdfb68961013b5bfb705dc92ba530b0
theorem wit_KeyOperations_svn : (∀ s ∈ [svn0, svn5, svn3], servesB s 0x7103 = true ∧ s.attic.svn = 0) ∧
    (svn0.hamperAt .a 4).at_ 8 1 % 128 = 0 ∧ (svn5.hamperAt .a 4).at_ 8 1 % 128 = 5 ∧ (svn3.hamperAt .a 4).at_ 8 1 % 128 = 3 ∧
    (svn5.hearth svn5.sec.active).imageSvn = 3 ∧ (svn3.hearth svn3.sec.active).imageSvn = 3 := by decide +kernel
def fmk0 : State := withH (withA owned [] 0 false) 0x0071 255 (fields [(1, 4), (1, 0), (6, 0), (48, 0)]) 0x7f633d066b728a7a8f9a4708e2fb61ef52deb5b68babeb04a6315fe34deb56ab
def fmk1 : State := withH (withA owned [] 0 true) 0x0071 255 (fields [(1, 4), (1, 0), (6, 0), (48, 0)]) 0x7f633d066b728a7a8f9a4708e2fb61ef52deb5b68babeb04a6315fe34deb56ab
def ide0 : State := withH (withA {} [] 0 false) 0x0071 255 (fields [(1, 5), (1, 0), (6, 0), (48, 0)]) 0x201aeab5690a133567318037c8ab894f333886076ee4e8b59ef58f697f5caa72
def ide1 : State := withH (withA owned [] 0 false) 0x0071 255 (fields [(1, 5), (1, 0), (6, 0), (48, 0)]) 0x201aeab5690a133567318037c8ab894f333886076ee4e8b59ef58f697f5caa72
def ide2 : State := withH (withA ({ owned with ideLock := true }) [] 0 false) 0x0071 255 (fields [(1, 5), (1, 0), (6, 0), (48, 0)]) 0x201aeab5690a133567318037c8ab894f333886076ee4e8b59ef58f697f5caa72
theorem wit_KeyOperations_fmk : servesB fmk0 0x7104 = true ∧ fmk0.sec.debug = false ∧ servesB fmk1 0x7104 = true ∧ fmk1.sec.debug = true := by
  decide +kernel
theorem wit_KeyOperations_ide : (∀ s ∈ [ide0, ide1, ide2], servesB s 0x7105 = true) ∧ ide0.attic.lifecycle = 0 ∧ ide0.attic.ideLock = false ∧
    ide1.attic.lifecycle ≠ 0 ∧ ide1.attic.ideLock = false ∧ ide2.attic.ideLock = true := by decide +kernel
def opens : State := withH base 0x0008 255 (fields [(96, 0x5f0eea907c1d437a9d817e1dceb1600ac0b8f0b51331dae97c149a28bd1df4f829dc9292bf989e5d6f2c26964ade1736b70a7672385e543a6c2955bf5df20255382a5482e041f759989ba78b623b1d6e74ad20f31ec7b18e37058bbe22ca87aa), (1, 0xff), (7, 0), (96, 0)]) 0
def opensNot : State := withH base 0x0008 255 (fields [(96, 0x5f0eea907c1d437a9d817e1dceb1600ac0b8f0b51331dae97c149a28bd1df4f829dc9292bf989e5d6f2c26964ade1736b70a7672385e543a6c2955bf5df20255382a5482e041f759989ba78b623b1d6e74ad20f31ec7b18e37058bbe22ca87aa), (1, 0), (7, 0), (96, 0)]) 0
theorem wit_SecurityHampers_session : servesB opens 0x0008 = true ∧ opens.sessionRefused (opens.hamperAt .a 4) = false ∧
    servesB opensNot 0x0008 = true ∧ opensNot.sessionRefused (opensNot.hamperAt .a 4) = true := by decide +kernel
/-- Tokens signed by the key whose private key is 1, which firmware slot 0 holds, for the device of an empty secret. -/
def tokened (k : Nat) : Attic := { lifecycle := k, fwHash := [keyHash] }
def lcBusy : State := withH base 0x0072 255 (fields [(1, 1), (7, 0), (288, 0)]) 0x56c9ce0ffb9c13b86fa832b3efb0cf3d820a1dacd2a1fb4e921e16478c20fb05
def lcNot : State := withH (withA {} [] 0 false) 0x0072 255 (fields [(1, 2), (7, 0), (288, 0)]) 0x3fb0fde3bda8f36e12d85d1ea88fc12d5f03147ed0236a92502cd926d74cf458
def lcBad : State := withH (withA (tokened 0) [] 0 false) 0x0072 255 (fields [(1, 1), (7, 0), (288, 0)]) 0x56c9ce0ffb9c13b86fa832b3efb0cf3d820a1dacd2a1fb4e921e16478c20fb05
def lcGood : State := withH (withA (tokened 0) [] 0 false) 0x0072 255 (fields [(1, 1), (7, 0), (288, 0x5f0eea907c1d437a9d817e1dceb1600ac0b8f0b51331dae97c149a28bd1df4f829dc9292bf989e5d6f2c26964ade1736b70a7672385e543a6c2955bf5df20255382a5482e041f759989ba78b623b1d6e74ad20f31ec7b18e37058bbe22ca87aa66daf96e843a8611cc7e8fce96a38b1f901394c61489c3675ec48035f3ce1e5b56ddc54ac9595a2acc37fc4d16bd6d9e61df9552c7a9965bf8640ebe6ee8e04f9e6eb99fd107d251d634f4a659590289f0975bc545002669d9d2a37b0599d9080000000000000000000000000000000000000000000000000000000000000000000000000000000080e56c1b76847c21fb930994bcb984d116e4f2190daa412a899688015bdbf4771df6bd007e709909d6cf2e11ca5024e70000000100000001)]) 0x178d5f92ecbda75d79d7d5253303674537923707f2295cffc2f806afc7ec105e
def lcFree0 : State := withH (withA owned [] 0 false) 0x0072 255 (fields [(1, 2), (7, 0), (288, 0)]) 0x3fb0fde3bda8f36e12d85d1ea88fc12d5f03147ed0236a92502cd926d74cf458
/-- A session of owner slot 1. -/
def lcFree : State := { lcFree0 with portA := { lcFree0.portA with session := some ⟨zeros 48, 0, 1⟩ } }
theorem wit_SecurityHampers_lifecycle : servesB lcBusy 0x0072 = true ∧ (lcBusy.job 0).phase ≠ 0 ∧ servesB lcNot 0x0072 = true ∧
    lcNot.passage .a 2 = .refused ∧ servesB lcFree 0x0072 = true ∧ lcFree.passage .a 2 = .free ∧ (∀ j, j < 16 → (lcFree.job j).phase = 0) := by
  decide +kernel
theorem wit_SecurityHampers_token : servesB lcGood 0x0072 = true ∧ lcGood.passage .a 1 = .token false true ∧
    lcGood.tokenOk (slice (lcGood.hamperAt .a 4).body 8 288) 1 (some 1) (lcGood.hamperAt .a 4).chal false true = true := by decide +kernel
theorem wit_SecurityHampers_token_bad : servesB lcBad 0x0072 = true ∧ lcBad.passage .a 1 = .token false true ∧
    lcBad.tokenOk (slice (lcBad.hamperAt .a 4).body 8 288) 1 (some 1) (lcBad.hamperAt .a 4).chal false true = false := by decide +kernel
def unlocks : State := withH (withA {} [] 0 false) 0x0073 255 (fields [(288, 0)]) 0xdc884941b8811e1a6905bd258e0f5d8782dff48433da7eb02880191a3b1dec88
def unlocksNot : State := withH (withA owned [] 0 false) 0x0073 255 (fields [(288, 0)]) 0xdc884941b8811e1a6905bd258e0f5d8782dff48433da7eb02880191a3b1dec88
def unlocksBusy : State := withH base 0x0073 255 (fields [(288, 0)]) 0xdc884941b8811e1a6905bd258e0f5d8782dff48433da7eb02880191a3b1dec88
theorem wit_SecurityHampers_unlock : servesB unlocks 0x0073 = true ∧ unlocks.unlockOk (unlocks.hamperAt .a 4) = true ∧
    servesB unlocksNot 0x0073 = true ∧ unlocksNot.unlockOk (unlocksNot.hamperAt .a 4) = false ∧ servesB unlocksBusy 0x0073 = true ∧
    (unlocksBusy.job 0).phase ≠ 0 := by decide +kernel
def updates : State := withH ({ withA attic0 [] 0 false with store := { mem := listed 0 (image.take 272) } }) 0x0070 255 (fields [(8, 0), (8, 0x200), (8, 0)]) 0x8a50eb46f745e1281dae2da4be09b9051d2b1050035aab74169fb59a00c5eb04
def updatesNot : State := withH (withA attic0 [] 0 false) 0x0070 255 (fields [(8, 0), (8, 0x200), (8, 0)]) 0x8a50eb46f745e1281dae2da4be09b9051d2b1050035aab74169fb59a00c5eb04
theorem wit_SecurityHampers_update : servesB updates 0x0070 = true ∧ (updates.hamperAt .a 4).at_ 8 8 = 512 ∧ updates.attic = attic0 ∧
    (let r := (Safety.accepted updates .a 4).readPhys 0 512
     r.1 = none ∧ r.2.1 = image) := by decide +kernel
theorem wit_SecurityHampers_update_bad : servesB updatesNot 0x0070 = true ∧
    (let r := (Safety.accepted updatesNot .a 4).readPhys 0 512
     r.1 = none ∧ imageFail updatesNot.attic r.2.1 (some 512) ≠ 0) := by decide +kernel
def limits : State := withH ({ base with jobs := [] }) 0x0060 255 (fields [(4, 0x7d0), (1, 2), (11, 0)]) 0xb3e9c239c9b81174107966571605ee7fb23c4e93262aefcd2f30c9787252895
def limitsNot : State := withH base 0x0060 255 (fields [(4, 0x64), (1, 0), (11, 0)]) 0x74d3c613773d98f2e4202a4d35283ffc6101a9ae736234e759e9f6ba3579a937
theorem wit_SecurityHampers_power : servesB limits 0x0060 = true ∧ limits.powerRefusal 2000 2 = none ∧ servesB limitsNot 0x0060 = true ∧
    limitsNot.powerRefusal 100 0 = some 1 := by decide +kernel

/-! ## The fabric -/

/-- What a result that is there satisfies. -/
def okAnd {α : Type} (x : Access α) (k : α → State → Bool) : Bool :=
  match x with
  | .ok a e => k a e
  | _ => false
theorem ok_of {α : Type} {x : Access α} {k : α → State → Bool} (h : okAnd x k = true) : ∃ a e, x = .ok a e ∧ k a e = true := by
  cases x with
  | ok a e => exact ⟨a, e, rfl, h⟩
  | fault _ _ _ => cases h
  | fail _ _ _ => cases h
def failAnd {α : Type} (x : Access α) (k : Status → State → Bool) : Bool :=
  match x with
  | .fail st _ e => k st e
  | _ => false
theorem fail_of {α : Type} {x : Access α} {k : Status → State → Bool} (h : failAnd x k = true) :
    ∃ st a e, x = .fail st a e ∧ k st e = true := by
  cases x with
  | ok _ _ => cases h
  | fault _ _ _ => cases h
  | fail st a e => exact ⟨st, a, e, rfl, h⟩

def quietB (s : State) (j : Nat) : Bool :=
  (s.job j).tiles.all (fun t => (s.runningOf t .tm).isNone && (s.tile t).wait != .condition && (s.tile t).wait != .endDrain &&
    (s.tile t).haltPending.isNone) && (s.job j).unmapItems.isEmpty && (s.job j).lists.isEmpty && !(s.job j).cut.active &&
    (s.job j).ops.all (fun o => o.attempts != 0 || o.answered)
theorem quiet_of {s : State} {j : Nat} (h : quietB s j = true) : Safety.Quiet s j := by
  simp only [quietB, Bool.and_eq_true, List.all_eq_true, Option.isNone_iff_eq_none, bne_iff_ne, List.isEmpty_iff,
    Bool.not_eq_true', Bool.or_eq_true] at h
  obtain ⟨⟨⟨⟨h1, h2⟩, h3⟩, h4⟩, h5⟩ := h
  exact ⟨fun t ht => ⟨(h1 t ht).1.1.1, (h1 t ht).1.1.2, (h1 t ht).1.2, (h1 t ht).2⟩, h2, h3, h4,
    fun o ho hz => (h5 o ho).resolve_left (fun hn => hn hz)⟩

def arrivesB (s : State) (typ : Nat) (p : Packet) (j : Nat) : Bool :=
  packetOk p && s.fab.endpoint == some p.dst.toNat && p.typ.toNat == typ && s.jobOfTag p.jtag == some j
theorem arrives_of {s : State} {typ : Nat} {p : Packet} {j : Nat} (h : arrivesB s typ p j = true) : Safety.Arrives s typ p j := by
  simp only [arrivesB, Bool.and_eq_true, beq_iff_eq] at h
  exact ⟨h.1.1.1, h.1.1.2, h.1.2, h.2⟩
def newB (s : State) (typ : Nat) (p : Packet) (j : Nat) : Bool :=
  let f := ((Safety.landed s j p).job j).flow p.src.toNat
  arrivesB s typ p j && decide (serialDist f.base p.seq.toNat < 1024) && f.applied.all (fun a => a.seq != p.seq.toNat) && f.msgs.isEmpty &&
    (s.holdFlow j p).isSome && s.fab.waiting.isEmpty
theorem new_of {s : State} {typ : Nat} {p : Packet} {j : Nat} (h : newB s typ p j = true) : Safety.NewRequest s typ p j := by
  simp only [newB, Bool.and_eq_true, decide_eq_true_eq, List.all_eq_true, bne_iff_ne, List.isEmpty_iff] at h
  exact ⟨arrives_of h.1.1.1.1.1, h.1.2, h.1.1.1.1.2, h.1.1.1.2, h.1.1.2, by simp [h.2]⟩

/-- A package at endpoint 5 whose job holds tag 1. -/
def net : State := withJ boundJob
/-- A packet from endpoint 1 with that tag. -/
def fromOne (typ fl subop seq handle off : Nat) (payload : List Byte) : Packet :=
  sealPacket ⟨BitVec.ofNat 8 typ, BitVec.ofNat 8 fl, 5#16, 1#16, 0#8, BitVec.ofNat 8 subop, 1#32, BitVec.ofNat 32 seq, 0#32,
    BitVec.ofNat 16 payload.length, BitVec.ofNat 16 handle, BitVec.ofNat 48 off, 0xFF#8, 0#8, payload, 0#32⟩

def quietEnd {α : Type} (_ : α) (e : State) : Bool := !e.store.guardFull && quietB e 0
theorem wit_RequestsApply_load : newB net tyLoad (fromOne tyLoad 0 0 0 7 0x200000 []) 0 = true ∧
    okAnd (Safety.porch (Safety.landed net 0 (fromOne tyLoad 0 0 0 7 0x200000 [])) 0
      (fun s => s.readField 0 0x200000 8)) quietEnd = true := by decide +kernel
theorem wit_RequestsApply_store : newB net tyStore (fromOne tyStore 2 0x40 0 0 0x200100 [1#8, 2#8]) 0 = true ∧
    okAnd (Safety.porch (Safety.landed net 0 (fromOne tyStore 2 0x40 0 0 0x200100 [1#8, 2#8])) 0
      (fun s => s.writeField 0 0x200100 [1#8, 2#8])) quietEnd = true := by decide +kernel
/-- An addition of 5 to an INT32 element, which fetches. -/
def addFive : Packet := fromOne tyAtomic 0 0 0 0 0x200040 (leBytes 8 (0x80 + 13) ++ leBytes 8 5 ++ leBytes 8 0)
theorem wit_RequestsApply_atomic : newB net tyAtomic addFive 0 = true ∧
    Fmt.ofCode (fieldAt addFive.payload 0 8 % 32) = some Fmt.int32 ∧ atomicFormatOk .int32 addFive.subop.toNat = true ∧
    addFive.offset.toNat % atomicAlign .int32 = 0 ∧
    okAnd (Safety.porch (Safety.landed net 0 addFive) 0 (fun s => (s.readField 0 addFive.offset.toNat 4).bind fun bs s =>
      match atomicNew .int32 addFive.subop.toNat (bitsOf (fieldAt addFive.payload 0 8) 5 2) (leNat bs) (fieldAt addFive.payload 8 4)
          (fieldAt addFive.payload 12 4) with
      | none => .fail stNonfinite 0 s
      | some v => (s.writeField 0 addFive.offset.toNat (leBytes 4 v)).bind fun _ s => .ok bs s)) quietEnd = true := by decide +kernel
/-- Old value 0, new value 5, answered with the old one. -/
theorem test_atomic :
    (match execAtomic addFive net with
     | .next u => decide (u.store.rawByte 0xA00040 = 5#8) &&
         ((u.job 0).flow 1).applied.map (fun a => (a.resp.typ, a.resp.payload)) == [(5#8, zeros 4)]
     | _ => false) = true := by decide +kernel
/-- The package with lane 0 up. -/
def lit (s : State) : State := { s with fab := { s.fab with lanesUp := 1#128 } }
theorem wit_RequestsApply_lanes : net.liveLanes = [] ∧ (lit net).liveLanes = [0] := by decide +kernel
/-- The one entry of the porch holds a flow of another job that is not idle. -/
def busyFlow : RecvFlow := ⟨1, 0, [⟨4, addFive⟩], []⟩
def crowded : State :=
  { net with jobs := [(0, boundJob), (1, { flows := [busyFlow] })], fab := { net.fab with flowSlots := 1 } }
theorem wit_RequestsApply_crowded : arrivesB crowded tyAtomic addFive 0 = true ∧ (crowded.job 0).flows = [] ∧
    addFive.src.toNat = 1 ∧ busyFlow.applied ≠ [] ∧ crowded.fab.flowSlots = 1 := by decide +kernel
theorem wit_RequestsApply_crowded_flows : crowded.flowsOn (crowded.homePorch 1) = [(1, busyFlow)] := by
  simp [State.flowsOn, crowded, boundJob, job0, busyFlow]
def hello (seq : Nat) : Packet := fromOne tySend 0 3 seq 0 0 [7#8, 9#8]
theorem wit_RequestsApply_message : newB net tySend (hello 0) 0 = true ∧
    (((Safety.landed net 0 (hello 0)).job 0).flow 1).reached 0 = true ∧ (hello 0).payload.length = 2 ∧
    (hello 0).src.toNat = 1 ∧ (hello 0).seq.toNat = 0 ∧ SMap.get [] (net.job 0).queues 3 = [] ∧
    okAnd (Safety.porch (Safety.landed net 0 (hello 0)) 0 (fun s => s.writeField 0 (0x200000 + 65536 * 3) (leBytes 2 1 ++ leBytes 2 2 ++
      (List.range 12).map (fun k => Config.freeByte (Safety.landed net 0 (hello 0)).fresh k) ++ [7#8, 9#8]))) quietEnd = true := by
  decide +kernel
theorem wit_RequestsApply_message_held : newB net tySend (hello 1) 0 = true ∧ (net.job 0).cut.active = false ∧
    (((Safety.landed net 0 (hello 1)).job 0).flow 1).reached 1 = false ∧ (hello 1).src.toNat = 1 ∧ (hello 1).seq.toNat = 1 := by
  decide +kernel
def pull (seq index : Nat) : Packet := fromOne tyTrigger 0 0 seq 0 0 (leBytes 8 index ++ leBytes 8 77)
def netStopped : State := withJ { boundJob with phase := 3 }
theorem wit_RequestsApply_trigger_held : newB netStopped tyTrigger (pull 0 2) 0 = true ∧ (netStopped.job 0).phase = 3 ∧
    (netStopped.job 0).cut.active = false ∧ (netStopped.job 0).heldTriggers = [] := by decide +kernel
/-- A table with entry 2 valid: tile 0, no word (Table 11.8), so that its list fails at once. -/
def netTable : State := { withJ { boundJob with binding := some { bound0 with trigBase := 0x200000 } } with store := { mem := [(0xA00040, 1#8)] } }
theorem wit_RequestsApply_trigger : newB netTable tyTrigger (pull 0 2) 0 = true ∧ newB netTable tyTrigger (pull 0 3) 0 = true ∧
    (netTable.job 0).phase ≠ 3 ∧ (netTable.job 0).heldTriggers = [] ∧ (netTable.job 0).cut.active = false ∧
    (let r := (Safety.landed netTable 0 (pull 0 2)).trigger 0 (pull 0 2)
     r.1 = 0 ∧ (r.2.job 0).cut.active = false) ∧
    (let r := (Safety.landed netTable 0 (pull 0 3)).trigger 0 (pull 0 3)
     r.1 = 4 ∧ (r.2.job 0).cut.active = false ∧
       (r.2.job 0).flow 1 = ((Safety.landed netTable 0 (pull 0 3)).job 0).flow 1) := by decide +kernel
/-- A load of a poisoned block. -/
def netPoison : State := { net with store := { poison := [(0xA00, true)] } }
theorem wit_RequestsApply_nack : newB netPoison tyLoad (fromOne tyLoad 0 0 0 7 0x200000 []) 0 = true ∧
    failAnd (Safety.porch (Safety.landed netPoison 0 (fromOne tyLoad 0 0 0 7 0x200000 [])) 0 (fun s => s.readField 0 0x200000 8))
      (fun st e => st == stPoisoned && !(e.job 0).cut.active &&
        (e.job 0).flow 1 == ((Safety.landed netPoison 0 (fromOne tyLoad 0 0 0 7 0x200000 [])).job 0).flow 1) = true := by decide +kernel
theorem wit_RequestsApply_bad : packetOk { fromOne tyLoad 0 0 0 7 0x200000 [] with trailer := 0#32 } = false := by decide +kernel
/-- A store that has been applied, and its response. -/
theorem wit_RequestsApply_trigger_lit : newB (lit netTable) tyTrigger (pull 0 2) 0 = true ∧
    ((Safety.landed (lit netTable) 0 (pull 0 2)).trigger 0 (pull 0 2)).1 = 0 := by decide +kernel
def again : Packet := fromOne tyStore 3 0x40 4 0 0x200100 [1#8, 2#8]
def netApplied : State := withJ { boundJob with flows := [⟨1, 0, [⟨4, replyTo again tyAck 0 []⟩], []⟩] }
theorem wit_RequestsApply_again : arrivesB netApplied tyStore again 0 = true ∧ (netApplied.job 0).cut.active = false ∧
    (let f := ((netApplied.job 0).flow again.src.toNat).advance again.ackbase.toNat
     serialDist f.base again.seq.toNat < 1024 ∧ f.applied.find? (fun a => a.seq = again.seq.toNat) = some ⟨4, replyTo again tyAck 0 []⟩ ∧
       f.msgs = []) := by decide +kernel

theorem wit_Strangers : packetOk (fromOne tyLoad 0 0 0 7 0x200000 []) = true ∧ base.fab.endpoint = some 5 ∧
    (fromOne tyLoad 0 0 0 7 0x200000 []).dst = 5#16 ∧ (fromOne tyLoad 0 0 0 7 0x200000 []).typ.toNat = tyLoad := by decide +kernel
theorem wit_Strangers_tag : ∀ j, (base.job j).binding = none :=
  jobs_of (P := fun x => x.binding = none) rfl (by decide +kernel)

/-- An idle tile mover of a job with a tag. -/
def netD (jb : Job) : State := { withD tileD with jobs := [(0, jb)] }
theorem wit_FabricCommands : ∀ x ∈ [(Op.fbCtrset, boundJob), (Op.fbWait, { boundJob with counters := [(3, 11#64)] }), (Op.fbWait, boundJob),
      (Op.fbAtomicAdd, boundJob)],
    goesB (netD x.2) 0 x.1 (engWord x.1) = true ∧ dispatchesB (netD x.2) 0 x.1 (engWord x.1) = true ∧
      (((netD x.2).tile 0).eng .tm).running = none ∧ (((netD x.2).tile 0).eng .tm).pending = none ∧
      (netD x.2).store.guardFull = false ∧ (netD x.2).fabAllowed ((netD x.2).tile 0).jobOf = none := by decide +kernel
theorem wit_FabricCommands_alone : Alone (netD boundJob) := ⟨rfl, rfl⟩
/-- The command of a word, and what it satisfies. -/
def cmdAnd (s : State) (op : Op) (k : EngineCmd → Bool) : Bool :=
  match (due s 0).mkCmd 0 ((due s 0).tile 0).jobOf op (engWord op) with
  | some c => k c
  | none => false
theorem wit_FabricCommands_counter : ((netD boundJob).job 0).tiles = [0] ∧ (engWord .fbWait).dsel = 0#8 ∧
    cmdAnd (netD { boundJob with counters := [(3, 11#64)] }) .fbWait (fun c => decide ((c.sr 1).toNat ≤ 11 ∧ c.s3.immVal.toNat = 3)) = true ∧
    cmdAnd (netD boundJob) .fbWait (fun c => decide (0 < (c.sr 1).toNat)) = true ∧ (engWord .fbWait).imm 0 5 = 1 := by decide +kernel
def anAtomic (c : EngineCmd) : Bool :=
  match atomicReq c with
  | .ok r => bound0.permits (destOf c) r.1 && !atomicFetch c
  | .error _ => false
theorem wit_FabricCommands_atomic : Op.fbAtomicAdd.aop = some 0 ∧ (engWord .fbAtomicAdd).flag 4 = false ∧
    ((netD boundJob).job 0).ops = [] ∧ cmdAnd (netD boundJob) .fbAtomicAdd anAtomic = true := by decide +kernel

/-- An operation of tile 0 to endpoint 1, number 4, sent n times. -/
def anOp (n : Nat) (own : FabOwner) (answered : Bool) : FabOp :=
  ⟨1, 4, fromOne tyStore 0 0 4 0 0x200100 [1#8], 0, own, 9, n, 0, false, answered, stOK, 0#4, 0#64, [], false⟩
def sentBy (n : Nat) : State := withJ { boundJob with ops := [anOp n .waiting false] }
def answerOf (typ subop : Nat) (pl : List Byte) : Packet := fromOne typ 0 subop 4 0 0 pl
theorem wit_ResponsesTaken : (∀ x ∈ [(tyAck, 0, []), (tyLoadRsp, 0, [9#8]), (tyAtomicRsp, 0x10, leBytes 8 3), (tyNack, 2, []), (tyNack, 5, [])],
      arrivesB (sentBy 1) x.1 (answerOf x.1 x.2.1 x.2.2) 0 = true ∧
        ((sentBy 1).job 0).ops.any (Safety.answers (answerOf x.1 x.2.1 x.2.2)) = true) ∧ quietB (sentBy 1) 0 = true ∧
    nackStatus 2 = some stPoisoned ∧ nackStatus 5 = none ∧ (answerOf tyNack 5 []).subop.toNat = 5 ∧
    (answerOf tyNack 2 []).subop.toNat = 2 := by decide +kernel
theorem wit_ResponsesTaken_nobody : arrivesB (sentBy 0) tyAck (answerOf tyAck 0 []) 0 = true ∧
    arrivesB net tyAck (answerOf tyAck 0 []) 0 = true ∧ quietB net 0 = true ∧ (net.job 0).ops = [] := by decide +kernel
theorem wit_ResponsesTaken_again : ((sentBy 1).job 0).awaiting 1 4 = some (anOp 1 .waiting false) ∧
    ((sentBy 8).job 0).awaiting 1 4 = some (anOp 8 .waiting false) ∧ (net.job 0).awaiting 1 4 = none ∧
    ((withJ { boundJob with ops := [{ anOp 1 .waiting false with busy := 1 }] }).job 0).awaiting 1 4 =
      some { anOp 1 .waiting false with busy := 1 } ∧ (anOp 8 .waiting false).unreachable = false := by decide +kernel
/-- The tile mover waits for an operation, or for a fence. -/
def waitsFor (op : Op) : State := { withRun .tm { ready op okResult with stage := .fabric } with jobs := [(0, boundJob)] }
theorem wit_ResponsesTaken_timeout : (∀ op ∈ [Op.fbLoad, .fbFence], ((waitsFor op).tile 0).jobOf = 0 ∧
      (waitsFor op).runningOf 0 .tm = some { ready op okResult with stage := .fabric }) ∧
    waitsForOps (ready .fbLoad okResult).cmd = true ∧ base.runningOf 0 .tm = none ∧ (base.tile 0).wait = .none := by decide +kernel
def netHeld (p : Packet) : State := { netTable with jobs := [(0, { boundJob with binding := some { bound0 with trigBase := 0x200000 }, heldTriggers := [p] })] }
theorem wit_ResponsesTaken_held : quietB net 0 = true ∧ (net.job 0).heldTriggers = [] ∧
    (∀ k ∈ [2, 3], ((netHeld (pull 0 k)).job 0).heldTriggers = [pull 0 k] ∧ ((netHeld (pull 0 k)).job 0).phase ≠ 3 ∧
      ((netHeld (pull 0 k)).job 0).binding.isSome = true ∧ (pull 0 k).rsvd = 0#8) ∧
    ((netHeld (pull 0 2)).trigger 0 (pull 0 2)).1 = 0 ∧
    (let r := (netHeld (pull 0 3)).trigger 0 (pull 0 3)
     r.1 = 4 ∧ quietB r.2 0 = true) := by decide +kernel
def aList (failed : Option Status) (ctr : Option Nat) : TrigList := ⟨7, 2, 0, [(.fbFence, zword)], 1, 1, 77#64, ctr, failed⟩
def listing (l : TrigList) (ops : List FabOp) : State := withJ { boundJob with lists := [l], ops := ops }
theorem wit_ResponsesTaken_lists : (∀ l ∈ [aList none none, aList none (some 3), aList (some stPoisoned) none],
      ((listing l [anOp 1 (.list 7) true]).job 0).lists = [l] ∧
      quietB ((listing l [anOp 1 (.list 7) true]).modJob 0 (fun jb => { jb with lists := [] })) 0 = true ∧
      (postedBy ((listing l [anOp 1 (.list 7) true]).job 0) (listIssuer l)).all (fun o => o.answered && o.status == stOK) = true ∧
      listColls ((listing l [anOp 1 (.list 7) true]).job 0) l.id = [] ∧ l.words.length ≤ l.next) ∧
    (postedBy ((listing (aList none none) [anOp 1 (.list 7) false]).job 0) (listIssuer (aList none none))).any
      (fun o => !o.answered) = true := by decide +kernel
/-- A list that waits at an `FB_FENCE` of all destinations for its one operation. -/
def fencing : TrigList := { aList none none with words := [(.fbFence, { zword with slot2 := immSlot 0x400000 })], next := 0 }
theorem wit_ResponsesTaken_list_timeout :
    ((listing fencing [anOp 1 (.list 7) false]).job 0).lists.find? (fun x => x.id = 7) = some fencing ∧
    (match (listing fencing [anOp 1 (.list 7) false]).listWaits 0 fencing with
     | some f => f (anOp 1 (.list 7) false)
     | none => false) = true := by decide +kernel

/-! ## Collectives -/

/-- A place where tile 0 takes part: one stage to endpoint 1, as the collector of a number of inputs or as an input. -/
def stageOf (collector : Bool) (fanin : Nat) : StageEntry := ⟨3, collector, fanin, 1, 1, 0⟩
/-- A sum of n INT64 elements. -/
def sumOf (n : Nat) (ph : CollPhase) (st : StageEntry) : Coll :=
  { tile := 0, list := none, group := 0, gid := 9, seq := 2, src := { desc1 with fmt := 14, ext := [n] }
    dst := { desc1 with base := 0x220000, fmt := 14, ext := [n] }, mode := 0, sat := false, exact := false, fixed := false, ctr := none
    chain := none, issued := 100#64, issue := 1, phase := ph, abort := false, stages := [st], members := st.fanin, slotLog2 := 14
    timeoutMs := 2000, setupStage := 0, setupSent := false, setup := none, records := [], anchors := [], parts := [], setupParts := [], chunks := [], undo := [], restoring := false
    flags := 0#4, covered := false }
def collJob (c : Coll) : State := withJ { boundJob with colls := [c] }
/-- A packet of that collective. -/
def collP (typ handle off : Nat) (payload : List Byte) : Packet :=
  sealPacket ⟨BitVec.ofNat 8 typ, 0#8, 5#16, 1#16, 0#8, 0#8, 1#32, 2#32, 9#32, BitVec.ofNat 16 payload.length,
    BitVec.ofNat 16 handle, BitVec.ofNat 48 off, 0xFF#8, 0#8, payload, 0#32⟩
def aRecord : SetupRecord := ⟨3#64, 1, 14#5, 14#5, false, false, 14, false, false, false, []⟩

/-- A record of 1,009 chunks, whose entries take a second packet. -/
def longRecord : SetupRecord := ⟨3#64, 170 * 1009, 0#5, 0#5, true, false, 12, false, false, false, []⟩
theorem test_setupPackets : setupPackets aRecord = 1 ∧ setupPackets longRecord = 2 := by decide +kernel
def leafQ : Coll := sumOf 1 .queued (stageOf false 3)
theorem wit_Collectives_start : (collJob leafQ).collsActive < 16 ∧ ((collJob leafQ).job 0).firstQueued = some leafQ ∧
    leafQ.stages[0]? = some (stageOf false 3) ∧ (net.job 0).firstQueued = none ∧ leafQ.setupStage = 0 ∧ leafQ.setupSent = false ∧
    (let r := (collJob leafQ).ownSetup 0 leafQ
     leafQ ∈ (r.2.job 0).colls ∧ quietB r.2 0 = true ∧ (r.2.job 0).heldTriggers = []) := by decide +kernel
/-- Sixteen contexts are taken. -/
theorem wit_Collectives_full : 16 ≤ (withJ { boundJob with colls := List.replicate 16 (sumOf 1 .data (stageOf false 3)) }).collsActive := by
  decide +kernel
def root : Coll := { sumOf 1 .setup (stageOf true 4) with setup := some aRecord }
theorem wit_Collectives_record : arrivesB (collJob root) 0x20 (collP 0x20 0 0 []) 0 = true ∧
    ((collJob root).job 0).collOf (collP 0x20 0 0 []) = some root ∧ root.collects 0 = some (stageOf true 4) ∧ root.phase = .setup ∧
    root.records = [] ∧ root.setupStage = 0 ∧ root.setup = some aRecord ∧
    (∀ x ∈ [(aRecord, true), (longRecord, false)],
      (wholeSetup ((root.takeSetup (setupPart (collP 0x20 0 0 []) (some (0, 1)) x.1)).setupFrom (some (0, 1)))).isSome = x.2) ∧ quietB (collJob root) 0 = true ∧ ((collJob root).job 0).heldTriggers = [] := by decide +kernel
def rootData : Coll := sumOf 1 .data (stageOf true 4)
theorem wit_Collectives_verdict_again : arrivesB (collJob rootData) 0x20 (collP 0x20 0 0 []) 0 = true ∧
    ((collJob rootData).job 0).collOf (collP 0x20 0 0 []) = some rootData ∧ rootData.collects 0 = some (stageOf true 4) ∧
    rootData.phase = .data := by decide +kernel
def leaf : Coll := { sumOf 1 .setup (stageOf false 3) with setup := some aRecord, setupSent := true }
theorem wit_Collectives_verdict : (∀ h ∈ [0, 0x5003], arrivesB (collJob leaf) 0x21 (collP 0x21 h 0 []) 0 = true ∧
      ((collJob leaf).job 0).collOf (collP 0x21 h 0 []) = some leaf) ∧ leaf.phase = .setup ∧ leaf.setupSent = true ∧
    (collP 0x21 0 0 []).handle = stOK ∧ (collP 0x21 0x5003 0 []).handle ≠ stOK ∧ quietB (collJob leaf) 0 = true ∧
    leaf.stages = [stageOf false 3] ∧ leaf.chunkCount = 1 ∧
    leaf.undo = [] ∧ leaf.chunks = [] ∧ leaf.abort = false ∧ leaf.setupStage = 0 ∧ ((collJob leaf).collPorch 0).isSome = true ∧
    (∀ h ∈ [0, 0x5003], wholeSetup ((leaf.takeSetup (setupPart (collP 0x21 h 0 []) none aRecord)).setupFrom none) =
      some (BitVec.ofNat 16 h, aRecord)) ∧
    wholeSetup ((leaf.takeSetup (setupPart (collP 0x21 0 0 []) none longRecord)).setupFrom none) = none ∧
    (let c2 : Coll := { leaf.takeSetup (setupPart (collP 0x21 0 0 []) none aRecord) with phase := .data, anchors := [] }
     let r := ((collJob leaf).putColl 0 c2).chunkVals 0 c2 0
     r.1.isSome = true ∧ c2 ∈ (r.2.job 0).colls ∧ quietB r.2 0 = true ∧ (r.2.job 0).heldTriggers = []) := by decide +kernel

/-- A chunk that has been sent at stage 0. -/
def chunk0 (r : Option (List Byte × List Byte × BitVec 4)) : CollChunk := ⟨0, 0, leBytes 8 4, [], 0#4, true, r, false, false⟩
def rootOne (r : Option (List Byte × List Byte × BitVec 4)) : Coll := { rootData with chunks := [chunk0 r] }
theorem wit_Collectives_up : (∀ r ∈ [none, some (leBytes 8 12, [], 0#4)],
      arrivesB (collJob (rootOne r)) 0x22 (collP 0x22 0 0 (leBytes 8 3)) 0 = true ∧
      ((collJob (rootOne r)).job 0).collOf (collP 0x22 0 0 (leBytes 8 3)) = some (rootOne r) ∧
      (rootOne r).collects 0 = some (stageOf true 4) ∧
      (rootOne r).chunk (partOf (collP 0x22 0 0 (leBytes 8 3)) 0 0 false).chunk = some (chunk0 r)) ∧
    (rootOne none).phase = .data ∧ (rootOne none).parts = [] ∧ (rootOne none).chunkCount = 1 ∧
    (partOf (collP 0x22 0 0 (leBytes 8 3)) 0 0 false).chunk = 0 ∧
    ({ rootOne none with parts := [partOf (collP 0x22 0 0 (leBytes 8 3)) 0 0 false] }.combine ((collJob (rootOne none)).job 0).det 0
      (stageOf true 4) 0 (leBytes 8 4, [])) = none ∧
    quietB (collJob (rootOne none)) 0 = true ∧ ((collJob (rootOne none)).job 0).heldTriggers = [] := by decide +kernel
/-- Three inputs of 3, 5 and 7 with the collector's own 4 give 19. -/
theorem test_combine :
    ({ rootOne none with parts := [3, 5, 7].map (fun k => partOf (collP 0x22 0 0 (leBytes 8 k)) 0 k false) }.combine false 0
      (stageOf true 4) 0 (leBytes 8 4, [])) = some (leBytes 8 19, [], 0#4) := by decide +kernel
def leafOne (n : Nat) : Coll := { sumOf n .data (stageOf false 3) with chunks := [chunk0 none] }
theorem wit_Collectives_down : (∀ n ∈ [1, 600], arrivesB (collJob (leafOne n)) 0x23 (collP 0x23 0 0 (leBytes 8 19)) 0 = true ∧
      ((collJob (leafOne n)).job 0).collOf (collP 0x23 0 0 (leBytes 8 19)) = some (leafOne n) ∧
      (leafOne n).chunk (bitsOf (collP 0x23 0 0 (leBytes 8 19)).offset.toNat 0 32) = some (chunk0 none)) ∧
    (let x := partOf (collP 0x23 0 0 (leBytes 8 19)) 0 0 true
     (leafOne 600).whole 0 ({ leafOne 600 with parts := [x] }.partsAt 0 0 true) = false ∧
     (leafOne 1).whole 0 ({ leafOne 1 with parts := [x] }.partsAt 0 0 true) = true) ∧
    (leafOne 1).stages[0]? = some (stageOf false 3) ∧ (leafOne 1).below 0 = [] ∧ (leafOne 1).chain = none := by decide +kernel
theorem wit_Collectives_down_write :
    (let d := { leafOne 1 with parts := [partOf (collP 0x23 0 0 (leBytes 8 19)) 0 0 true] }
     let r := (d.join 0 false (d.partsAt 0 0 true), d.join 0 true (d.partsAt 0 0 true), 0#4)
     let w := (collJob (leafOne 1)).chunkWrite 0 (d.setChunk { chunk0 none with result := some r }) { chunk0 none with result := some r } r
     w.1 = none ∧ quietB w.2 0 = true ∧ (w.2.job 0).heldTriggers = [] ∧ leafOne 1 ∈ (w.2.job 0).colls ∧
       w.2.store.rawByte 0xA20000 = 19#8) := by decide +kernel
theorem wit_Collectives_end : arrivesB (collJob leaf) 0x24 (collP 0x24 0x5003 0 []) 0 = true ∧
    ((collJob leaf).job 0).liveColl 9 2 = some leaf ∧ (collP 0x24 0x5003 0 []).handle ≠ stOK ∧
    arrivesB net 0x24 (collP 0x24 0x5003 0 []) 0 = true ∧ (net.job 0).liveColl 9 2 = none ∧ net.endedColl 0 9 2 = none ∧ leaf.undo = [] ∧
    (net.job 0).groupOf 9 = none ∧
    (({ net with jobs := [(0, { boundJob with groups := [(0, some ⟨9, 4, 0, 14, 2000, [stageOf true 4], 0⟩)] })] } : State).job 0).groupOf 9 =
      some ⟨9, 4, 0, 14, 2000, [stageOf true 4], 0⟩ ∧
    leaf.stages[leaf.setupStage]? = some (stageOf false 3) ∧ leaf.setup = some aRecord := by decide +kernel
theorem wit_Collectives_again : ((collJob (leafOne 1)).job 0).liveColl 9 2 = some (leafOne 1) ∧
    (leafOne 1).stages[(chunk0 none).stage]? = some (stageOf false 3) ∧ (chunk0 none).sent = true ∧ (chunk0 none).result = none ∧
    ((((lit (collJob (leafOne 1))).collPorch 0).map (lit (collJob (leafOne 1))).porchLanes).getD []) = [0] ∧ leaf.setupStage = 0 ∧
    leaf.setupSent = true := by decide +kernel

/-! ## Attestation -/

/-- Hearth 0 in service, port A with a connection. -/
def spdm (x : Spdm) : State :=
  { base with
    sec := { base.sec with h0 := { attic := { cert := [1#8] }, bootState := 3 } }
    portA := { spdm := x, ide := [(2, { key := zeros 32 })] } }
theorem wit_Attestation : (∀ x ∈ [({} : Spdm), { version := 1 }, { version := 0x13 }, { version := 0x13, negotiated := true },
      { version := 0x13, negotiated := true, exchanged := true }, { version := 0x13, negotiated := true, exchanged := true, secured := true }],
    (spdm x).doeServed .a = true ∧ (spdm x).spdmOf .a = x) ∧ ((spdm {}).stream .a 2).key ≠ [] := by decide +kernel
theorem wit_Attestation_chain : 0 < ((spdm { version := 0x13, negotiated := true }).chain .a).length := by
  simp [State.chain, spdm, hearthOf, State.hearth]
/-- The generator is on the curve (R450). -/
theorem wit_Attestation_exchange :
    (let k := halves96 (bytes96 (p384Gx, p384Gy))
     onCurve k.1 k.2 = true ∧ k = (p384Gx, p384Gy)) ∧ onCurve 1 1 = false := by decide +kernel
theorem wit_Attestation_finish : [] ≠ hmac384 (spdm {}).portA.spdm.hostKey (spdm {}).portA.spdm.transcript := by decide +kernel

/-! ## Captures, deltas and cuts -/

/-- A capture of boundary 3 in which physical block 0xA2 is pending for a delta and 0xA0 for a cut. -/
def pends (saved : List SavedBlock) : State :=
  { base with store := { captures := [⟨0, 3#64, [0xA0], [0xA2], saved⟩] } }
theorem wit_Captures_save : (pends []).store.guardFull = false ∧
    (pends []).store.guardUsed + (pends []).store.captures.length ≤ 65536 ∧ Safety.NoGuardWait (pends []) :=
  ⟨by decide +kernel, by decide +kernel, base_noGuardWait⟩
theorem wit_Captures_over : (pends []).captureOver ⟨0, 3#64, [0xA0], [0xA2], []⟩ = true := by decide +kernel
theorem pends_used (saved : List SavedBlock) : (pends saved).store.guardUsed = saved.length := by simp [pends, Store.guardUsed]
theorem wit_Captures_full : 65536 ≤ (pends (List.replicate 65536 ⟨0, [], [], []⟩)).store.guardUsed :=
  Nat.le_of_eq ((pends_used _).trans List.length_replicate).symm
/-- The tile mover waits for a slot. -/
def guarded : State := withRun .tm { ready .tmFill okResult with stage := .guardFull }
theorem wit_Captures_slot : guarded.store.guardUsed < 65536 ∧ SMap.wf {} guarded.tiles = true ∧
    guarded.runningOf 0 .tm = some { ready .tmFill okResult with stage := .guardFull } ∧
    cascMaster (guarded.cascadeCmd 0 (ready .tmFill okResult).cmd).op (guarded.cascadeCmd 0 (ready .tmFill okResult).cmd).w = false := by
  decide +kernel
theorem wit_Captures_slot_wait : ∀ q, (guarded.tile q).wait ≠ .access :=
  tiles_of (P := fun x => x.wait ≠ .access) (by decide) (by decide +kernel)
theorem wit_Captures_slot_alone : ∀ q e x, guarded.runningOf q e = some x → x.stage = .guardFull → q = 0 ∧ e = .tm := by
  intro q e x h _
  by_cases hq : q = 0
  · subst hq; cases e <;> first | exact ⟨rfl, rfl⟩ | cases h
  · exfalso
    have ht : guarded.tile q = {} := by simp [guarded, withRun, withT, State.tile, SMap.get, hq]
    simp [State.runningOf, ht] at h
    cases e <;> cases h

/-- A source whose delta of boundary 3 has one block to send, at 0x200000, and its acknowledged end. -/
def deltaJob (todo : List Nat) (all : Bool) : Job :=
  { sourceJob with mirror := { sourceJob.mirror with delta := some ⟨3#64, [0x20], todo, all⟩ } }
def readsB (x : BlockRead × State) : Bool :=
  match x.1 with
  | .ok _ => true
  | .error _ => false
theorem reads_of {x : BlockRead × State} (h : readsB x = true) : ∃ bs e, x = (.ok bs, e) := by
  obtain ⟨x, e⟩ := x
  cases x with
  | ok bs => exact ⟨bs, e, rfl⟩
  | error _ => cases h
theorem fails_of {x : BlockRead × State} (h : readsB x = false) : ∃ a e, x = (.error a, e) := by
  obtain ⟨x, e⟩ := x
  cases x with
  | ok bs => cases h
  | error a => exact ⟨a, e, rfl⟩
def poisonedAll : Store := { poison := [(0xA00, true)] }
theorem wit_Captures_ports : ∀ p, (guarded.portOf p).posted = [] := fun p => by cases p <;> rfl
theorem wit_Deltas_block : ((withJ (deltaJob [0x20] false)).job 0).mirror.delta = some ⟨3#64, [0x20], [0x20], false⟩ ∧
    ((withJ (deltaJob [0x20] false)).job 0).mirror.sending = true ∧ ((withJ (deltaJob [0x20] false)).job 0).phase ≠ 2 ∧
    (let s := withJ (deltaJob [0x20] false)
     readsB (s.readCaptured 0 3#64 false (s.physBlock 0 0x20).1 (s.physBlock 0 0x20).2) = true) ∧
    (let s : State := { withJ (deltaJob [0x20] false) with store := poisonedAll }
     readsB (s.readCaptured 0 3#64 false (s.physBlock 0 0x20).1 (s.physBlock 0 0x20).2) = false) := by decide +kernel
theorem wit_Deltas_ack : ((withJ (deltaJob [] true)).job 0).mirror.delta = some ⟨3#64, [0x20], [], true⟩ ∧
    ((withJ (deltaJob [] true)).job 0).mirror.sending = true ∧ ((withJ sourceJob).job 0).mirror.delta = none := by decide +kernel
/-- A block frame that verifies, and one that carries nothing. -/
def goodFrame : GalleryFrame := ⟨0, 3#64, 0x200000, zeros 65536, blockCrcs (zeros 65536), 0⟩
theorem zeros_length (n : Nat) : (zeros n).length = n := List.length_replicate ..
theorem goodFrame_data : goodFrame.data.length = 65536 := zeros_length 65536
def sinkHas (log : List GalleryFrame) (whole : Option (BitVec 64)) : State :=
  withJ { sinkJob with mirror := { sinkJob.mirror with
    regions := [(0x200000, 0x200000)], copyBase := 0xC00000, copyBytes := 0x200000, logBase := 0xE00000, logBytes := 0x200000
    log := log, logDone := whole } }
/-- An empty delta that comes while the log of the one before is applied (R387). -/
theorem wit_Deltas_empty : ((sinkHas [] (some 2#64)).job 0).mirror.state = 4 ∧
    ((sinkHas [] (some 2#64)).job 0).mirror.logDone.isSome = true ∧ ((sinkHas [] (some 2#64)).job 0).mirror.log = [] :=
  ⟨rfl, rfl, rfl⟩
theorem frameGood_of (d : List Byte) (h : d.length = 65536) : frameGood ⟨0, 3#64, 0x200000, d, blockCrcs d, 0⟩ = true := by
  simp [frameGood, h]
theorem wit_Deltas_receive : frameGood goodFrame = true := frameGood_of (zeros 65536) (zeros_length 65536)
theorem wit_Deltas_receive_bad : frameGood ⟨0, 3#64, 0x200000, [], [], 0⟩ = false := by simp [frameGood]
theorem wit_Deltas_sink : ((sinkHas [] none).job 0).mirror.state = 4 ∧ ((sinkHas [] none).job 0).mirror.logDone = none ∧
    (sinkHas [] none).store.guardFull = false ∧ Safety.NoGuard (sinkHas [] none) := ⟨rfl, rfl, rfl, rfl, rfl⟩
theorem wit_Deltas_commit : ((sinkHas [goodFrame] none).job 0).mirror.log.filter (fun g => g.boundary = 3#64) = [goodFrame] ∧
    ((sinkHas [] none).job 0).mirror.log = [] ∧ ((sinkHas [goodFrame] none).job 0).mirror.state = 4 := by
  refine ⟨?_, rfl, rfl⟩
  show List.filter _ [goodFrame] = _
  rw [List.filter_cons_of_pos (by simp [goodFrame])]; rfl
theorem wit_Deltas_apply : ((sinkHas [goodFrame] (some 3#64)).job 0).mirror.logDone = some 3#64 ∧
    ((sinkHas [goodFrame] (some 3#64)).job 0).mirror.log = [goodFrame] ∧
    copyOffset ((sinkHas [goodFrame] (some 3#64)).job 0).mirror.regions goodFrame.blockVa = some 0 ∧ (0xC00000 + 0) % 4096 = 0 :=
  ⟨rfl, rfl, rfl, rfl⟩

/-- A cut of boundary 3 over a region of two blocks at 0x200000, with a replica group of endpoints or none. -/
def cutJob (first last : Nat) (c : Cut) : Job :=
  { boundJob with cut := { c with
    state := max 2 c.state, boundary := 3#64, gateway := 0x100, packages := 1, regions := [⟨0x200000, 0x200000, first, last⟩] } }
def cutting (c : Cut) : State := withJ (cutJob 1 0 c)
def copierOp (answered : Bool) : FabOp :=
  { anOp 1 .copier answered with dst := 0x101, pkt := fromOne tyStream 0 0 4 0 0x200100 [1#8] }
theorem wit_CutCopies_frame : (∀ o ∈ copierOps ((cutting {}).job 0), o.answered = true → o.status = stOK) ∧
    (∀ o ∈ ((cutting {}).job 0).ops, o.dst ≠ ((cutting {}).job 0).cut.gateway) ∧ ((cutting {}).job 0).binding.isSome = true ∧
    SMap.get [] ((cutting {}).job 0).queues 15 = [] ∧ (copierOp false).dst ≠ ((cutting {}).job 0).cut.gateway ∧
    (copierOp true).status = stOK := by decide +kernel
theorem wit_CutCopies_block : ((cutting {}).job 0).cut.state = 2 ∧ ((cutting {}).job 0).phase ≠ 2 ∧
    ((cutting {}).job 0).cut.blocks[((cutting {}).job 0).cut.next]? = some (0, 0) ∧ readsB ((cutting {}).readBlock 0 (0, 0)) = true ∧
    (((cutting {}).job 0).cut.region 0).replicated = false ∧
    readsB ({ cutting {} with store := poisonedAll }.readBlock 0 (0, 0)) = false := by decide +kernel
/-- Endpoints 4 and 5 hold the region; endpoint 4's digest of block 0 is heard, the same as here, or not. -/
def sharing (heard : Bool) : State :=
  withJ (cutJob 4 5 { next := 1, digests := [[7#8]], heard := if heard then [(4, 0, 0, [7#8])] else [] })
theorem wit_CutCopies_decide : (∀ h ∈ [true, false], ((sharing h).job 0).cut.state = 2 ∧ ((sharing h).job 0).cut.blocks[0]? = some (0, 0) ∧
      0 < ((sharing h).job 0).cut.digests.length ∧ ((sharing h).job 0).cut.writers = [] ∧
      (((((sharing h).job 0).cut.heardOf (0, 0)).filter (fun x =>
        ((sharing h).lowerEnds (((sharing h).job 0).cut.region 0)).contains x.1 &&
          x.2 == ((sharing h).job 0).cut.digests.getD 0 [])).map Prod.fst) = (if h then [4] else [])) ∧
    readsB ((sharing false).readBlock 0 (0, 0)) = true := by decide +kernel
def copiedCut (n : Nat) : State := cutting { next := n, digests := [[7#8], [8#8]], writers := [(0, 5), (1, 5)] }
theorem wit_CutCopies_manifest : ((copiedCut 2).job 0).cut.state = 2 ∧ (copiedCut 2).copied 0 = true ∧ (copiedCut 1).copied 0 = false := by
  decide +kernel
def manifested (answered : Bool) : State := withJ { cutJob 1 0 { state := 3, item := some ⟨.b, 5, 0⟩ } with ops := [copierOp answered] }
theorem wit_CutCopies_done : ((manifested true).job 0).cut.state = 3 ∧ ((manifested true).job 0).cut.item = some ⟨.b, 5, 0⟩ ∧
    (copierOps ((manifested true).job 0)).all (fun o => o.answered) = true ∧ (copierOp false).pkt.typ.toNat = tyStream ∧
    (copierOps ((manifested false).job 0)).any (fun o => !o.answered) = true := by decide +kernel

/-! ## Clauses at their boundaries -/

theorem wit_IdleStep_power : base.board.vaux = true ∧ base.board.pwrok = true ∧ base.board.thermtrip = false ∧
    (let s : State := { withT {} with board := { vaux := false } }
     s.pending = [] ∧ (∀ x ∈ s.tiles, x.2.ready = false) ∧ s.board.vaux = false) := by decide +kernel
/-- `CMP` on FP64 values. -/
def cmpFp (rel : Nat) : CmdWord := { wordOf .cmp with imm16 := BitVec.ofNat 16 (0x100 + 8 * rel) }
theorem wit_SequencerWrites_fpc : goesB base 0 .cmp (cmpFp 1) = true ∧ (cmpFp 1).imm 8 1 = 1 := by decide +kernel
/-- +0 and −0 are equal; a NaN is equal to nothing, so that NE alone holds (R218). -/
theorem test_cmp_fp64 :
    let zeros := withT { tile0 with seqRegs := [(2, 0x8000000000000000#64)] }
    let nans := withT { tile0 with seqRegs := [(1, 0x7FF8000000000000#64)] }
    (zeros.issue 0 .cmp (cmpFp 0) |>.readSeq 0 0x74) = 1#64 ∧ (zeros.issue 0 .cmp (cmpFp 2) |>.readSeq 0 0x74) = 0#64 ∧
    (nans.issue 0 .cmp (cmpFp 1) |>.readSeq 0 0x74) = 1#64 ∧ (nans.issue 0 .cmp (cmpFp 3) |>.readSeq 0 0x74) = 0#64 := by decide +kernel
/-- The conditions of an instance that is skipped, as a test. -/
def skipsB (s : State) (t : Nat) (op : Op) (w : CmdWord) : Bool :=
  (s.tile t).ready && (!((due s t).tile t).breaks w || ((due s t).tile t).skipBreak) && (due s t).wordCheck t op w == none &&
    (w.tag == 0#16 || !(((due s t).tile t).tagAt w.tag).pending) && !((due s t).tile t).predicate w && ((due s t).tile t).xct.isNone
theorem skips_of {s : State} {t : Nat} {op : Op} {w : CmdWord} (h : skipsB s t op w = true) : Skips s t op w := by
  simp only [skipsB, Bool.and_eq_true, Bool.or_eq_true, Bool.not_eq_true', beq_iff_eq, Option.isNone_iff_eq_none] at h
  obtain ⟨⟨⟨⟨⟨h1, h2⟩, h3⟩, h4⟩, h5⟩, h6⟩ := h
  exact ⟨h1, fun hb => h2.resolve_left (by simp [hb]), h3, fun ht => h4.resolve_left ht, h5, .inl h6⟩
theorem wit_SequencerFlow_skipped : ∀ x ∈ [(Op.seti, wordOf .seti), (.mov, wordOf .mov), (.sts, wordOf .sts), (.veAdd, engWord .veAdd),
    (.tmFill, engWord .tmFill), (.fbWait, engWord .fbWait)], skipsB (withD tileD) 0 x.1 { x.2 with pen := true } = true := by decide +kernel
/-- A skipped `SETI` writes nothing; its tag entry says SKIPPED (R227). -/
theorem test_skipped :
    let s := base.issue 0 .seti { wordOf .seti with pen := true }
    (s.tile 0).sreg 5 = 0#64 ∧ (s.tile 0).tagAt 1#16 = ⟨1#16, false, .skipped, stSkipped⟩ ∧ fieldOf ((s.tile 0).reg .sq 0x10) 0 48 = 1 := by
  decide +kernel
theorem wit_NoneBehind : NoneBehind (base.tile 0) ∧ NoneBehind (lastStep.tile 0) ∧ NoneBehind (badWord.tile 0) ∧ NoneBehind (breaking.tile 0) ∧
    NoneBehind (failing.tile 0) := by
  refine ⟨?_, ?_, ?_, ?_, ?_⟩ <;> exact fun y hy => by cases hy
theorem wit_RegisterWrites_stream : base.tlpPasses .a none = true ∧ locked.tlpPasses .a none = false ∧ (0xF0004 : Nat) % 4 = 0 ∧
    ({ locked with portA := { ide := [(2, { key := zeros 32, secure := true })] } } : State).tlpPasses .a (some 2) = true := by decide +kernel
/-- A queued matrix command whose tile waits for its one straggler pass. -/
def late : Running := { faulting (.queue [] [(1, 2, 3)] { okResult with passes := 1 }) with passesLeft := 1 }
theorem wit_EngineEvents_late : (withRun .me late).runningOf 0 .me = some late ∧ late.stage = .queue [] [(1, 2, 3)] { okResult with passes := 1 } ∧
    late.passesLeft ≤ 1 ∧ 0 < late.passesLeft ∧ ((withRun .me late).tile 0).ftq.length + 1 ≤ 16 ∧ okResult.outcome ≠ .failed := by decide +kernel
theorem wit_PageFaults_engines : (ready .veAdd okResult).cmd.op.engine = .ve ∧ (ready .tmFill okResult).cmd.op.engine = .tm ∧
    (withRun .tm { ready .tmFill okResult with stage := .fault 0x1200000 true }).runningOf 0 .tm =
      some { ready .tmFill okResult with stage := .fault 0x1200000 true } := by decide +kernel
theorem wit_MemoryBackground_power : base.clk.powerState < 2 ∧ 2 ≤ (asleep 2).clk.powerState := by decide
theorem wit_Housekeeping_warned : base.sec.ready = true ∧ (base.warned 3 = false) ∧
    ({ base with fab := { base.fab with porchUp := 7#4 } } : State).warned 9 = true ∧ base.clk.powerState < 2 ∧ base.sensed 0 = true ∧
    ({ base with sec := { base.sec with h1 := { alive := false } } } : State).sec.h1.alive = false ∧ (base.hearth 1).alive = true := by decide +kernel
theorem wit_TimeExchange_stopped :
    let s : State := { timed with clk := { timed.clk with source := 1, timebase := 2000000000#64 } }
    s.clk.source = 1 ∧ s.clk.lastPps.toNat + 2000000000 ≤ 2000000000 ∧ base.board.vaux = true ∧
      ({ base with board := { vaux := false } } : State).board.vaux = false := by decide
theorem wit_LaneEvents_planes : base.clk.planesUp.getLsbD 0 = true ∧ base.clk.planesUp.getLsbD (1 - 0) = true ∧
    (let s : State := { base with clk := { base.clk with planesUp := 1#2 } }
     s.clk.planesUp.getLsbD 0 = true ∧ s.clk.planesUp.getLsbD (1 - 0) = false) := by decide +kernel
/-- A job of tiles 0 and 1, of which 1 waits at the boundary. -/
def atBarrier : State :=
  { base with
    tiles := [(0, tile0), (1, { tile0 with wait := .arrived, held := some (.stepEnd 1 (wordOf .stepEnd)), streamItem := some ⟨.a, 9, 1⟩ })]
    jobs := [(0, { job0 with tiles := [0, 1] })] }
theorem wit_TileAndPackageLoss_barrier : Safety.AtBarrier atBarrier 0 where
  engines := tiles_of (P := fun x => x.engines = [] ∧ x.solver = []) ⟨rfl, rfl⟩ (by decide +kernel)
  halts := tiles_of (P := fun x => x.haltPending = none ∧ x.regWrites = []) ⟨rfl, rfl⟩ (by decide +kernel)
  waits := tiles_of (P := fun x => x.wait = .none ∨ x.wait = .arrived) (.inl rfl) (by decide +kernel)
  held := by
    intro q h
    have hq : q = 1 := by
      by_cases h0 : q = 0
      · subst h0; cases h
      · by_cases h1 : q = 1
        · exact h1
        · have ht : atBarrier.tile q = {} := by simp [atBarrier, State.tile, SMap.get, h0, h1]
          rw [ht] at h; cases h
    subst hq
    exact ⟨rfl, wordOf .stepEnd, rfl⟩
  colls := rfl
  unmaps := rfl
  cut := rfl
theorem wit_TileAndPackageLoss_owned : (atBarrier.tile 0).avail = true ∧ (atBarrier.tile 0).owner = some 0 ∧ (atBarrier.tile 0).started = true ∧
    (atBarrier.tile 0).ended = false ∧ 1 ∈ (atBarrier.job 0).tiles ∧ (atBarrier.tile 1).wait = .arrived ∧ (atBarrier.job 0).phase ≠ 0 ∧
    base.clk.powerState < 2 ∧ spareState.mayRotate 0 = true ∧ (withT { tile0 with owner := none }).mayRotate 0 = false := by decide +kernel
theorem wit_TileAndPackageLoss_live : base.sec.failed = false ∧ Safety.NoGuardWait base ∧ (base.job 0).phase ≠ 0 ∧
    Safety.OwedFailed base 0 ⟨.a, 9, 0⟩ ∧
    ({ base with pair := { state := 1, galleryUp := 1#32 } } : State).pair.galleryUp ≠ 0#32 :=
  ⟨rfl, base_noGuardWait, by decide +kernel, .inl ⟨0, by decide +kernel, .inl rfl⟩, by decide⟩
theorem wit_TileAndPackageLoss_frame : ∀ j, (base.job j).colls = [] ∧ (base.job j).lists = [] ∧ (base.job j).heldTriggers = [] ∧
    (base.job j).cut.item = none :=
  jobs_of (P := fun x => x.colls = [] ∧ x.lists = [] ∧ x.heldTriggers = [] ∧ x.cut.item = none) ⟨rfl, rfl, rfl, rfl⟩ (by decide +kernel)
/-- A tile fault at a boundary halts the tiles that wait there with `TILE_LOST`, and the step counter stays (R45). -/
theorem test_boundary_lost :
    (match execTileFault 0 atBarrier with
     | .next u => decide ((u.tile 1).mode = .halted) && decide ((u.job 0).step = 3#64) && decide ((u.job 0).phase = 1)
     | _ => false) = true := by decide +kernel
theorem wit_TwinHeartbeats_released : beat.released = [] := rfl
theorem wit_DeviceResets_trip : ({ base with board := { thermtrip := true } } : State).board.thermtrip = true ∧ down.sec.fuse = none := by
  decide +kernel
/-- The other hearth comes late, with another image. -/
def lateHearth : State :=
  { State.reset with sec := { State.reset.sec with settled := true, h0 := { bootState := 3 }, h1 := { bootState := 2, imageHeader := [1#8] } } }
theorem wit_Boots_late : lateHearth.inReset = false ∧ lateHearth.sec.settled = true ∧ lateHearth.sec.standbyOk = false ∧
    lateHearth.sec.asleep = false ∧ (lateHearth.hearth (1 - lateHearth.sec.active)).running = true ∧ lateHearth.sameImage = false := by decide +kernel
theorem wit_Teardowns_cut : (tears.job 0).binding = none ∧
    (∀ k ∈ [1, 2], ({ job0 with cut := { state := k } } : Job).cut.state = k) ∧ ({ state := 2 } : Cut).active = true ∧
    ({ state := 4 } : Cut).active = false := by decide +kernel
theorem wit_FabricTags_endpoint : timed.fab.endpoint = some (mgmtP 0#32).dst.toNat ∧ State.reset.fab.endpoint = none := by decide +kernel
/-- What the twin showed is more than 1 s old. -/
def pairsLate : State := { pairsSame with clk := { timebase := 1000000000#64 } }
theorem wit_TwinHampers_late : servesB pairsLate 0x0040 = true ∧ pairsLate.pair.shownAt.toNat + 1000000000 ≤ pairsLate.now.toNat ∧
    ¬(pairsSame.pair.shownAt.toNat + 1000000000 ≤ pairsSame.now.toNat) := by decide +kernel
theorem wit_Captures_undoubted : (pends []).store.lost = none := rfl
/-- A sink that has agreed and waits for its source. -/
def sinkWaits : State :=
  withJ { sinkJob with mirror := { side := some true, agreed := true, twinCtx := 2, item := some ⟨.b, 7, 0⟩, logBase := 0xE00000, logBytes := 0x200000 } }
theorem wit_Deltas_first : (sinkWaits.job 0).mirror.side = some true ∧ (sinkWaits.job 0).mirror.agreed = true ∧
    (sinkWaits.job 0).mirror.confirmed = false ∧ (sinkWaits.job 0).mirror.logDone = none ∧ Safety.NoGuard sinkWaits ∧
    ((sinkHas [] none).job 0).mirror.confirmed = true := ⟨rfl, rfl, rfl, rfl, ⟨rfl, rfl⟩, rfl⟩
/-- The binding admits the gateway, or not, or the tag is gone. -/
def servedB (s : State) : Bool := (s.job 0).binding.any (fun b => decide (b.gateways.1 ≤ (s.job 0).cut.gateway ∧ (s.job 0).cut.gateway ≤ b.gateways.2))
theorem wit_CutCopies_served : servedB (cutting {}) = true ∧ servedB (copiedCut 2) = true ∧
    (∀ b ∈ [none, some { bound0 with gateways := (1, 2) }],
      servedB (withJ { (copiedCut 2).job 0 with binding := b }) = false ∧ (withJ { (copiedCut 2).job 0 with binding := b }).copied 0 = true ∧
      ((withJ { (copiedCut 2).job 0 with binding := b }).job 0).cut.state = 2) := by decide +kernel
/-- A package whose guard area has no slot for what comes. -/
def fullOf (s : State) : State := { s with store := { s.store with guardFull := true } }
theorem wit_RequestsApply_full :
    (let p := fromOne tyStore 2 0x40 0 0 0x200100 [1#8, 2#8]
     newB (fullOf net) tyStore p 0 = true ∧ (net.job 0).cut.active = false ∧
     okAnd (Safety.porch (Safety.landed (fullOf net) 0 p) 0 (fun s => s.writeField 0 0x200100 [1#8, 2#8]))
       (fun _ e => e.store.guardFull) = true) := by decide +kernel
/-- Entry 2 of the table is valid, once. -/
def netOnce : State := fullOf { netTable with store := { mem := [(0xA00040, 3#8)] } }
theorem wit_RequestsApply_full_trigger : newB netOnce tyTrigger (pull 0 2) 0 = true ∧ (netOnce.job 0).heldTriggers = [] ∧
    (let r := (Safety.landed netOnce 0 (pull 0 2)).trigger 0 (pull 0 2)
     r.1 = trigWaits ∧ (r.2.job 0).cut.active = false ∧ (r.2.job 0).flow 1 = ((Safety.landed netOnce 0 (pull 0 2)).job 0).flow 1 ∧
       quietB r.2 0 = true) := by decide +kernel
/-- The fabric waits that a timeout ends: of an operation of its own, of nothing, and of an earlier posted one under `FENCED`. -/
def fenced : Running :=
  { ready .fbStore okResult with stage := .fabric, cmd := { (ready .fbStore okResult).cmd with w := { zword with flags := 16#5 } } }
theorem wit_ResponsesTaken_waits :
    (let s : State := { waitsFor .fbLoad with jobs := [(0, { boundJob with ops := [anOp 1 .waiting false] })] }
     awaitedBy (s.job 0) 0 ≠ [] ∧ waitsForOps (ready .fbLoad okResult).cmd = true) ∧
    awaitedBy ((waitsFor .fbLoad).job 0) 0 = [] ∧ isFenced (ready .fbLoad okResult).cmd = false ∧ isFenced fenced.cmd = true ∧
    (withRun .tm fenced).runningOf 0 .tm = some fenced ∧ awaitedBy ((withRun .tm fenced).job 0) 0 = [] := by decide +kernel
theorem wit_ResponsesTaken_path : ((sentBy 8).job 0).ops.find? (fun o => o.dst = 1 && !o.answered && !o.unreachable && decide (8 ≤ o.attempts)) =
    some (anOp 8 .waiting false) := by decide +kernel
theorem wit_Collectives_status : (collP 0x21 0 0 []).handle ∈ statusCodes ∧ (collP 0x21 0x5003 0 []).handle ∈ statusCodes ∧
    (collP 0x24 0x8000 0 []).handle ∉ statusCodes ∧ arrivesB net 0x24 (collP 0x24 0x8000 0 []) 0 = true ∧
    arrivesB (collJob leaf) 0x21 (collP 0x21 0x8000 0 []) 0 = true ∧ (collJob leaf).store.guardFull = false ∧
    ((collJob leaf).job 0).collOf (collP 0x21 0x8000 0 []) = some leaf := by decide +kernel

end Sys2Proof.Tests
end

