-- ==== Sys2Proof/Proofs/Queue.lean ====
section
/-! SUPPORT. Queue.lean: one step of the block, with a command at the front of the queue and with none. -/

namespace Sys2Proof.Machine

open Sys2Proof Sys2Proof.Safety

variable {s : State}

/-! ## The two kinds of step -/

theorem step_cons {c : Instr} {rest : List Instr} (h : s.pending = c :: rest) :
    step s = exec c { s with pending := rest } := by
  simp only [step, h]

theorem step_nil (h : s.pending = []) : step s = .next s.idle := by
  simp only [step, h]

/-! ## The idle step (log 9) -/

theorem State.fetchTile_eq_none (h : ∀ x ∈ s.tiles, x.2.ready = false) : s.fetchTile = none := by
  simp only [State.fetchTile, Option.map_eq_none_iff, List.find?_eq_none]
  exact fun x hx => by simp only [h x hx, Bool.false_eq_true, not_false_eq_true]

theorem State.idle_fetch {t : Nat} (h : s.fetchTile = some t) : s.idle = s.fetchNext t := by
  simp only [State.idle, h]

theorem State.idle_pass (h : s.fetchTile = none) : s.idle = s.passTime := by
  simp only [State.idle, h]

/-- A word that decodes is the next command. -/
theorem State.fetchNext_decoded {t : Nat} {op : Op} {w : CmdWord}
    (h : decodeWord (s.fetchWord t (s.tile t).nextAddr) = some (op, w)) :
    s.fetchNext t = { s with pending := [streamInstr op t w] } := by
  simp only [State.fetchNext, h]

/-- With no slew under way a tick is one nanosecond and no more (R429). -/
theorem Clock.tick_of_noSlew {c : Clock} (h : c.slew = 0) : c.tick = { c with timebase := c.timebase + 1 } := by
  simp only [Clock.tick, h, decide_true, Bool.or_true, if_true]

theorem State.passTime_powered (hv : s.board.vaux = true) (hp : s.board.pwrok = true) (ht : s.board.thermtrip = false) :
    s.passTime = { s with clk := s.clk.tick, sec := { s.sec with fuse := none } } := by
  simp only [State.passTime, hv, hp, ht, Bool.and_self, Bool.not_false, if_true]

theorem State.passTime_unpowered (hv : s.board.vaux = false) : s.passTime = s.boardActs := by
  simp only [State.passTime, hv, Bool.false_and, Bool.false_eq_true, if_false]

/-- Whatever the board does to the rails and to `THERMTRIP_N`, the clock stands (R471, log 131). -/
theorem State.boardActs_clk : s.boardActs.clk = s.clk := by
  simp only [State.boardActs, State.drawn]
  split
  · rfl
  · split
    · split <;> rfl
    · rfl

/-- Settles O1: the step by the front of the queue. -/
theorem stepRunsFront : Obligations.StepRunsFront :=
  fun _ _ _ h => step_cons h

/-- Settles O2: the idle step fetches where a sequencer is ready, and lets time pass where none is, by the supplies. -/
theorem idleStep : Obligations.IdleStep := by
  refine ⟨fun s t op w hq hf hd => ?_, fun s hq hnone => ⟨fun hs hv hp ht => ?_, fun hv => ?_⟩⟩
  · rw [step_nil hq, State.idle_fetch hf, State.fetchNext_decoded hd]
  · rw [step_nil hq, State.idle_pass (State.fetchTile_eq_none hnone), State.passTime_powered hv hp ht, Clock.tick_of_noSlew hs]
  · refine ⟨s.boardActs, ?_, State.boardActs_clk⟩
    rw [step_nil hq, State.idle_pass (State.fetchTile_eq_none hnone), State.passTime_unpowered hv]

end Sys2Proof.Machine
end

