-- ==== Sys2Proof/Proofs/RegisterPage.lean ====
section
/-! SUPPORT. RegisterPage.lean: what a read of a tile's page gives, at reset and after a write of a register that has neither
a shadow nor a committed field, and the obligations on the state at reset and on the access codes. -/

namespace Sys2Proof.Machine

open Sys2Proof Sys2Proof.Safety

variable {s : State} {t : Nat} {e : Engine} {off : Nat}

/-! ## The registers of a page -/

/-- What is found at an offset is listed, under that engine and offset. -/
theorem regAt_eq_some {r : RegSpec} (h : regAt e off = some r) : r ∈ regSpecs ∧ r.eng = e ∧ r.off = off := by
  have hp := List.find?_some h
  simp only [Bool.and_eq_true, decide_eq_true_eq] at hp
  exact ⟨List.mem_of_find?_eq_some h, hp.1, hp.2⟩

/-- No register stands at the offsets 0x40 to 0x7F, which R491 keeps for showing shadow and staged values. -/
theorem aliasOf_of_regAt {r : RegSpec} (h : regAt e off = some r) : aliasOf e off = none := by
  have hlisted : ∀ r ∈ regSpecs, r.off < 0x40 ∨ 0x80 ≤ r.off := by decide
  obtain ⟨hr, -, rfl⟩ := regAt_eq_some h
  have := hlisted r hr
  rw [aliasOf, if_neg]
  simp only [Bool.and_eq_true, decide_eq_true_eq]
  omega

/-- The registers that show other state of the tile when they are read: `ENG_FLAGS` of the sequencer, which reads 0 (R241),
`SQ_STATE`, `SQ_PEEK` (R242), `ME_QSTAT` and `SE_STAT`. -/
def showsOther (e : Engine) (off : Nat) : Bool :=
  (e == .sq && (off == 0x00 || off == 0x18 || off == 0x30)) || (e == .me && off == 0x28) || (e == .se && off == 0x10)

theorem State.readReg_sequencerFlags : s.readReg t .sq 0x00 = 0#64 := by
  simp only [State.readReg, aliasOf, Nat.le_zero_eq, reduceCtorEq, decide_false, Nat.zero_lt_succ, decide_true,
    Bool.and_true, Bool.false_eq_true, if_false, Bool.and_self, if_true]

theorem State.readReg_sequencerState :
    s.readReg t .sq 0x18 = setField (BitVec.ofNat 64 (s.tile t).seqStateCode) 2 3 (s.tile t).loops.length := by
  simp only [State.readReg, aliasOf, Nat.reduceLeDiff, decide_false, Nat.reduceLT, decide_true, Bool.and_true,
    Bool.false_eq_true, if_false, if_true, reduceCtorEq, Bool.and_false, Bool.and_self, Nat.reduceEqDiff]

theorem State.readReg_peek : s.readReg t .sq 0x30 = s.readSeq t (fieldOf ((s.tile t).reg .sq 0xB0) 0 8) := by
  simp only [State.readReg, aliasOf, Nat.reduceLeDiff, decide_false, Nat.reduceLT, decide_true, Bool.and_true,
    Bool.false_eq_true, if_false, if_true, reduceCtorEq, Bool.and_false, Bool.and_self, Nat.reduceEqDiff]

theorem State.readReg_queueStat : s.readReg t .me 0x28 = setField ((s.tile t).reg .me 0x28) 0 5 (s.tile t).ftq.length := by
  simp only [State.readReg, aliasOf, Nat.reduceLeDiff, decide_false, Nat.reduceLT, decide_true, Bool.and_true,
    Bool.false_eq_true, if_false, if_true, reduceCtorEq, Bool.and_self, Nat.reduceEqDiff]

theorem State.readReg_solverStat : s.readReg t .se 0x10 = s.solverStat (s.tile t) := by
  simp only [State.readReg, aliasOf, Nat.reduceLeDiff, decide_false, Nat.reduceLT, decide_true, Bool.and_true,
    Bool.false_eq_true, if_false, if_true, reduceCtorEq, Bool.and_self, Nat.reduceEqDiff]

/-- Every other register reads as it is stored. -/
theorem State.readReg_stored (ha : aliasOf e off = none) (h : showsOther e off = false) :
    s.readReg t e off = (s.tile t).reg e off := by
  simp only [showsOther, Bool.or_eq_false_iff, Bool.and_eq_false_iff, beq_eq_false_iff_ne] at h
  obtain ⟨⟨hsq, hme⟩, hse⟩ := h
  simp only [State.readReg, ha]
  grind

/-! ## Storing a register -/

/-- A register holds what was stored in it last. -/
@[simp] theorem Tile.reg_setReg_same {x : Tile} {v : BitVec 64} : (x.setReg e off v).reg e off = v := by
  simp only [Tile.reg, Tile.setReg, SMap.get_set_same, BitVec.xor_assoc, BitVec.xor_self, BitVec.xor_zero]

/-- The bits of a register without shadow or committed fields after a write of `v` (R9): the ones written where a field takes
them, and of the rest all but the flags cleared by ones. -/
def RegSpec.written (r : RegSpec) (old v : BitVec 64) : BitVec 64 :=
  (old &&& ~~~(r.mask (· == .rw) ||| (r.mask (· == .w1c) &&& v))) ||| (v &&& r.mask (· == .rw))

/-- A write of a register without shadow or committed fields stores it at once and changes nothing else (R9). -/
theorem State.pageWrite_plain {r : RegSpec} {v : BitVec 64} (hr : regAt e off = some r) (hn : off % 8 = 0)
    (hgen : off ≠ 0xF8) (hflags : ¬(e = .sq ∧ off = 0)) (hsh : r.mask AccessCode.isShadow = 0#64)
    (hsg : r.mask AccessCode.isCommitted = 0#64) (hst : r.fields.any (fun f => f.acc == .rwcStatic) = false)
    (hp : s.pageHere t e = true) :
    s.pageWrite t e off v = s.modTile t (fun x => x.setReg e off (r.written (x.reg e off) v)) := by
  have hnamed : regNamed e off = true := by
    simp only [regNamed, hn, hr, decide_true, Option.isSome_some, Bool.true_or, Bool.and_self]
  have hok : stOK ≠ stBusy := by decide
  have hf : (decide (e = .sq) && decide (off = 0)) = false := by simpa using hflags
  simp only [State.pageWrite, State.writeReg, State.returns, State.modTile, RegSpec.written, hnamed, hr, hgen, hsh, hsg, hst, hp, hok,
    hf, Bool.not_true, Bool.false_and, Bool.false_eq_true, if_true, if_false]

/-! ## The peek selector -/

/-- `SQ_PEEK_SEL` (Table 8.12): one field of 8 bits. -/
def peekSelector : RegSpec := ⟨.sq, 0xB0, [⟨0, 8, .rw, 0⟩]⟩

theorem regAt_peekSelector : regAt .sq 0xB0 = some peekSelector := by decide

/-- A write of the selector takes its field from `v` and keeps every stored bit above it. -/
theorem exec_write_peekSelector {v : BitVec 64} (hp : s.pageHere t .sq = true) :
    exec (.registerWrite (.page t .sq 0xB0) v) s =
      .next (s.modTile t (fun x => x.setReg .sq 0xB0 (peekSelector.written (x.reg .sq 0xB0) v))) :=
  congrArg Host.Outcome.next (State.pageWrite_plain regAt_peekSelector (by decide) (by decide) (by decide) (by decide) (by decide)
    (by decide) hp)

/-- The selector reads as it is stored. -/
theorem readReg_peekSelector : s.readReg t .sq 0xB0 = (s.tile t).reg .sq 0xB0 :=
  State.readReg_stored (aliasOf_of_regAt regAt_peekSelector) (by decide)

/-! ## Reset -/

theorem reset_tile (t : Nat) : State.reset.tile t = {} := rfl

/-- At reset every register is stored at its reset value, as no difference from it is listed. -/
theorem reset_reg : (State.reset.tile t).reg e off = resetOf e off := by
  rw [reset_tile]
  exact BitVec.zero_xor

/-- At reset a register that shows other state reads 0: the sequencer is idle, register 0 is selected, and no loop, no finished
tile and no saved solver command is there. -/
theorem reset_readReg_showsOther (h : showsOther e off = true) : State.reset.readReg t e off = 0#64 := by
  simp only [showsOther, Bool.or_eq_true, Bool.and_eq_true, beq_iff_eq] at h
  rcases h with (⟨rfl, (rfl | rfl) | rfl⟩ | ⟨rfl, rfl⟩) | ⟨rfl, rfl⟩
  · exact State.readReg_sequencerFlags
  · rw [State.readReg_sequencerState, reset_tile]
    decide
  · have hsel : fieldOf (resetOf .sq 0xB0) 0 8 = 0 := by decide
    rw [State.readReg_peek, reset_reg, hsel]
    rfl
  · rw [State.readReg_queueStat, reset_reg, reset_tile]
    decide
  · rw [State.readReg_solverStat, reset_tile]
    decide

/-- The reset values of the registers that show other state. -/
theorem resetOf_showsOther (h : showsOther e off = true) : resetOf e off = 0#64 := by
  simp only [showsOther, Bool.or_eq_true, Bool.and_eq_true, beq_iff_eq] at h
  rcases h with (⟨rfl, (rfl | rfl) | rfl⟩ | ⟨rfl, rfl⟩) | ⟨rfl, rfl⟩ <;> decide

theorem reset_readReg {r : RegSpec} (hr : regAt e off = some r) : State.reset.readReg t e off = r.reset := by
  have hreset : resetOf e off = r.reset := by rw [resetOf, hr]; rfl
  cases h : showsOther e off with
  | true => rw [reset_readReg_showsOther h, ← hreset, resetOf_showsOther h]
  | false => rw [State.readReg_stored (aliasOf_of_regAt hr) h, reset_reg, hreset]

theorem reset_store_byte (c : Bool) (pa : Nat) : State.reset.store.byte c pa = 0#8 := by
  cases c <;> rfl

theorem reset_slot (p : Port) (n : Nat) : State.reset.slot p n = {} := by
  cases p <;> rfl

theorem reset_hearth_bootState (h : Nat) : (State.reset.hearth h).bootState = 0 := by
  unfold State.hearth
  split <;> rfl

/-- Settles O3: every table of the reset state is empty, so each part reads as its default, and each register as its reset
value. -/
theorem resetState : Obligations.ResetState :=
  ⟨rfl, rfl, reset_store_byte, fun _ => rfl, fun _ => ⟨rfl, rfl⟩, fun p n => by rw [reset_slot], rfl, rfl, rfl, rfl,
    reset_hearth_bootState, fun _ _ _ _ hr => reset_readReg hr⟩

/-- Refutes O14, at the clause on the peek selector: it is stated for every state, and in a state whose stored word has a bit
among the reserved ones above the selector's 8 (Table 8.12), the write keeps that bit and the read shows it. Here 0x100 is stored, 0 is
written, and the register reads 0x100. -/
theorem not_registerWrites : ¬ Obligations.RegisterWrites := by
  rintro ⟨⟨hpage, -⟩, -⟩
  obtain ⟨-, hpeek, -⟩ :=
    hpage { State.reset with tiles := [(0, { avail := true, regs := [(0xB0, 0x100#64)] })] } 0 .sq 0#64 rfl
  obtain ⟨u, hu, -, -, hreads, -⟩ := hpeek rfl
  rw [exec_write_peekSelector rfl] at hu
  cases hu
  rw [readReg_peekSelector, State.tile_modTile_same, Tile.reg_setReg_same] at hreads
  exact absurd hreads (by decide)

end Sys2Proof.Machine
end

