-- ==== Sys2Proof/Proofs/Running.lean ====
section
/-! SUPPORT. Running.lean: what replacing the running command of an engine changes and leaves, how a command moves on to a
stage, and what work that meets no memory comes to. -/

namespace Sys2Proof.Machine

open Sys2Proof Sys2Proof.Safety

variable {s u : State} {t q : Nat} {e f : Engine} {run : Running} {x : Option Running} {r : CmdResult}

/-! ## Changes of one tile -/

theorem onlyTile_modTile {g : Tile → Tile} : OnlyTile s (s.modTile t g) t :=
  ⟨rfl, fun _ h => State.tile_modTile_other h⟩

theorem onlyTile_trans {v : State} (h : OnlyTile s u t) (h' : OnlyTile u v t) : OnlyTile s v t := by
  obtain ⟨hu, hut⟩ := h
  obtain ⟨hv, hvt⟩ := h'
  refine ⟨?_, fun q hq => (hvt q hq).trans (hut q hq)⟩
  rw [hv, hu]

/-! ## The running command of an engine -/

/-- Running commands are read through their tile. -/
theorem State.runningOf_congr (h : u.tile t = s.tile t) : u.runningOf t e = s.runningOf t e := by
  rw [State.runningOf, State.runningOf, h]

@[simp] theorem State.setRunning_store : (s.setRunning t e x).store = s.store := rfl
@[simp] theorem State.tile_setRunning_same :
    (s.setRunning t e x).tile t = (s.tile t).setEng e { ((s.tile t).eng e) with running := x } := State.tile_modTile_same
@[simp] theorem State.tile_setRunning_other (h : q ≠ t) : (s.setRunning t e x).tile q = s.tile q := State.tile_modTile_other h
@[simp] theorem State.runningOf_setRunning_same : (s.setRunning t e x).runningOf t e = x := by
  rw [State.runningOf, State.tile_setRunning_same, Tile.eng_setEng_same]
@[simp] theorem State.runningOf_setRunning_otherEngine (h : f ≠ e) : (s.setRunning t e x).runningOf t f = s.runningOf t f := by
  rw [State.runningOf, State.tile_setRunning_same, Tile.eng_setEng_other h, State.runningOf]

theorem onlyTile_setRunning : OnlyTile s (s.setRunning t e x) t := onlyTile_modTile

/-- A command that did not wait to push tiles is done with a result, all the result's passes to run. -/
theorem Running.move_ready (h : run.stage.isQueue = false) :
    run.move (.ready r) [] = { run with stage := .ready r, passesLeft := r.passes } := by
  simp only [Running.move, h, Stage.passes, Stage.isFull, Bool.or_false, List.append_nil, Bool.false_eq_true, if_false]

/-- A command that waited to push tiles is done with a result; of its passes the ones that have run stay run. -/
theorem Running.move_ready_queue (h : run.stage.isQueue = true) :
    run.move (.ready r) [] = { run with stage := .ready r, passesLeft := min run.passesLeft r.passes } := by
  simp only [Running.move, h, Stage.passes, Stage.isFull, Bool.or_false, List.append_nil, if_true]

/-- A forwarding command goes on forwarding. -/
theorem Running.move_forward {n : Nat} (h : run.stage.isQueue = false) :
    run.move (.forward n r) [] = { run with stage := .forward n r, passesLeft := 0 } := by
  simp only [Running.move, h, Stage.passes, Stage.isFull, Bool.or_false, List.append_nil, Bool.false_eq_true, if_false]

/-! ## Work that meets no memory -/

/-- Work that draws no free value is the same under `DET` (R419). -/
theorem State.steady_of_draws_none {α : Type} {j : Nat} {c : EngineCmd} {f : State → α × State} {a : α} {g : State → State}
    (hf : ∀ n, f { s with fresh := n } = (a, g { s with fresh := n }))
    (hg : ∀ n, { g { s with fresh := n } with fresh := s.fresh } = g s) :
    s.steady t j c f = (a, g s) := by
  unfold State.steady
  split
  · simp only [hf, hg]
  · exact hf s.fresh

/-- Watched work that meets no memory leaves no trail where there is none. -/
theorem State.watched_of_meets_none {α : Type} {ag : Agent} {work : State → α × State} {a : α} {u : State}
    (halone : Alone s) (hwork : work s.watch = (a, u)) (hu : u.races = s.watch.races) :
    s.watched ag work = (a, { u with races := s.races }) := by
  obtain ⟨htrails, hnow⟩ := halone
  have hmet : u.met = {} := by rw [State.met, hu]; rfl
  have hbreach : (s.breach ag {}).none = true := by simp [State.breach, htrails, Breach.none]
  simp only [State.watched, hwork, hmet, hbreach, if_true, State.leaveTrail, hu]
  rfl

/-- Where no trail is left no block has been written. -/
theorem State.imagesOf_of_noTrails {s1 : State} {id : Nat} (h : s1.races.trails = []) : s.imagesOf s1 id = [] := by
  rw [State.imagesOf, h, List.find?_nil]

end Sys2Proof.Machine
end

