-- ==== Sys2Proof/Proofs/FinishedTiles.lean ====
section
/-! SUPPORT. FinishedTiles.lean: the finished-tile queue (R127 to R129): the fields of its entries, and what a queued command
pushes into it. -/

namespace Sys2Proof.Machine

open Sys2Proof Sys2Proof.Safety

variable {s : State} {t : Nat} {tag : BitVec 16} {r : CmdResult}

/-! ## Entries (Table 5.6) -/

/-- The tile that an entry names. -/
def ftTile (e : FtEntry) : Nat × Nat × Nat := (ftField e 0 16, ftField e 16 16, ftField e 32 32)

/-- A tile whose numbers fit the fields of an entry. -/
def FitsEntry (x : Nat × Nat × Nat) : Prop := x.1 < 2 ^ 16 ∧ x.2.1 < 2 ^ 16 ∧ x.2.2 < 2 ^ 32

section Entry
variable {a b c : Nat} {st : Status} {last term : Bool}

theorem bit_lt (v : Bool) : bit v < 2 := by cases v <;> decide

theorem ftEntry_toNat : (ftEntry a b c st tag last term).toNat =
    a % 2 ^ 16 + b % 2 ^ 16 * 2 ^ 16 + c % 2 ^ 32 * 2 ^ 32 + st.toNat * 2 ^ 64 + tag.toNat * 2 ^ 80 + bit last * 2 ^ 96 +
      bit term * 2 ^ 97 := by
  have := st.isLt
  have := tag.isLt
  have := bit_lt last
  have := bit_lt term
  rw [ftEntry, BitVec.toNat_ofNat]
  omega

theorem ftTile_ftEntry (ha : a < 2 ^ 16) (hb : b < 2 ^ 16) (hc : c < 2 ^ 32) :
    ftTile (ftEntry a b c st tag last term) = (a, b, c) := by
  have := st.isLt
  simp only [ftTile, ftField, ftEntry_toNat, Prod.mk.injEq]
  omega

theorem ftField_status : ftField (ftEntry a b c st tag last term) 64 16 = st.toNat := by
  have := st.isLt
  rw [ftField, ftEntry_toNat]
  omega

theorem ftField_tag : ftField (ftEntry a b c st tag last term) 80 16 = tag.toNat := by
  have := st.isLt
  have := tag.isLt
  rw [ftField, ftEntry_toNat]
  omega

theorem ftField_last : ftField (ftEntry a b c st tag last term) 96 1 = bit last := by
  have := st.isLt
  have := tag.isLt
  have := bit_lt last
  rw [ftField, ftEntry_toNat]
  omega

theorem ftField_term : ftField (ftEntry a b c st tag last term) 97 1 = bit term := by
  have := st.isLt
  have := tag.isLt
  have := bit_lt last
  have := bit_lt term
  rw [ftField, ftEntry_toNat]
  omega

end Entry

/-! ## One of several taken out -/

section Pick
variable {α : Type} {xs : List α} {k : Nat}

theorem length_others_add_one (h : k < xs.length) : (xs.eraseIdx k).length + 1 = xs.length := by
  rw [List.length_eraseIdx_of_lt h]
  omega

theorem perm_picked_cons_others (h : k < xs.length) : (xs[k] :: xs.eraseIdx k).Perm xs := by
  induction xs generalizing k with
  | nil => exact absurd h (Nat.not_lt_zero k)
  | cons x xs ih =>
    cases k with
    | zero => exact .refl _
    | succ k => exact (List.Perm.swap x _ _).trans ((ih (Nat.lt_of_succ_lt_succ h)).cons x)

end Pick

/-! ## What is pushed -/

/-- Entries that name tiles once each, in some order, all with status `OK` and the command's tag, none terminal and exactly the
last one marked (R127). -/
structure EntriesOf (tag : BitVec 16) (tiles : List (Nat × Nat × Nat)) (es : List FtEntry) : Prop where
  perm : (es.map ftTile).Perm tiles
  fields : ∀ i e, es[i]? = some e → ftField e 64 16 = 0 ∧ ftField e 80 16 = tag.toNat ∧ ftField e 97 1 = 0 ∧
    (ftField e 96 1 = 1 ↔ i + 1 = tiles.length)

/-- The entry of a finished tile. -/
def doneEntry (tag : BitVec 16) (last : Bool) (x : Nat × Nat × Nat) : FtEntry := ftEntry x.1 x.2.1 x.2.2 stOK tag last false

theorem ftTile_doneEntry {last : Bool} {x : Nat × Nat × Nat} (h : FitsEntry x) : ftTile (doneEntry tag last x) = x := by
  obtain ⟨h1, h2, h3⟩ := h
  exact ftTile_ftEntry h1 h2 h3

theorem fields_doneEntry {last : Bool} {x : Nat × Nat × Nat} : ftField (doneEntry tag last x) 64 16 = 0 ∧
    ftField (doneEntry tag last x) 80 16 = tag.toNat ∧ ftField (doneEntry tag last x) 97 1 = 0 ∧
    ftField (doneEntry tag last x) 96 1 = bit last :=
  ⟨ftField_status, ftField_tag, ftField_term, ftField_last⟩

/-- The entry of the only tile left, marked. -/
theorem EntriesOf.last {left : List (Nat × Nat × Nat)} {k : Nat} (hk : k < left.length) (h : FitsEntry left[k])
    (hrest : left.eraseIdx k = []) : EntriesOf tag left [doneEntry tag true left[k]] where
  perm := by
    rw [List.map_singleton, ftTile_doneEntry h, ← hrest]
    exact perm_picked_cons_others hk
  fields i e he := by
    have hlen : (left.eraseIdx k).length + 1 = left.length := length_others_add_one hk
    obtain ⟨hi, rfl⟩ := List.getElem?_eq_some_iff.1 he
    obtain rfl : i = 0 := by simpa using hi
    obtain ⟨hst, htag, hterm, hlast⟩ := fields_doneEntry (tag := tag) (last := true) (x := left[k])
    exact ⟨hst, htag, hterm, by simpa [hlast, bit, hrest] using hlen⟩

/-- The entry of one of several tiles left, not marked, and then the entries of the others. -/
theorem EntriesOf.pick {left : List (Nat × Nat × Nat)} {es : List FtEntry} {k : Nat} (hk : k < left.length)
    (h : FitsEntry left[k]) (hrest : left.eraseIdx k ≠ []) (hes : EntriesOf tag (left.eraseIdx k) es) :
    EntriesOf tag left (doneEntry tag false left[k] :: es) where
  perm := by
    rw [List.map_cons, ftTile_doneEntry h]
    exact (hes.perm.cons _).trans (perm_picked_cons_others hk)
  fields i e he := by
    have hlen : (left.eraseIdx k).length + 1 = left.length := length_others_add_one hk
    cases i with
    | zero =>
      obtain rfl : doneEntry tag false left[k] = e := by simpa using he
      obtain ⟨hst, htag, hterm, hlast⟩ := fields_doneEntry (tag := tag) (last := false) (x := left[k])
      have hmore := List.length_pos_iff.2 hrest
      have hunmarked : bit false = 0 := rfl
      exact ⟨hst, htag, hterm, by rw [hlast, hunmarked]; omega⟩
    | succ i =>
      obtain ⟨hst, htag, hterm, hlast⟩ := hes.fields i e (by simpa using he)
      exact ⟨hst, htag, hterm, hlast.trans (by omega)⟩

/-! ## Pushing -/

/-- Between two states a tile's queue has taken some entries, and free values were drawn; nothing else has changed. -/
structure Pushed (s u : State) (t : Nat) (es : List FtEntry) : Prop where
  tile : u.tile t = { s.tile t with ftq := (s.tile t).ftq ++ es }
  others : ∀ q, q ≠ t → u.tile q = s.tile q
  frame : u = { s with tiles := u.tiles, fresh := u.fresh }

/-- A queue that takes the entry of a tile that a free value has picked. -/
def State.pushEntry (s : State) (t : Nat) (e : FtEntry) : State :=
  (s.modTile t (fun x => { x with ftq := x.ftq ++ [e] })).drawn

theorem pushed_pushEntry {e : FtEntry} : Pushed s (s.pushEntry t e) t [e] where
  tile := (State.tile_congr State.drawn_tiles t).trans State.tile_modTile_same
  others q h := (State.tile_congr State.drawn_tiles q).trans (State.tile_modTile_other h)
  frame := rfl

theorem Pushed.cons {u v : State} {e : FtEntry} {es : List FtEntry} (h : Pushed s u t [e]) (h' : Pushed u v t es) :
    Pushed s v t (e :: es) where
  tile := by rw [h'.tile, h.tile, List.append_assoc, List.singleton_append]
  others q hq := (h'.others q hq).trans (h.others q hq)
  frame := by rw [h'.frame, h.frame]

/-- The place of the tile that the next free value picks. -/
def State.pickOf (s : State) (left : List (Nat × Nat × Nat)) : Nat := s.freeWord.toNat % left.length

theorem State.pickOf_lt {left : List (Nat × Nat × Nat)} (h : left ≠ []) : s.pickOf left < left.length :=
  Nat.mod_lt _ (List.length_pos_iff.2 h)

/-- With no room nothing is pushed. -/
theorem State.pushTiles_full {more : Bool} {fuel : Nat} {left : List (Nat × Nat × Nat)} (h : 16 ≤ (s.tile t).ftq.length) :
    State.pushTiles t tag r more fuel left s = (left, false, s) := by
  cases fuel with
  | zero => rfl
  | succ fuel => rw [State.pushTiles, if_pos h]

/-- With room the picked tile is pushed: as the last one it ends the pushing, otherwise the others follow. -/
theorem State.pushTiles_pick {fuel : Nat} {left : List (Nat × Nat × Nat)} (hroom : (s.tile t).ftq.length < 16)
    (hr : r.outcome ≠ .failed) (hk : s.pickOf left < left.length) :
    State.pushTiles t tag r false (fuel + 1) left s =
      if left.eraseIdx (s.pickOf left) = [] then ([], true, s.pushEntry t (doneEntry tag true left[s.pickOf left]))
      else State.pushTiles t tag r false fuel (left.eraseIdx (s.pickOf left))
        (s.pushEntry t (doneEntry tag false left[s.pickOf left])) := by
  have hne : left.isEmpty = false := by
    rw [List.isEmpty_eq_false_iff]
    exact List.length_pos_iff.1 (Nat.zero_lt_of_lt hk)
  have hgo : (r.outcome != .failed) = true := by simpa using hr
  have hget : left.getD (s.pickOf left) (0, 0, 0) = left[s.pickOf left] := (List.getElem_eq_getD _).symm
  have hpick : s.freeWord.toNat % left.length = s.pickOf left := rfl
  rw [State.pushTiles, if_neg (Nat.not_le.2 hroom)]
  simp only [hne, hpick, hget, hgo, Bool.false_eq_true, if_false, Bool.not_false, Bool.and_true, List.isEmpty_iff]
  by_cases hrest : left.eraseIdx (s.pickOf left) = []
  · simp only [hrest, if_true, List.isEmpty_nil]
    rfl
  · rw [if_neg hrest, if_neg hrest, List.isEmpty_eq_false_iff.2 hrest]
    rfl

/-- With room for all of them every tile is pushed. -/
theorem State.pushTiles_all {fuel : Nat} {left : List (Nat × Nat × Nat)} (hr : r.outcome ≠ .failed) (hne : left ≠ [])
    (hfit : ∀ x ∈ left, FitsEntry x) (hroom : (s.tile t).ftq.length + left.length ≤ 16) (hfuel : left.length ≤ fuel) :
    ∃ es u, State.pushTiles t tag r false fuel left s = ([], true, u) ∧ EntriesOf tag left es ∧ Pushed s u t es := by
  induction fuel generalizing s left with
  | zero => exact absurd (List.length_pos_iff.2 hne) (Nat.not_lt.2 hfuel)
  | succ fuel ih =>
    have hk := s.pickOf_lt hne
    have hpick := hfit _ (List.getElem_mem hk)
    have hlen := length_others_add_one hk
    rw [State.pushTiles_pick (by omega) hr hk]
    by_cases hrest : left.eraseIdx (s.pickOf left) = []
    · rw [if_pos hrest]
      exact ⟨_, _, rfl, EntriesOf.last hk hpick hrest, pushed_pushEntry⟩
    · rw [if_neg hrest]
      have hone := pushed_pushEntry (s := s) (t := t) (e := doneEntry tag false left[s.pickOf left])
      obtain ⟨es, u, hpush, hes, hu⟩ := ih (s := s.pushEntry t (doneEntry tag false left[s.pickOf left])) hrest
        (fun x hx => hfit x (List.mem_of_mem_eraseIdx hx)) (by rw [hone.tile, List.length_append, List.length_singleton]; omega)
        (by omega)
      exact ⟨_, u, hpush, hes.pick hk hpick hrest, hone.cons hu⟩

/-! ## The stage after pushing -/

/-- A queued command that pushes all its tiles is done. -/
theorem State.queueStage_all {left : List (Nat × Nat × Nat)} (hr : r.outcome ≠ .failed) (hne : left ≠ [])
    (hfit : ∀ x ∈ left, FitsEntry x) (hroom : (s.tile t).ftq.length + left.length ≤ 16) :
    ∃ es u, s.queueStage t left [] tag r = (.ready r, u) ∧ EntriesOf tag left es ∧ Pushed s u t es := by
  obtain ⟨es, u, hpush, hes, hu⟩ := State.pushTiles_all (tag := tag) hr hne hfit hroom (Nat.le_succ _)
  refine ⟨es, u, ?_, hes, hu⟩
  simp only [State.queueStage, List.isEmpty_nil, Bool.not_true, hpush, if_true]

/-- With no room a queued command waits on as it was. -/
theorem State.queueStage_full {left late : List (Nat × Nat × Nat)} (h : 16 ≤ (s.tile t).ftq.length) :
    s.queueStage t left late tag r = (.queue left late r, s) := by
  simp only [State.queueStage, State.pushTiles_full h, Bool.false_eq_true, if_false]

end Sys2Proof.Machine
end

