-- ==== Sys2Proof/Proofs/Continues.lean ====
section
/-! SUPPORT. Continues.lean: the commands that wait for the finished-tile queue (R127 to R129), the forwarding buffer (R153),
and a deadline (R329), each taken up by its event. -/

namespace Sys2Proof.Machine

open Sys2Proof Sys2Proof.Safety

variable {s : State} {t : Nat} {run : Running} {r : CmdResult}

/-! ## QUEUE_RESUME (R127, R129) -/

theorem exec_queueResume {left late : List (Nat × Nat × Nat)} (hrun : s.runningOf t .me = some run)
    (hst : run.stage = .queue left late r) : exec (.queueResume t) s =
      .next ((s.queueStage t left late run.cmd.w.tag r).2.putStage t .me run (s.queueStage t left late run.cmd.w.tag r).1) := by
  change execQueueResume t s = _
  simp only [execQueueResume, hrun, hst]

/-- A queued command whose tiles have all been pushed, and that is done. -/
theorem Pushed.pushesAll {u : State} {left : List (Nat × Nat × Nat)} {es : List FtEntry} (h : Pushed s u t es)
    (hes : EntriesOf run.cmd.w.tag left es) (hq : run.stage.isQueue = true) :
    Safety.PushesAll s (u.putStage t .me run (.ready r)) t left run r (min run.passesLeft r.passes) := by
  have hput : u.putStage t .me run (.ready r) =
      u.setRunning t .me (some { run with stage := .ready r, passesLeft := min run.passesLeft r.passes }) := by
    rw [State.putStage, Running.move_ready_queue hq]
  rw [hput]
  refine ⟨es, hes.perm, hes.fields, ?_, fun q hq => ?_, ?_⟩
  · rw [State.tile_setRunning_same, h.tile]
    rfl
  · rw [State.tile_setRunning_other hq, h.others q hq]
  · rw [onlyTile_setRunning.1, h.frame]

/-- With no room the command keeps its tiles and has waited for a full queue. -/
theorem Running.move_full {left late : List (Nat × Nat × Nat)} (hst : run.stage = .queue left late r) (hne : left ≠ []) :
    run.move (.queue left late r) [] = { run with passesLeft := min run.passesLeft r.passes, full := true } := by
  obtain ⟨x, xs, rfl⟩ := List.exists_cons_of_ne_nil hne
  simp only [Running.move, ← hst, List.append_nil]
  simp only [hst, Stage.isQueue, Stage.passes, Stage.isFull, if_true, Bool.or_true]

theorem queueResume_pushes {left : List (Nat × Nat × Nat)} (hrun : s.runningOf t .me = some run)
    (hst : run.stage = .queue left [] r) (hr : r.outcome ≠ .failed) (hne : left ≠ []) (hfit : ∀ x ∈ left, FitsEntry x)
    (hroom : (s.tile t).ftq.length + left.length ≤ 16) :
    ∃ u, exec (.queueResume t) s = .next u ∧ Safety.PushesAll s u t left run r (min run.passesLeft r.passes) := by
  obtain ⟨es, u, hstage, hes, hu⟩ := State.queueStage_all (tag := run.cmd.w.tag) hr hne hfit hroom
  refine ⟨_, exec_queueResume hrun hst, ?_⟩
  rw [hstage]
  exact hu.pushesAll hes (by rw [hst]; rfl)

theorem queueResume_waits {left late : List (Nat × Nat × Nat)} (hrun : s.runningOf t .me = some run)
    (hst : run.stage = .queue left late r) (hne : left ≠ []) (hfull : 16 ≤ (s.tile t).ftq.length) :
    ∃ u, exec (.queueResume t) s = .next u ∧ OnlyTile s u t ∧ (u.tile t).ftq = (s.tile t).ftq ∧
      u.runningOf t .me = some { run with passesLeft := min run.passesLeft r.passes, full := true } := by
  refine ⟨_, exec_queueResume hrun hst, ?_⟩
  rw [State.queueStage_full hfull, State.putStage, Running.move_full hst hne]
  refine ⟨onlyTile_setRunning, ?_, State.runningOf_setRunning_same⟩
  rw [State.tile_setRunning_same]
  rfl

/-! ## EPI_TILE at a terminal entry (R190) -/

/-- An epilogue's result at a terminal entry: as it stands where the entry carries `OK`, else DONE_PARTIAL. -/
def terminalResult (e : FtEntry) (r : CmdResult) : CmdResult :=
  if ftField e 64 16 = 0 then r else { r with outcome := .donePartial, status := stPartial }

theorem terminalResult_passes {e : FtEntry} : (terminalResult e r).passes = r.passes := by
  unfold terminalResult
  split <;> rfl

/-- A tile whose queue holds what is left of it. -/
def State.popTo (s : State) (t : Nat) (rest : List FtEntry) : State := s.modTile t (fun y => { y with ftq := rest })

/-- With nothing gathered for a calibrated Y the close writes nothing. -/
theorem State.epiClose_none {j : Nat} {c : EngineCmd} (h : (s.tile t).epi = none) : s.epiClose t j c r = .ok (.ready r) s := by
  unfold State.epiClose
  rw [h]
  cases c.s3.desc <;> rfl

theorem State.epiTile_terminal {j done : Nat} {c : EngineCmd} {e : FtEntry} {rest : List FtEntry} {d x : Desc}
    (hq : (s.tile t).ftq = e :: rest) (hterm : ftField e 97 1 = 1) (hepi : (s.tile t).epi = none) (hd : c.s3.desc = some d)
    (hx : c.s0.desc = some x) : s.epiTile t j c done r = (.ready (terminalResult e r), s.popTo t rest) := by
  have hclose : ((s.popTo t rest).tile t).epi = none := by rw [State.popTo, State.tile_modTile_same, hepi]
  simp only [State.epiTile, hq, hd, hx, hterm, if_true]
  change Access.stage (((s.popTo t rest).epiClose t j c (terminalResult e r)).keeping (terminalResult e r).flags) = _
  rw [State.epiClose_none hclose]
  rfl

theorem exec_epiTile_ready {s1 : State} {done : Nat} {q : CmdResult} (hrun : s.runningOf t .ve = some run)
    (hst : run.stage = .epilogue done r) (hne : (s.tile t).ftq ≠ [])
    (hwork : s.watched (run.cmd.agent t) (fun s' => s'.steady t (s.tile t).jobOf run.cmd
      (fun s' => s'.epiTile t (s.tile t).jobOf run.cmd done r)) = (.ready q, s1)) (hfull : s1.store.guardFull = false) :
    exec (.epiTile t) s = .next (s.workedTo s1 t .ve run (.ready q)) := by
  change execEpiTile t s = _
  simp only [execEpiTile, hrun, hst, List.isEmpty_eq_false_iff.2 hne, hwork, hfull, Bool.false_eq_true, if_false]

theorem epiTile_ends {done : Nat} {e : FtEntry} {rest : List FtEntry} {d x : Desc} (hrun : s.runningOf t .ve = some run)
    (hst : run.stage = .epilogue done r) (hq : (s.tile t).ftq = e :: rest) (hterm : ftField e 97 1 = 1)
    (hepi : (s.tile t).epi = none) (hd : run.cmd.s3.desc = some d) (hx : run.cmd.s0.desc = some x) (halone : Alone s)
    (hfull : s.store.guardFull = false) :
    exec (.epiTile t) s = .next ((s.popTo t rest).setRunning t .ve
      (some { run with passesLeft := r.passes, stage := .ready (terminalResult e r) })) := by
  have hsteady : s.watch.steady t (s.tile t).jobOf run.cmd (fun s' => s'.epiTile t (s.tile t).jobOf run.cmd done r) =
      (.ready (terminalResult e r), s.watch.popTo t rest) :=
    State.steady_of_draws_none (g := fun s => s.popTo t rest) (fun _ => State.epiTile_terminal hq hterm hepi hd hx) (fun _ => rfl)
  have hmove : run.move (.ready (terminalResult e r)) [] =
      { run with passesLeft := r.passes, stage := .ready (terminalResult e r) } := by
    rw [Running.move_ready (by rw [hst]; rfl), terminalResult_passes]
  have hwatched : s.watched (run.cmd.agent t) (fun s' => s'.steady t (s.tile t).jobOf run.cmd
      (fun s' => s'.epiTile t (s.tile t).jobOf run.cmd done r)) = (.ready (terminalResult e r), s.popTo t rest) :=
    State.watched_of_meets_none (u := s.watch.popTo t rest) halone hsteady rfl
  have hnoTrails : (s.popTo t rest).races.trails = [] := halone.1
  rw [exec_epiTile_ready hrun hst (by rw [hq]; exact List.cons_ne_nil _ _) hwatched hfull, State.workedTo,
    State.imagesOf_of_noTrails hnoTrails, hmove]

/-! ## FORWARD_RESUME (R153) -/

/-- Nothing takes forwarded values while no vector command runs. -/
theorem State.takeForwarded_none (h : s.runningOf t .ve = none) : s.takeForwarded t = s := by
  rw [State.takeForwarded, h]

/-- The groups that the buffer of 64 has room for. -/
def roomFor (x : Tile) (groups : List (List (BitVec 64))) (next : Nat) : List (List (BitVec 64)) :=
  (groups.drop next).take (64 - x.fwd.length)

/-- The state with further groups in the buffer. -/
def State.buffer (s : State) (t : Nat) (now : List (List (BitVec 64))) : State :=
  s.setTile t { s.tile t with fwd := (s.tile t).fwd ++ now }

theorem State.dsuForward_ok {s' : State} {j next : Nat} {c : EngineCmd} {rs : List Result}
    (h : s.dsuResults j c = .ok (rs, none) s') :
    s.dsuForward t j c next r =
      let groups := groupsOf (forwardValues c.w.mode rs).1
      let now := roomFor (s'.tile t) groups next
      (if groups.length ≤ next + now.length then .ready r else .forward (next + now.length) r, s'.buffer t now) := by
  rw [State.dsuForward, h]
  rfl

theorem exec_forwardResume {next : Nat} (hve : s.runningOf t .ve = none) (hrun : s.runningOf t .dsu = some run)
    (hst : run.stage = .forward next r) :
    exec (.forwardResume t) s =
      .next (((s.dsuForward t (s.tile t).jobOf run.cmd next r).2.putStage t .dsu run
        (s.dsuForward t (s.tile t).jobOf run.cmd next r).1).takeForwarded t) := by
  change execForwardResume t s = _
  simp only [execForwardResume, State.takeForwarded_none hve, hrun, hst]

/-- A forwarding command after it has put groups in the buffer. -/
theorem Running.move_forwarded {p : Prop} [Decidable p] {n : Nat} (h : run.stage.isQueue = false) :
    run.move (if p then .ready r else .forward n r) [] =
      { run with stage := if p then .ready r else .forward n r, passesLeft := if p then r.passes else 0 } := by
  split
  · exact Running.move_ready h
  · exact Running.move_forward h

theorem forwardResume_buffers {s' : State} {next : Nat} {rs : List Result} (hrun : s.runningOf t .dsu = some run)
    (hve : s.runningOf t .ve = none) (hst : run.stage = .forward next r)
    (hrs : s.dsuResults (s.tile t).jobOf run.cmd = .ok (rs, none) s') (htile : s'.tile t = s.tile t) :
    let groups := groupsOf (forwardValues run.cmd.w.mode rs).1
    let now := roomFor (s.tile t) groups next
    ∃ u, exec (.forwardResume t) s = .next u ∧ (u.tile t).fwd = (s.tile t).fwd ++ now ∧
      u.runningOf t .dsu = some { run with
        stage := if groups.length ≤ next + now.length then .ready r else .forward (next + now.length) r
        passesLeft := if groups.length ≤ next + now.length then r.passes else 0 } ∧ u.store = s'.store := by
  intro groups now
  have hbuf : (s'.buffer t now).tile t = { s.tile t with fwd := (s.tile t).fwd ++ now } := by
    rw [State.buffer, State.tile_setTile_same, htile]
  have hidle : ∀ v, ((s'.buffer t now).setRunning t .dsu v).runningOf t .ve = none := fun v => by
    rw [State.runningOf_setRunning_otherEngine (by decide), State.runningOf, hbuf]
    exact hve
  refine ⟨_, exec_forwardResume hve hrun hst, ?_⟩
  simp only [State.dsuForward_ok hrs, htile, State.putStage, Running.move_forwarded (run := run) (by rw [hst]; rfl)]
  rw [State.takeForwarded_none (hidle _)]
  refine ⟨?_, State.runningOf_setRunning_same, rfl⟩
  rw [State.tile_setRunning_same, hbuf]
  rfl

/-! ## WAIT_DEADLINE_PASSED (R329) -/

theorem exec_waitDeadlinePassed_idle (h : s.runningOf t .tm = none) : exec (.waitDeadlinePassed t) s = .next s := by
  change execWaitDeadlinePassed t s = _
  rw [execWaitDeadlinePassed, h]

theorem exec_waitDeadlinePassed_waits (hrun : s.runningOf t .tm = some run) (hst : run.stage = .fabric)
    (hop : run.cmd.op = .fbWait ∨ run.cmd.op = .fbRecv) (hd : run.cmd.w.dsel ≠ 0#8) :
    exec (.waitDeadlinePassed t) s = .next ((s.passTo run.cmd.deadline).rework t .tm run) := by
  have hwaits : (run.stage == .fabric && (run.cmd.op == .fbWait || run.cmd.op == .fbRecv) && run.cmd.w.dsel ≠ 0#8) = true := by
    rcases hop with hop | hop <;> simp [hst, hop, hd]
  change execWaitDeadlinePassed t s = _
  simp only [execWaitDeadlinePassed, hrun, hwaits, if_true]

/-- Time passes to a deadline that lies ahead, and stands at one that has passed. -/
theorem State.passTo_now {d : BitVec 64} : (s.passTo d).now.toNat = max s.now.toNat d.toNat := by
  change (if s.now.ult d then d else s.now).toNat = _
  by_cases h : s.now.toNat < d.toNat
  · rw [if_pos (BitVec.ult_iff_lt.2 h), Nat.max_eq_right (Nat.le_of_lt h)]
  · rw [if_neg (fun hlt => h (BitVec.ult_iff_lt.1 hlt)), Nat.max_eq_left (Nat.not_lt.1 h)]

/-- Settles O19: each event's work has one outcome under the clause's hypotheses; the pushing of the tiles is an induction over
the tiles left. -/
theorem engineContinues : Obligations.EngineContinues := by
  refine ⟨⟨fun s t run left r => queueResume_pushes, fun s t run left late r => queueResume_waits, ?_⟩, ?_, ?_⟩
  · intro s t run done r e rest d x hrun hst hq hterm hepi hd hx halone hfull
    refine ⟨_, epiTile_ends hrun hst hq hterm hepi hd hx halone hfull, onlyTile_trans onlyTile_modTile onlyTile_setRunning, ?_,
      State.runningOf_setRunning_same⟩
    rw [State.tile_setRunning_same, State.popTo, State.tile_modTile_same]
    rfl
  · exact fun s s' t next run r rs hrun hve hst hrs htile => forwardResume_buffers hrun hve hst hrs htile
  · exact fun s t => ⟨fun run hrun hst hop hd => ⟨s.passTo run.cmd.deadline, _,
      exec_waitDeadlinePassed_waits hrun hst hop hd, rfl, State.passTo_now, rfl⟩, exec_waitDeadlinePassed_idle⟩

end Sys2Proof.Machine
end

