-- ==== Sys2Proof/Proofs/Cascades.lean ====
section
/-! SUPPORT. Cascades.lean: the start of a cascade over its members (R135, R136, R140). -/

namespace Sys2Proof.Machine

open Sys2Proof Sys2Proof.Safety

variable {s : State} {e : Engine} {die cid t : Nat} {r : Running} {ts : List Nat}

/-! ## The members of a cascade -/

theorem nodup_maskTiles {mask : Nat} : (s.maskTiles die mask).Nodup :=
  List.Pairwise.map _ (fun _ _ hne h => hne (Nat.add_left_cancel h)) (List.Pairwise.filter _ List.nodup_range)

theorem nodup_membersOf (h : ts.Nodup) : (membersOf t ts).Nodup := by
  rw [membersOf, List.nodup_cons]
  exact ⟨fun ht => by simpa using (List.mem_filter.1 ht).2, h.filter _⟩

/-- A master that waits names each of its members once. -/
theorem nodup_of_mem_cascadeMasters {b : Bool} (h : (t, r, ts, b) ∈ s.cascadeMasters e die cid) : ts.Nodup := by
  obtain ⟨q, -, hq⟩ := List.mem_filterMap.1 h
  split at hq
  · obtain ⟨x, -, hx⟩ := Option.map_eq_some_iff.1 hq
    obtain ⟨-, -, rfl, -⟩ := hx
    exact nodup_membersOf nodup_maskTiles
  · cases hq

/-! ## Changes along a list of tiles -/

/-- Tiles of a list changed one after another, each by its number. -/
def State.modTiles (s : State) (g : Nat → Tile → Tile) (ts : List Nat) : State := ts.foldl (fun s q => s.modTile q (g q)) s

theorem State.modTiles_frame {g : Nat → Tile → Tile} : s.modTiles g ts = { s with tiles := (s.modTiles g ts).tiles } := by
  induction ts generalizing s with
  | nil => rfl
  | cons q ts ih => exact (ih (s := s.modTile q (g q))).trans rfl

theorem State.tile_modTiles_other {g : Nat → Tile → Tile} {q : Nat} (h : q ∉ ts) : (s.modTiles g ts).tile q = s.tile q := by
  induction ts generalizing s with
  | nil => rfl
  | cons p ts ih =>
    obtain ⟨hp, hts⟩ := not_or.1 (fun h' => h (List.mem_cons.2 h'))
    exact (ih (s := s.modTile p (g p)) hts).trans (State.tile_modTile_other hp)

theorem State.tile_modTiles_mem {g : Nat → Tile → Tile} {q : Nat} (hnd : ts.Nodup) (h : q ∈ ts) :
    (s.modTiles g ts).tile q = g q (s.tile q) := by
  induction ts generalizing s with
  | nil => cases h
  | cons p ts ih =>
    obtain ⟨hp, hts⟩ := List.nodup_cons.1 hnd
    change ((s.modTile p (g p)).modTiles g ts).tile q = _
    rcases List.mem_cons.1 h with rfl | hq
    · rw [State.tile_modTiles_other hp, State.tile_modTile_same]
    · rw [ih hts hq, State.tile_modTile_other (fun he => hp (by rwa [← he]))]

/-! ## The cascade registers (Tables 5.12, 6.15) -/

/-- A tile showing its role in a started cascade: 1 for the master's, 2 for a member's. -/
def roleShown (e : Engine) (cid t mask q : Nat) (x : Tile) : Tile := x.showCascade e cid (if q = t then 1 else 2) mask

theorem Tile.setReg_avail {x : Tile} {f : Engine} {off : Nat} {v : BitVec 64} : (x.setReg f off v).avail = x.avail := rfl

theorem Tile.setReg_eng {x : Tile} {f g : Engine} {off : Nat} {v : BitVec 64} : (x.setReg f off v).eng g = x.eng g := rfl

theorem Tile.showCascade_avail {x : Tile} {role mask : Nat} : (x.showCascade e cid role mask).avail = x.avail := by
  unfold Tile.showCascade
  split
  · rfl
  · exact Tile.setReg_avail

theorem Tile.showCascade_eng {x : Tile} {f : Engine} {role mask : Nat} : (x.showCascade e cid role mask).eng f = x.eng f := by
  unfold Tile.showCascade
  split
  · rfl
  · exact Tile.setReg_eng

/-- The state in which a cascade starts: its tiles show their roles. -/
def State.showRoles (s : State) (e : Engine) (cid t mask : Nat) (ts : List Nat) : State := s.modTiles (roleShown e cid t mask) ts

section Roles
variable {mask q : Nat}

theorem State.tile_showRoles_mem (hnd : ts.Nodup) (h : q ∈ ts) :
    (s.showRoles e cid t mask ts).tile q = (s.tile q).showCascade e cid (if q = t then 1 else 2) mask :=
  State.tile_modTiles_mem hnd h

/-- Showing its role leaves a tile in or out of service. -/
theorem State.showRoles_avail (hnd : ts.Nodup) : ((s.showRoles e cid t mask ts).tile q).avail = (s.tile q).avail := by
  by_cases h : q ∈ ts
  · rw [State.tile_showRoles_mem hnd h, Tile.showCascade_avail]
  · rw [State.showRoles, State.tile_modTiles_other h]

/-- Showing its role leaves a tile's commands. -/
theorem State.showRoles_runningOf {f : Engine} (hnd : ts.Nodup) :
    (s.showRoles e cid t mask ts).runningOf q f = s.runningOf q f := by
  by_cases h : q ∈ ts
  · rw [State.runningOf, State.tile_showRoles_mem hnd h, Tile.showCascade_eng, State.runningOf]
  · exact State.runningOf_congr (State.tile_modTiles_other h)

end Roles

/-! ## What CASCADE_START comes to -/

theorem exec_cascadeStart : exec (.cascadeStart e die cid) s = .next (s.startCascade e die cid) := rfl

theorem State.startCascade_active (h : s.cascadeActive e die cid = true) : s.startCascade e die cid = s := by
  rw [State.startCascade, if_pos h]

theorem State.startCascade_waits (h : (s.cascadeMasters e die cid).find? (fun m => m.2.2.2) = none) :
    s.startCascade e die cid = s := by
  rw [State.startCascade, h]
  exact ite_self s

section Start
variable {b : Bool} (hactive : s.cascadeActive e die cid = false)
  (hfirst : (s.cascadeMasters e die cid).find? (fun m => m.2.2.2) = some (t, r, ts, b))
include hactive hfirst

/-- A master whose members have all come, of which one is lost: the others fail (R135). -/
theorem State.startCascade_lost :
    let d := s.showRoles e cid t (cascMask (s.cascadeCmd t r.cmd)) ts
    (∃ q ∈ ts, (d.tile q).avail = false) → s.startCascade e die cid =
      d.failCascade e t (d.cascadeCmd t r.cmd) (ts.filter (fun q => (d.tile q).avail)) stTileLost := by
  intro d hlost
  have hany : ts.any (fun q => !(d.tile q).avail) = true := by simpa using hlost
  rw [State.startCascade, hactive, hfirst]
  exact if_pos hany

/-- A master whose members are all there: it starts, by its engine, where the guard area has room. -/
theorem State.startCascade_starts :
    let d := s.showRoles e cid t (cascMask (s.cascadeCmd t r.cmd)) ts
    let u := if e = .se then d.startSolverCascade t r ts else d.startMatCascade t e r ts
    (∀ q ∈ ts, (d.tile q).avail = true) → u.store.guardFull = false → s.startCascade e die cid = u := by
  intro d u hall hroom
  have hany : ts.any (fun q => !(d.tile q).avail) = false := by simpa using hall
  rw [State.startCascade, hactive, hfirst]
  exact (if_neg (Bool.eq_false_iff.1 hany)).trans (if_neg (Bool.eq_false_iff.1 hroom))

end Start

/-! ## The commands of a DMM cascade with a lost member (R135, R140) -/

/-- A command that has failed with a status, no address and no passes. -/
def Running.lostWith (x : Running) (st : Status) : Running := { x with stage := .ready (failResult st 0), passesLeft := 0 }

/-- A DMM command that waits for its cascade fails as it is, with no flags and no skipped blocks. -/
theorem State.failRunning_dmm {x : Running} {lead : EngineCmd} {queued : Bool} {st : Status} (heng : x.cmd.op.engine = .de)
    (hst : x.stage = .cascade) : s.failRunning t .de x lead queued st 0 =
      s.setRunning t .de (some (x.lostWith st)) := by
  have hstage : ((Stage.ready (failResult st 0)).raise x.stage.flags).writing [] = .ready (failResult st 0) := by
    simp only [hst, Stage.flags, Stage.raise, Stage.writing, BitVec.or_zero, List.append_nil]
  have hmove : x.move (.ready (failResult st 0)) [] = x.lostWith st :=
    Running.move_ready (by rw [hst]; rfl)
  simp only [State.failRunning, State.failStage, heng, reduceCtorEq, decide_false, Bool.false_and, Bool.false_eq_true, if_false,
    List.isEmpty_nil, if_true, hstage, State.putStage, hmove]

/-- One member of a cascade that fails. -/
def State.failMember (s : State) (e : Engine) (t : Nat) (c : EngineCmd) (st : Status) (q : Nat) : State :=
  match s.runningOf q e with
  | some x => s.failRunning q e x c (queuedMember c (q = t)) st 0
  | none => s

theorem State.failCascade_cons {c : EngineCmd} {st : Status} {q : Nat} :
    s.failCascade e t c (q :: ts) st = (s.failMember e t c st q).failCascade e t c ts st := rfl

/-- A tile's command waits for its DMM cascade, if one runs there. -/
def WaitsDmm (s : State) (q : Nat) : Prop := ∀ x, s.runningOf q .de = some x → x.cmd.op.engine = .de ∧ x.stage = .cascade

theorem WaitsDmm.congr {u : State} {q : Nat} (h : WaitsDmm s q) (hu : u.runningOf q .de = s.runningOf q .de) : WaitsDmm u q :=
  fun x hx => h x (hu.symm.trans hx)

theorem State.failMember_dmm {c : EngineCmd} {st : Status} {q : Nat} (hwait : WaitsDmm s q) :
    OnlyTile s (s.failMember .de t c st q) q ∧
      (s.failMember .de t c st q).runningOf q .de = (s.runningOf q .de).map (fun x => x.lostWith st) := by
  unfold State.failMember
  cases hrun : s.runningOf q .de with
  | none => exact ⟨⟨rfl, fun _ _ => rfl⟩, hrun⟩
  | some x =>
    obtain ⟨heng, hst⟩ := hwait x hrun
    dsimp only
    rw [State.failRunning_dmm heng hst]
    exact ⟨onlyTile_setRunning, State.runningOf_setRunning_same⟩

/-- Every command of some tiles that waits for a DMM cascade fails, and memory and the other tiles stay as they are. -/
theorem State.failCascade_dmm {c : EngineCmd} {st : Status} (hnd : ts.Nodup) (hwait : ∀ q ∈ ts, WaitsDmm s q) :
    (s.failCascade .de t c ts st).store = s.store ∧
      (∀ q, q ∉ ts → (s.failCascade .de t c ts st).runningOf q .de = s.runningOf q .de) ∧
      ∀ q ∈ ts, (s.failCascade .de t c ts st).runningOf q .de = (s.runningOf q .de).map (fun x => x.lostWith st) := by
  induction ts generalizing s with
  | nil => exact ⟨rfl, fun _ _ => rfl, fun _ h => absurd h List.not_mem_nil⟩
  | cons p ts ih =>
    obtain ⟨hp, hts⟩ := List.nodup_cons.1 hnd
    obtain ⟨⟨hframe, htile⟩, hfails⟩ := State.failMember_dmm (t := t) (c := c) (st := st) (hwait p List.mem_cons_self)
    have hkeeps : ∀ q, q ≠ p → (s.failMember .de t c st p).runningOf q .de = s.runningOf q .de :=
      fun q hq => State.runningOf_congr (htile q hq)
    have hne : ∀ q ∈ ts, q ≠ p := fun q hq he => hp (by rwa [← he])
    obtain ⟨hstore, hout, hin⟩ := ih (s := s.failMember .de t c st p) hts
      (fun q hq => (hwait q (List.mem_cons_of_mem _ hq)).congr (hkeeps q (hne q hq)))
    rw [State.failCascade_cons]
    refine ⟨by rw [hstore, hframe], fun q hq => ?_, fun q hq => ?_⟩
    · obtain ⟨hqp, hqts⟩ := not_or.1 (fun h => hq (List.mem_cons.2 h))
      rw [hout q hqts, hkeeps q hqp]
    · rcases List.mem_cons.1 hq with rfl | hq
      · rw [hout q hp, hfails]
      · rw [hin q hq, hkeeps q (hne q hq)]

/-- Settles O18: the tiles of the first master that is ready show their roles, and its start goes by whether one of them is lost;
the failures of a DMM cascade are an induction over the tiles left in service. -/
theorem cascadeStarts : Obligations.CascadeStarts := by
  intro s e die cid first
  constructor
  · rintro (hactive | hnone)
    · rw [exec_cascadeStart, State.startCascade_active hactive]
    · rw [exec_cascadeStart, State.startCascade_waits hnone]
  · intro t r ts b hactive hfirst c here
    have hnd : ts.Nodup := nodup_of_mem_cascadeMasters (List.mem_of_find?_eq_some hfirst)
    have havail : ∀ q, ((s.showRoles e cid t (cascMask c) ts).tile q).avail = (s.tile q).avail :=
      fun q => State.showRoles_avail hnd
    have hstarts := State.startCascade_starts hactive hfirst
    have hlost := State.startCascade_lost hactive hfirst
    simp only [← show c = s.cascadeCmd t r.cmd from rfl, havail] at hstarts hlost
    refine ⟨s.showRoles e cid t (cascMask c) ts, s.startCascade e die cid, exec_cascadeStart, State.modTiles_frame,
      fun q hq => State.tile_modTiles_other hq, fun q hq => State.tile_showRoles_mem hnd hq, fun hall he hroom => ?_,
      fun hall he hroom => ?_, fun he hhere hwait => ?_⟩
    · rw [if_pos he] at hstarts
      exact hstarts hall hroom
    · rw [if_neg he] at hstarts
      exact hstarts hall hroom
    · subst he
      have hmissing : ∃ q ∈ ts, (s.tile q).avail = false := by
        refine Classical.byContradiction (fun hno => ?_)
        exact hhere (List.filter_eq_self.2 (fun q hq => by simpa using fun h => hno ⟨q, hq, h⟩))
      rw [hlost hmissing]
      have hruns : ∀ q, (s.showRoles .de cid t (cascMask c) ts).runningOf q .de = s.runningOf q .de :=
        fun q => State.showRoles_runningOf hnd
      obtain ⟨hstore, -, hfails⟩ := State.failCascade_dmm (s := s.showRoles .de cid t (cascMask c) ts) (ts := here) (t := t)
        (c := (s.showRoles .de cid t (cascMask c) ts).cascadeCmd t r.cmd) (st := stTileLost) (hnd.filter _)
        (fun q hq => WaitsDmm.congr (hwait q hq) (hruns q))
      refine ⟨by rw [hstore, State.showRoles, State.modTiles_frame], fun q hq x hx => ?_⟩
      rw [hfails q hq, hruns q, hx]
      rfl

end Sys2Proof.Machine
end
